-- ==== Sys2Proof/Word.lean ====
section
/-!
DEFINITION. The word types of the model and the one shape in which every large, mostly empty store is kept.
A field the spec treats as bits is a bit vector; a key into a store is a plain natural number.
-/

namespace Sys2Proof

/-- One byte of memory (R3: bit 0 is the least significant bit). -/
abbrev Byte := BitVec 8

/-- A 32-bit word: headers, S syllables, scale registers, FP32 patterns. -/
abbrev Word32 := BitVec 32

/-- A 64-bit word: scalar registers, control registers, V, M and C1 syllables. -/
abbrev Word64 := BitVec 64

/-- A vector register, 1,024 bits. -/
abbrev VWord := BitVec 1024

/-- A predicate register, one bit per byte of a vector register (128 bits). -/
abbrev PWord := BitVec 128

/-- A sparse store: pairs of a key and a value, keys strictly rising, no entry that holds what an unlisted key reads as.
The operations on it are in `Machine/Tab.lean`. For bytes this is a list of `Host.Cell`. -/
abbrev Tab (α : Type) := List (Nat × α)

end Sys2Proof
end

