-- ==== Sys2Proof/Config.lean ====
section
/-!
DEFINITION. What the spec leaves to the implementation and what it leaves without a value: constants with no body,
so that no proof can rest on a value of theirs. Every one of them is named by an entry of the assumption log.
-/

namespace Sys2Proof.Config

/-- The entropy source of coins drawn in NDC mode (R284), applied to the running count of draws. FREE VALUE, log entry 3. -/
opaque entropy : Nat → BitVec 64

/-- A value the spec leaves undefined where the machine goes on, applied to the model's counter `free`. FREE VALUE, log entry 4. -/
opaque freeByte : Nat → BitVec 8

/-- The SHA-256 digest of a byte string (R133, R136): the spec names the function and gives no definition. FREE VALUE, log entry 5. -/
opaque sha256 : List (BitVec 8) → BitVec 256

/-- The RSASSA-PSS signature over bytes 0 to 639 of a report (R137), with the salt drawn at that moment. FREE VALUE, log entry 5. -/
opaque signature : List (BitVec 8) → Nat → BitVec 3072

/-- The module serial number held in fuses (R136). FREE VALUE, log entry 5. -/
opaque serial : BitVec 64

/-- The SHA-256 of the attestation public key (R136). FREE VALUE, log entry 5. -/
opaque keyId : BitVec 256

/-- The chain by which the device certificate authority certifies the attestation public key (R137). FREE VALUE, log entry 5. -/
opaque certificates : List (BitVec 8)

/-- The bytes of a firmware image as it left manufacture: 0 boot ROM, then the images in the order of MEAS (R22, R136). FREE VALUE, log entry 5. -/
opaque firmware : Nat → List (BitVec 8)

/-- A fresh key installed at the n-th key installation (R26, R133). FREE VALUE, log entry 5. -/
opaque freshKey : Nat → BitVec 256

end Sys2Proof.Config
end

