-- ==== Sys2Proof/Syntax.lean ====
section
/-!
DEFINITION. The operations and events of the part, one constructor for each row of spec/opcode_table.json.
Rows 131 to 298 are the operations a thread issues (rule chapters 11 and 13 to 17); the others are the steps of the
launch unit, the front end, Silo, the stations, the ports, the round controller, the translation units and the engines.
-/

namespace Sys2Proof

/-- A scalar or vector register number. -/
abbrev RegNo := BitVec 6

/-- An immediate that takes its extension word only when E is set (R312). -/
inductive ExtImm (n : Nat) where
  | short (v : BitVec n)
  | long (v : BitVec (n + 32))
  deriving DecidableEq, Repr

/-- Conditions of CMP and WAITF (R318). -/
inductive Cond where
  | eq | ne | lt | le | nlt | nle
  deriving DecidableEq, Repr

/-- Conditions of VCMP (R318). -/
inductive VCond where
  | eq | ne | lt | le | uo | ord
  deriving DecidableEq, Repr

/-- Width of SEXT and ZEXT (R318): 8, 16 or 32 bits. -/
inductive ExtWidth where
  | w8 | w16 | w32
  deriving DecidableEq, Repr

/-- Kinds of FENCE (R318, R240). -/
inductive FenceKind where
  | acq | rel | full
  deriving DecidableEq, Repr

/-- Scopes (R238), in the order of their codes. -/
inductive Scope where
  | core | cluster | die | device | domain | system
  deriving DecidableEq, Repr

/-- Vector widths (R313). -/
inductive Wid where
  | w256 | w512 | w1024
  deriving DecidableEq, Repr

/-- Float lane types (R385): codes 0 to 2. -/
inductive FTy where
  | f32 | bf16 | f16
  deriving DecidableEq, Repr

/-- Integer type codes (R313): 0 to 7. -/
inductive ITy where
  | i8 | i16 | i32 | i64 | n8 | n16 | n32 | n64
  deriving DecidableEq, Repr

/-- A lane type of VCMP and VREDS, of either kind (R318). -/
inductive LaneTy where
  | flt (t : FTy)
  | int (t : ITy)
  deriving DecidableEq, Repr

/-- The fourteen number formats (R261), in the order of their codes. -/
inductive Fmt where
  | f32 | bf16 | f16 | e4m3 | e5m2 | mx8 | mx8e5 | mx6 | mx6e3 | mx4 | mxi8 | sx8 | sx5 | sx3
  deriving DecidableEq, Repr

/-- Rounding modes (R267). -/
inductive RMode where
  | rne | rtz | rdn | rup
  deriving DecidableEq, Repr

/-- The three kinds of VCVT (R395), each with its result and its source type. -/
inductive Cvt where
  | floatFloat (r s : Fmt)
  | floatInt (r : ITy) (s : Fmt)
  | intFloat (r : Fmt) (s : ITy)
  deriving DecidableEq, Repr

/-- Operations of VREDS (R318). -/
inductive RedOp where
  | add | min | max | and | or | xor
  deriving DecidableEq, Repr

/-- Kinds of summary record (R280). -/
inductive SkKind where
  | qsk | hhk | dck
  deriving DecidableEq, Repr

/-- Types of SPADD (R441). -/
inductive SpaTy where
  | i32 | f32 | bf16
  deriving DecidableEq, Repr

/-- Atomic operations (R457) other than rsc; `nat` is the natural form of min and max. -/
inductive AmoOp where
  | add | min (nat : Bool) | max (nat : Bool) | and | or | xor | swap | cas | fadd | fmax
  deriving DecidableEq, Repr

/-- Who writes or reads a register of the module (R112). -/
inductive Agent where
  | silo | meadow
  deriving DecidableEq, Repr

/-- A register of the module's register blocks, with its index where there are several. The layouts are in `Machine/Regs.lean`. -/
inductive ModReg where
  | powerFault | tstate | devid | devfrlim | impasid | importWord (entry word : Nat) | impstat
  | mcstage (word : Nat) | mccmd | mcctl (entry : Nat) | mcbmp (entry word : Nat) | colspill
  | cqcfg (q : Nat) | cqptr (q : Nat) | cqstat (q : Nat) | cqrpl (q : Nat) | evcnt (n : Nat)
  | nrcfg | nrptr | hvec | notify
  | atbase | pincmd | pfqcfg (die : Nat) | pfqptr (die : Nat) | pfans | invaddr | invlen | invcmd | migva | migdst | migctl
  | gctl (slot : Nat) | gcfg (slot : Nat) | ground (slot : Nat) | glast (slot : Nat) | gjbase (slot : Nat) | gjsize (slot : Nat)
  | grepair (slot : Nat) | gmem (slot j : Nat) | greg0 (slot r : Nat) | greg1 (slot r : Nat) | glog (slot i : Nat)
  | hdmWindow | biLimit
  deriving DecidableEq, Repr

/-- A firmware image staged into boot flash (R24). Only a Meadow image takes effect at ATTEST. -/
inductive ImageKind where
  | silo | meadow | loader | hbmTraining | station | policy
  deriving DecidableEq, Repr

/-- A firmware image: its kind, its bytes, and whether its RSA-3072 signature over their SHA-256 is good (R22 step 2). -/
structure Image where
  kind : ImageKind
  bytes : List Byte
  signed : Bool
  deriving DecidableEq, Repr

/-- How a boot step ends: whether it completes, and what its interfaces report as failed (R22). -/
structure StepEnd where
  ok : Bool
  bad : List Nat
  deriving DecidableEq, Repr

/-- Who sends a plain request: its device, and whether a thread of it asks (R34, R258). -/
structure Sender where
  dev : Nat
  thread : Bool
  deriving DecidableEq, Repr

/-- Requests of a control core to Silo's mailbox (R110) that the spec names. -/
inductive MailboxReq where
  | attestation (nonce : BitVec 256)
  | release
  | warmReset
  | powerFaultClear
  | other (record : List Byte)
  deriving DecidableEq, Repr

/-- What a message or its answer carries for which the header of R38 has no place: the writer identity and counter of a cell store or reconcile
(R251), whether the fold that an answer reports depends on the order of arrival (R260), on a State query of CREATE or ADMIT the descriptor of the
group, which the members compare (R73), and the old m that a rescaling reduction answers (R458, R503; log entry 22). -/
structure Carried where
  wid : BitVec 40
  wctr : BitVec 24
  ordered : Bool
  desc : List Word64
  old : BitVec 32
  deriving DecidableEq, Repr

/-- Nothing carried. -/
def Carried.none : Carried := ⟨0, 0, false, [], 0⟩

/-- A tunnel message (R37 to R39): the header's fields, the payload, the message area it was written into, and what else it carries. -/
structure TunnelMsg where
  kind : BitVec 8
  flags : BitVec 8
  tag : BitVec 16
  src : BitVec 16
  len : BitVec 16
  offset : BitVec 48
  aux : BitVec 16
  payload : List Byte
  areaSrc : BitVec 10
  areaRsp : Bool
  carried : Carried
  deriving DecidableEq, Repr

/-- A read, write or atomic request that arrives through aperture 0x3 (R34), a ring-mode write with its sending core and span (R464, R467), or a row
of an MDRAIN, which its home adds indivisibly (R244). -/
inductive RemoteReq where
  | read (len : Nat)
  | write (bytes : List Byte)
  | chunk (core : Nat) (span : BitVec 3) (bytes : List Byte)
  | atomic (op : AmoOp) (wide : Bool) (b c : Word64)
  | drain (f : FTy) (row : List Word32) (ta tb : Word32) (clamp : Option (Word32 × Word32)) (ovtab : BitVec 128)
  deriving DecidableEq, Repr

/-- What a station delivers (R50): a request, of a thread's S, C1 or M queue or not (R258); the completion of one of ours, with whether its bytes are
of a VERSIONED page (R250); or a whole tunnel message. -/
inductive Packet where
  | request (src id offset : Nat) (thread : Bool) (req : RemoteReq)
  | completion (id : Nat) (cause : Nat) (count : Nat) (bytes : List Byte) (cell : Bool)
  | tunnel (m : TunnelMsg)
  deriving DecidableEq, Repr

/-- Requests of the external host on port A (R247). -/
inductive HostReq where
  | readShared
  | readOwn
  | write (mask : BitVec 64) (data : BitVec 512)
  | writeBack (data : BitVec 512)
  | evict
  deriving DecidableEq, Repr

/-- An RDMA access that arrives on a scale-out port (R53). -/
inductive RdmaReq where
  | read (va : Nat) (len : Nat)
  | write (va : Nat) (bytes : List Byte)
  | send (bytes : List Byte)
  deriving DecidableEq, Repr

/-- The 8-byte header of a command entry (R116). -/
structure CmdHdr where
  cev : Bool
  evt : BitVec 12
  deriving DecidableEq, Repr

/-- A condition word of WAIT (R117). -/
structure WaitCond where
  thresh : BitVec 48
  valid : Bool
  counter : BitVec 12
  deriving DecidableEq, Repr

/-- One operation or event. Those that carry operands come first, in the order of the opcode table, then those that carry none.
An event of a sequencer or an engine acts on the context in focus or on its core, an event of the round controller on the group
slot in focus, and an event of the front end that names no queue on the queue in focus (`Module.focus`, `gfocus`, `qfocus`). -/
inductive Instr where
  -- power, reset, boot, management (rules R18 to R24)
  | bootStep (ok : StepEnd)
  | powerSample (watts : Nat) (mean : Nat)
  | thermalSample (hottest : List Nat)
  | firmwareStage (img : Image)
  | attestationRequest (nonce : BitVec 256)
  | mailboxRequest (req : MailboxReq)
  -- tenancy (R131 to R134)
  | scrub (readBackOk : Bool)
  | attest (mailboxAnswered : Bool)
  | health (clustersOk : BitVec 128) (stacksOk : BitVec 16) (stationsOk : BitVec 36)
  -- registers and tables of the station control block
  | registerWrite (who : Agent) (r : ModReg) (v : Word64)
  | importEntryWrite (entry : BitVec 10) (second : Bool) (v : Word64)
  | mcastSetv (idx : BitVec 8)
  | mcastClrv (idx : BitVec 8)
  -- the fabric
  | packetReceive (station : Nat) (seq : Nat) (crcOk : Bool) (p : Packet)
  | laneLoss (station : Nat) (lane : Nat)
  | retrainComplete (station : Nat)
  | remoteRequest (src : Sender) (id offset : Nat) (req : RemoteReq)
  | remoteTimeout (id : Nat)
  | cellLoad (m : TunnelMsg)
  | cellStore (m : TunnelMsg)
  | cellReconcile (m : TunnelMsg)
  | summaryMerge (m : TunnelMsg)
  | rescalingReduction (m : TunnelMsg)
  | roundDelta (m : TunnelMsg)
  | prepare (m : TunnelMsg)
  | decide (m : TunnelMsg)
  | stateQuery (m : TunnelMsg)
  | shareRequest (m : TunnelMsg)
  | revoke (m : TunnelMsg)
  | voteRequest (m : TunnelMsg)
  | tunnelResponse (m : TunnelMsg)
  | remotePostArrival (src : Nat) (offset : Nat) (isMax : Bool) (value : BitVec 48)
  | remoteReadDrop (src : Nat)
  | windowArrival (src id : Nat) (offset : Nat) (bytes : List Byte)
  | ringChunkArrival (src id : Nat) (srcCore : Nat) (span : BitVec 3) (offset : Nat) (bytes : List Byte)
  | spillRefetch (core : Nat) (ring : Nat)
  -- the ports
  | hostRequest (pa : Nat) (req : HostReq)
  | snoopComplete (pa : Nat) (data : Option (BitVec 512))
  | poolTimeout (ctx : Nat) (idx : Nat)
  -- the front end
  | cqcfgWrite (q : BitVec 6) (v : Word64)
  | cqptrTailWrite (q : BitVec 6) (tail : Word32)
  | evcntWrite (n : BitVec 12) (v : Word64)
  | launch (q : BitVec 6) (h : CmdHdr) (record : Word64)
  | wait (q : BitVec 6) (h : CmdHdr) (c0 c1 c2 c3 : WaitCond)
  | memoryCopy (q : BitVec 6) (h : CmdHdr) (src dst len : Word64)
  | memoryFill (q : BitVec 6) (h : CmdHdr) (dst len pattern : Word64)
  | rdmaWrite (q : BitVec 6) (h : CmdHdr) (src dst len : Word64) (qp : BitVec 24) (key : Word32)
  | rdmaRead (q : BitVec 6) (h : CmdHdr) (src dst len : Word64) (qp : BitVec 24) (key : Word32)
  | memoryComplete (q : BitVec 6) (id : Nat) (cause : BitVec 7) (inbound : List Byte)
  | roundRopen (q : BitVec 6) (h : CmdHdr) (gid : BitVec 16) (round : BitVec 48)
  | roundRprep (q : BitVec 6) (h : CmdHdr) (gid : BitVec 16) (round : BitVec 48)
  | roundRcmt (q : BitVec 6) (h : CmdHdr) (gid : BitVec 16) (round : BitVec 48)
  | roundRrevoke (q : BitVec 6) (h : CmdHdr) (gid : BitVec 16) (round : BitVec 48)
  | suspect (q : BitVec 6) (h : CmdHdr) (gid : BitVec 16) (round : BitVec 48)
  | postAdd (q : BitVec 6) (h : CmdHdr) (counter : BitVec 12) (remote : Option (BitVec 10)) (value : BitVec 48)
  | postMax (q : BitVec 6) (h : CmdHdr) (counter : BitVec 12) (remote : Option (BitVec 10)) (value : BitVec 48)
  | replayStart (cluster : Nat) (cause : BitVec 7)
  -- the launch unit
  | launchRestore (launch : Nat)
  | triggerComplete (launch : Nat)
  -- sequencer and engine steps
  | loadComplete (ctx : Nat) (idx : Nat)
  | tokenWrite (ctx : Nat) (idx : Nat)
  | homeOperation (ctx : Nat) (idx : Nat)
  | jobStart (ctx : Nat) (idx : Nat)
  | jobComplete (ctx : Nat) (idx : Nat)
  | notify (core : BitVec 10)
  | fend (ctx : Nat) (code : BitVec 7)
  -- translation
  | tableWalk (die : Nat) (asid : BitVec 16) (va : Nat)
  | pfansRetry (id : BitVec 16)
  | pfansNomap (id : BitVec 16)
  | pfansDeny (id : BitVec 16)
  | regionFillComplete (ctx : Nat) (block : Nat)
  | invalidate (cmd : Word64)
  | migrate (cmd : Word64)
  | pin (cmd : Word64)
  | unpin (cmd : Word64)
  -- coding groups
  | admitMember (slot : BitVec 3) (ridx : BitVec 4)
  | lineRepair (slot : BitVec 3) (region : BitVec 6) (line : BitVec 30)
  | gregWrite (slot : BitVec 3) (region : BitVec 6) (second : Bool) (v : Word64)
  -- the S slot
  | add (d a b : RegNo)
  | addi (d a : RegNo) (imm : ExtImm 12)
  | sub (d a b : RegNo)
  | mul (d a b : RegNo)
  | mulh (nat : Bool) (d a b : RegNo)
  | div (nat : Bool) (d a b : RegNo)
  | rem (nat : Bool) (d a b : RegNo)
  | and (d a b : RegNo)
  | or (d a b : RegNo)
  | xor (d a b : RegNo)
  | andn (d a b : RegNo)
  | shlReg (d a b : RegNo)
  | shlImm (d a : RegNo) (n : BitVec 6)
  | shrReg (d a b : RegNo)
  | shrImm (d a : RegNo) (n : BitVec 6)
  | shaReg (d a b : RegNo)
  | shaImm (d a : RegNo) (n : BitVec 6)
  | rotlReg (d a b : RegNo)
  | rotlImm (d a : RegNo) (n : BitVec 6)
  | clz (d a : RegNo)
  | ctz (d a : RegNo)
  | popc (d a : RegNo)
  | min (nat : Bool) (d a b : RegNo)
  | max (nat : Bool) (d a b : RegNo)
  | cmp (c : Cond) (d a b : RegNo)
  | sel (d a b c : RegNo)
  | li (d : RegNo) (imm : ExtImm 12)
  | mov (d a : RegNo)
  | sext (w : ExtWidth) (d a : RegNo)
  | zext (w : ExtWidth) (d a : RegNo)
  | bfx (d a : RegNo) (p l : BitVec 6)
  | bfi (d a : RegNo) (p l : BitVec 6)
  | lea (d a b : RegNo) (n : BitVec 2)
  | cvta (d a b : RegNo) (dir : BitVec 2)
  | isap (d a : RegNo) (ap : BitVec 4)
  | ld (sx : Bool) (w : BitVec 2) (d a : RegNo) (off : ExtImm 9)
  | st (w : BitVec 2) (d a : RegNo) (off : ExtImm 9)
  | br (off : ExtImm 17)
  | brcEq (a : RegNo) (off : ExtImm 17)
  | brcNe (a : RegNo) (off : ExtImm 17)
  | call (a : RegNo) (off : ExtImm 17)
  | ret (a : RegNo)
  | jr (a : RegNo)
  | loopImm (len : BitVec 6) (cnt : ExtImm 12)
  | loopReg (len : BitVec 6) (a : RegNo)
  | join (d a : RegNo)
  | leave (a : RegNo)
  | cbar (a : RegNo)
  | carr (d a : RegNo)
  | cwait (a b : RegNo)
  | waitf (c : Cond) (wide : Bool) (a b : RegNo)
  | waitt (a : RegNo)
  | fence (k : FenceKind) (sc : Scope)
  | csrr (d : RegNo) (csr : BitVec 12)
  | csrw (csr : BitVec 12) (a : RegNo)
  | csrx (d : RegNo) (csr : BitVec 12) (a : RegNo)
  | trap (n : BitVec 12)
  | ovtld (a b : RegNo)
  | ropen (d a b : RegNo)
  | rprep (d a : RegNo)
  | rcmt (d a : RegNo)
  | rstat (d a b : RegNo)
  | rrevoke (d a b : RegNo)
  | protr (d a b : RegNo) (k : BitVec 6)
  -- the V slots
  | vadd (w : Wid) (t : FTy) (d a b : RegNo) (p : BitVec 4)
  | vsub (w : Wid) (t : FTy) (d a b : RegNo) (p : BitVec 4)
  | vmul (w : Wid) (t : FTy) (d a b : RegNo) (p : BitVec 4)
  | vfma (w : Wid) (t : FTy) (d a b c : RegNo) (p : BitVec 4)
  | vfms (w : Wid) (t : FTy) (d a b c : RegNo) (p : BitVec 4)
  | vmin (w : Wid) (t : FTy) (d a b : RegNo) (p : BitVec 4)
  | vmax (w : Wid) (t : FTy) (d a b : RegNo) (p : BitVec 4)
  | vabs (w : Wid) (t : FTy) (d a : RegNo) (p : BitVec 4)
  | vneg (w : Wid) (t : FTy) (d a : RegNo) (p : BitVec 4)
  | vrnd (w : Wid) (t : FTy) (md : RMode) (d a : RegNo) (p : BitVec 4)
  | vcmp (w : Wid) (t : LaneTy) (c : VCond) (d : BitVec 4) (a b : RegNo) (p : BitVec 4)
  | vsel (w : Wid) (t : ITy) (d a b : RegNo) (p : BitVec 4)
  | pand (d a b : BitVec 4)
  | por (d a b : BitVec 4)
  | pxor (d a b : BitVec 4)
  | pnot (d a : BitVec 4)
  | pcnt (d : RegNo) (a : BitVec 4)
  | viadd (w : Wid) (t : ITy) (sat : Bool) (d a b : RegNo) (p : BitVec 4)
  | visub (w : Wid) (t : ITy) (sat : Bool) (d a b : RegNo) (p : BitVec 4)
  | vimul (w : Wid) (t : ITy) (sat : Bool) (d a b : RegNo) (p : BitVec 4)
  | vimad (w : Wid) (t : ITy) (sat : Bool) (d a b c : RegNo) (p : BitVec 4)
  | vshl (w : Wid) (t : ITy) (d a b : RegNo) (p : BitVec 4)
  | vshr (w : Wid) (t : ITy) (d a b : RegNo) (p : BitVec 4)
  | vsha (w : Wid) (t : ITy) (d a b : RegNo) (p : BitVec 4)
  | vand (w : Wid) (t : ITy) (d a b : RegNo) (p : BitVec 4)
  | vor (w : Wid) (t : ITy) (d a b : RegNo) (p : BitVec 4)
  | vxor (w : Wid) (t : ITy) (d a b : RegNo) (p : BitVec 4)
  | vimin (w : Wid) (t : ITy) (d a b : RegNo) (p : BitVec 4)
  | vimax (w : Wid) (t : ITy) (d a b : RegNo) (p : BitVec 4)
  | vexp2 (w : Wid) (t : FTy) (d a : RegNo) (p : BitVec 4)
  | vlog2 (w : Wid) (t : FTy) (d a : RegNo) (p : BitVec 4)
  | vrcp (w : Wid) (t : FTy) (d a : RegNo) (p : BitVec 4)
  | vrsq (w : Wid) (t : FTy) (d a : RegNo) (p : BitVec 4)
  | vtanh (w : Wid) (t : FTy) (d a : RegNo) (p : BitVec 4)
  | vcvt (w : Wid) (k : Cvt) (md : RMode) (sat : Bool) (d a : RegNo) (p : BitVec 4)
  | vpacksx (w : Wid) (r s : Fmt) (md : RMode) (sat : Bool) (d a : RegNo) (p : BitVec 4)
  | vunpk (w : Wid) (r s : Fmt) (d a : RegNo)
  | vperm (w : Wid) (t : ITy) (d a b : RegNo)
  | vbcast (w : Wid) (t : ITy) (d a : RegNo) (p : BitVec 4)
  | vmovsExtract (w : Wid) (t : ITy) (d a : RegNo) (lane : BitVec 7)
  | vmovsInsert (w : Wid) (t : ITy) (d a : RegNo) (lane : BitVec 7)
  | vmovv (w : Wid) (d a : RegNo) (p : BitVec 4)
  | viota (w : Wid) (t : ITy) (d a : RegNo) (p : BitVec 4)
  | vreds (w : Wid) (t : LaneTy) (op : RedOp) (d a : RegNo) (p : BitVec 4)
  | skqin (w : Wid) (t : FTy) (d : BitVec 2) (a : RegNo) (p : BitVec 4)
  | skhin (w : Wid) (wide : Bool) (d : BitVec 2) (a : RegNo) (p : BitVec 4)
  | skdin (w : Wid) (wide : Bool) (d : BitVec 2) (a : RegNo) (p : BitVec 4)
  | skmrg (d a : BitVec 2)
  | skqry (d : RegNo) (a : BitVec 2) (b : RegNo)
  | skrnk (d : RegNo) (a : BitVec 2) (b : RegNo)
  | skest (d c : RegNo) (a : BitVec 2) (b : RegNo)
  | sktop (d c : RegNo) (a : BitVec 2) (b : RegNo)
  | skclr (k : SkKind) (d : BitVec 2)
  -- the M slot
  | mma (k : Bool) (mt ga gb : BitVec 3) (fa fb : Fmt) (klen : BitVec 10)
  | mmag (k : Bool) (mt ga gb : BitVec 3) (fa fb : Fmt) (klen : BitVec 10) (sa : RegNo)
  | mzero (mt : BitVec 3)
  | mdrainScratchpad (k : Bool) (mt : BitVec 3) (sa sb : RegNo) (fa : FTy) (ea eb : BitVec 4) (cl : Bool) (ec : BitVec 4)
  | mdrainGeneric (k : Bool) (mt : BitVec 3) (sa sb : RegNo) (fa : FTy) (ea eb : BitVec 4) (cl : Bool) (ec : BitVec 4)
  | mldaccScratchpad (k : Bool) (mt : BitVec 3) (sa sb : RegNo)
  | mldaccGeneric (k : Bool) (mt : BitVec 3) (sa sb : RegNo)
  | mrcfg (ga : BitVec 3) (sa sb : RegNo)
  | mrpush (ga : BitVec 3) (sa : RegNo)
  | mrpop (ga : BitVec 3)
  | mkat (n : BitVec 4)
  | mkcmp (n : BitVec 4) (const : Word64)
  | mwait (mask : BitVec 8)
  -- the C0 slot
  | spld (k : Bool) (w : BitVec 2) (d a : RegNo) (off : BitVec 12)
  | spst (k : Bool) (w : BitVec 2) (d a : RegNo) (off : BitVec 12)
  | splds (k : Bool) (d : BitVec 4) (a : RegNo) (off : BitVec 12)
  | spldp (k : Bool) (w : BitVec 2) (d a : RegNo) (p : BitVec 4) (off : BitVec 8)
  | spstp (k : Bool) (w : BitVec 2) (d a : RegNo) (p : BitVec 4) (off : BitVec 8)
  | skld (d : BitVec 2) (a : RegNo) (off : BitVec 12)
  | skst (d : BitVec 2) (a : RegNo) (off : BitVec 12)
  | spfill (k : Bool) (a : RegNo) (off : BitVec 12)
  | spmap (n : BitVec 3) (d a : RegNo)
  | spsyncOne (n : BitVec 3)
  | spadd (k : Bool) (t : SpaTy) (w : BitVec 2) (d a : RegNo) (off : BitVec 10)
  -- the C1 slot
  | cpy (k : Bool) (t a : RegNo)
  | cpyr (k : Bool) (t a : RegNo) (g : BitVec 3)
  | gath (k : Bool) (t a : RegNo)
  | scat (k : Bool) (t a : RegNo)
  | rld (k : Bool) (sx : Bool) (w : BitVec 2) (t a d : RegNo) (off : BitVec 13)
  | rst (k : Bool) (w : BitVec 2) (t a b : RegNo) (off : BitVec 13)
  | rldt (k : Bool) (w : BitVec 2) (a d : RegNo) (off : BitVec 13)
  | amo (k : Bool) (op : AmoOp) (wide : Bool) (t a b c d : RegNo) (off : BitVec 13)
  | amoRsc (k : Bool) (t a b c d : RegNo) (off : BitVec 13)
  | skamo (kind : SkKind) (t a b : RegNo) (off : BitVec 13)
  | cld (t a b d : RegNo) (off : BitVec 13)
  | cst (t a b c d : RegNo) (off : BitVec 13)
  | crcn (op : BitVec 4) (t a b d : RegNo) (off : BitVec 13)
  | mcast (idx : BitVec 8) (t a b : RegNo)
  | coll (t a : RegNo)
  | pfetch (k : Bool) (a : RegNo) (off : BitVec 13)
  -- whole bundles
  | pureRepeat (rep : BitVec 5) (stop : Bool)
  | brk (low : BitVec 28)
  -- events listed after the operations
  | timedLoadDataArrival (ctx : Nat) (idx : Nat)
  | knownAnswerSweepComplete (cluster : Nat) (passed : Bool)
  | nrptrHeadWrite (head : Word32)
  | pageFaultRingHeadWrite (die : Nat) (head : Word32)
  | rdmaRequestArrival (asid : BitVec 16) (req : RdmaReq)
  | colspillWrite (v : Word64)
  -- operations and events without operands
  -- power, reset, boot, management (rules R18 to R24)
  | powerOn
  | coldResetRequest
  | warmReset
  | powerFaultClear
  | powerUpRequest
  | shutdownHoldExpiry
  | telemetryRead
  | eventLogRead
  -- tenancy (R131 to R134)
  | releaseRequest
  | assign
  | release
  | tenancyBoundOverrun
  -- registers and tables of the station control block
  | mccmdComplete
  -- the ports
  | biTimeout
  | hostLinkDown
  | poolLinkDown
  -- the front end
  | queueStop
  | queueResume
  | queueDiscard
  | commandTake
  | waitSatisfied
  | replayDone
  -- the launch unit
  | launchPlace
  | contextSave
  | shadowPlace
  | bankSwitch
  | bankExchangeComplete
  | threadEnd
  -- sequencer and engine steps
  | emptyIssue
  | landing
  | c1RequestStart
  | mExecute
  | mRetire
  | sliceEnter
  | sliceRetire
  | katPatternDone
  | trapEntry
  | interrupt
  | stepTrap
  | waitStall
  -- translation
  | regionWriteback
  | invalidateComplete
  | migrationComplete
  | pinComplete
  -- coding groups
  | create
  | createTimeout
  | dissolve
  | admitTimeout
  | heartbeat
  | voteTimeout
  | rcmtTimeout
  | roundAnswer
  -- the S slot
  | nop
  | lexit
  | trig
  | yield
  | halt
  | eret
  | ovtldRst
  -- the C0 slot
  | spsyncAll
  -- the C1 slot
  | qfence
  -- events listed after the operations
  | vin48Falling
  deriving DecidableEq, Repr

end Sys2Proof
end

