-- ==== Sys2Proof/Machine/State.lean ====
section
/-!
DEFINITION. The state of one JL-7200 module, as plain data: every piece the spec names, and the model's own schedule.
Stores are sparse (`Tab`); what an unlisted key reads as is said at each field.
-/

namespace Sys2Proof.Machine

/-- A cause code: the 7-bit field of R8. The names are in `Machine/Causes.lean`. -/
abbrev Cause := BitVec 7

/-- The ways a cause is delivered as a trap (R480): precise, after the bundle, at a landing issue, imprecise. -/
inductive Delivery where
  | P | A | L | I
  deriving DecidableEq, Repr

/-- A cause that is due to be taken as a trap: what CAUSE and EDATA receive (R481, R493). -/
structure Trap where
  cause : Cause
  detail : BitVec 25
  datum : Word64
  delivery : Delivery
  deriving DecidableEq, Repr

/-- A register named by an operation, for the run masks and the landing queue (R178). -/
inductive Reg where
  | s (n : Nat) | v (n : Nat) | p (n : Nat) | q (n : Nat) | e (n : Nat)
  deriving DecidableEq, Repr

/-- An entry of the landing queue (R181): what it writes, its remaining count, the slot that made it (R182), the fault it
raises instead (R185), the physical bytes whose data have still to arrive, with their generic address (RLDT) and the serial number that orders
the load among the queued operations (R240), and whether it is an issue of the C1 operation that is armed, which its fault disarms (R193). -/
structure Landing where
  writes : List (Reg × VWord)
  rem : Nat
  slot : Nat
  fault : Option Trap
  load : Option (Nat × Nat × Word64 × Nat)
  re : Bool
  deriving DecidableEq, Repr

/-- A store of the C0 port that later C0 loads do not yet see (R235): the bytes it replaced, which those loads still read, and
the bundle issues since it issued. Every other unit reads the scratchpad as the store left it. `framed` marks a store of the
interrupted code while a handler runs. -/
structure C0Store where
  old : List (Nat × Byte)
  age : Nat
  framed : Bool
  deriving DecidableEq, Repr

/-- A hardware loop level (R195): its body's bundle addresses, the address after it, the iterations left, and the loop
buffer's copy of the body. -/
structure Loop where
  body : List Nat
  after : Nat
  left : Nat
  code : Tab Byte
  deriving DecidableEq, Repr

/-- An armed sticky operation (R192): the operation, the bytes its address has been stepped by, and for C1 whether the
token is still to be written and what its issues have delivered so far (R193): the serial number of its first issue, the bytes, and
the first issue that did not complete with its serial number, STATE, CAUSE and DETAIL; for MMAG the contexts of its gang (R424). -/
structure Armed where
  op : Instr
  step : Word64
  base : Word64
  token : Nat
  since : Nat
  outstanding : Nat
  count : Nat
  first : Option (Nat × Nat × Cause × BitVec 25)
  members : List Nat
  deriving DecidableEq, Repr

/-- The part of the sequencer a trap saves (R481), with the causes of the interrupted code that are held until ERET (R504) and its C0
stores, whose ages a handler's issues do not change (R202). `epc` is the value trap entry gave EPC (R482). -/
structure Frame where
  rep : Option Nat
  loops : List Loop
  armM : Option Armed
  armC0 : Option Armed
  armC1 : Option Armed
  mask : List Reg
  land : List Landing
  held : List Trap
  c0 : List C0Store
  crewWait : Option (Nat × BitVec 32)
  halting : Bool
  epc : Word64
  deriving DecidableEq, Repr

/-- What Meadow answered for the page fault an access waits on (R228); or that it stalls on the snoop of a half-line, or that the port went down
with that snoop unanswered (R56, R60). -/
inductive PfWait where
  | none
  | waiting (id : Nat)
  | nomap
  | deny
  | snoop (h : Nat)
  | poison
  deriving DecidableEq, Repr

/-- What an S-queue entry does (R190, R240, R373, R491). -/
inductive SKind where
  | load (sx : Bool) (dest : Nat)
  | store (data : Word64)
  | marker (k : FenceKind) (sc : Scope)
  | trigMark
  | crewMark (h : Nat) (x : BitVec 32)
  deriving DecidableEq, Repr

/-- An entry of the S queue: width in bytes, generic address, the answer of Meadow it waits for, the request it has sent (R36), and the
serial number that orders it in issue. -/
structure SEntry where
  kind : SKind
  width : Nat
  addr : Word64
  pf : PfWait
  user : Bool
  remote : Option Nat
  serial : Nat
  deriving DecidableEq, Repr

/-- What a C1-queue entry does; register operands are those read at issue (R436). -/
inductive C1Kind where
  | cpy | cpyr (ring : Nat) | gath | scat | coll
  | rld (sx : Bool) (w : Nat) (dest : Nat)
  | rst (w : Nat) (data : Word64)
  | amo (op : AmoOp) (wide : Bool) (dest : Nat) (b c : Word64)
  | rsc (dest : Nat) (src n : Word64)
  | skamo (kind : SkKind) (src : Word64)
  | cld (dest : Nat) (sp : Word64)
  | cst (dest : Nat) (sp : Word64) (stamp : Word64) (wctr : Nat)
  | crcn (dest : Nat) (op : Nat) (sp : Word64) (wctr : Nat)
  | mcast (idx : Nat) (dst : Word64)
  | marker (k : FenceKind) (sc : Scope)
  | trigMark
  | qfence
  deriving DecidableEq, Repr

/-- Where a C1 operation stands. `done` carries the token's STATE, COUNT, CAUSE and DETAIL (R332). -/
inductive C1Phase where
  | queued
  | started
  | remote (id : Nat)
  | done (st : Nat) (count : Nat) (cause : Cause) (detail : BitVec 25)
  deriving DecidableEq, Repr

/-- A half-open byte range of a footprint (R161): space 0 own scratchpad, 1 + i peer i, 16 global, 17 pool, 32 + d device d. -/
structure Region where
  space : Nat
  lo : Nat
  hi : Nat
  deriving DecidableEq, Repr

/-- An entry of the C1 queue with its token, its bound crew phase (R446), its footprint once its descriptor has been read
(R445), the value of its destination, the elements and bytes a job has delivered, bytes fetched for its next element, the answers
of the destinations of a multicast (R462), and whether it sets NDSEEN when its token is written (R260). -/
structure C1Entry where
  kind : C1Kind
  addr : Word64
  token : Nat
  user : Bool
  phase : C1Phase
  serial : Nat
  bound : Option (Nat × BitVec 32)
  reads : List Region
  writes : List Region
  desc : List Byte
  known : Bool
  slot : Option Nat
  pf : PfWait
  armed : Bool
  value : Option Word64
  next : Nat
  count : Nat
  buf : Option (List Byte)
  acks : List (Nat × Nat × Cause)
  ordered : Bool
  deriving DecidableEq, Repr

/-- What an M-queue entry does; register operands are those read at issue (R408). -/
inductive MKind where
  | mma (mt ga gb : Nat) (fa fb : Fmt) (k : Nat)
  | mmag (mt ga gb : Nat) (fa fb : Fmt) (k : Nat) (gang : Nat)
  | slice (leader : Nat) (gang : Nat) (r : Nat)
  | mzero (mt : Nat)
  | mdrain (mt : Nat) (generic : Bool) (f : FTy) (ta tb : Word32) (clamp : Option (Word32 × Word32)) (ovtab : BitVec 128)
  | mldacc (mt : Nat) (generic : Bool)
  | mrcfg (g : Nat) (w0 w1 : Word64)
  | mrpush (g : Nat) (w : Word64)
  | mrpop (g : Nat)
  | mkat (n : Nat)
  | mkcmp (n : Nat) (const : Word64)
  | marker (k : FenceKind) (sc : Scope)
  | trigMark
  deriving DecidableEq, Repr

/-- An entry of the M queue: its address operand, token, header address (MFADDR, R409), the C1 serial below which C1 jobs
are earlier, the crew phases it is held on (R421), the rows already written, its page-fault wait, the request it has sent to another
module, the bytes of the row that request has brought, the cycle from which it waits for a remote push (R417), and whether it is an issue of the
operation that is armed, which a fault of it disarms (R193). -/
structure MEntry where
  kind : MKind
  addr : Word64
  token : Nat
  user : Bool
  header : Word64
  serial : Nat
  heldOn : List (Nat × BitVec 32)
  rows : Nat
  pf : PfWait
  ovtab : BitVec 128
  remote : Option Nat
  buf : Option (List Byte)
  since : Option Nat
  re : Bool
  deriving DecidableEq, Repr

/-- An operand ring (R410 to R414): configuration and layout words, the three counts modulo 2n, and per slot its span tag,
whether its fill has completed, and whether it is poisoned (R451). -/
structure Ring where
  cfg : Word64
  layout : Word64
  head : Nat
  tail : Nat
  rsv : Nat
  tags : Tab Nat
  filled : Tab Bool
  poisoned : Tab Bool
  deriving DecidableEq, Repr

/-- The thread control registers of R475 that hold state. TBUSY is computed from `busy`; FEND is write only. -/
structure Csrs where
  tid : Word64
  nthr : Word64
  lnum : Word64
  wctr : Word64
  cbstat : Word64
  fmtcap : Word64
  tmrcnt : Word64
  waitlim : Word64
  windowchk : Word64
  ovtab : Word64
  ovtabx : Word64
  stepm : Word64
  stepc0 : Word64
  stepc1 : Word64
  skseed : Word64
  skctl : Word64
  jbind : Word64
  cwin : Word64
  cwcnt : Word64
  rmwbth : Word64
  frlim : Word64
  estat : Word64
  cause : Word64
  epc : Word64
  edata : Word64
  mfaddr : Word64
  tvec : Word64
  hsave0 : Word64
  hsave1 : Word64
  deriving DecidableEq, Repr

/-- Whether a context holds a thread, and what holds its issue: nothing; HALT draining (R375); a page fault or a region fill
(R198, R225); a queue stop or FEND (R479); the context being saved (R154). -/
inductive ThStatus where
  | empty | running | halting | stopped | ended | saving
  deriving DecidableEq, Repr

/-- The remote read by which a WAITF polls its flag (R376): none, sent, or answered. -/
inductive Poll where
  | none
  | sent (id : Nat)
  | value (v : Word64)
  | failed (c : Cause)
  deriving DecidableEq, Repr

/-- A round request a bundle holds on (R486): the operation, its group slot and round, the cycle at which it was made, and the status word once the
controller has answered. -/
structure RoundHold where
  op : Instr
  slot : Nat
  round : Nat
  since : Nat
  answer : Option Word64
  deriving DecidableEq, Repr

/-- The registers, tiles, rings and scratchpad of a thread (R144, R155). Unlisted registers, bytes and elements read zero;
`c0` holds what C0 loads still see instead of the newest C0 stores (R235). -/
structure Regs where
  s : Tab Word64
  v : Tab VWord
  p : Tab PWord
  q : Tab (Tab Byte)
  e : Tab Word32
  tiles : Tab (Tab Word32)
  rings : Tab Ring
  sp : Tab Byte
  c0 : List C0Store
  deriving DecidableEq, Repr

/-- The bundle being issued: its header, the address after it, and how many SKCLRs of it have taken a CLRN and whether its S slot
has written SKCTL (R406). -/
structure Bun where
  header : Word32
  after : Word64
  clears : Nat
  skctlSet : Bool
  deriving DecidableEq, Repr

/-- The sequencer of a thread: pending registers (R186, R187), tile busy bits (R189), the run's write mask (R178), the repeat
count left (R194), loop levels, armed operations, C1 operations disarmed with issues still out (R193), the landing queue, causes held until their boundary (R504), the trap frame
(R481), the core's cycle count at which a WAITF or WAITT began to wait with the EDATA of its WAIT_STALL (R378), the crew phase a CBAR holds the next bundle on (R369), the phase a CWAIT or a further
arrival holds its own bundle on and the unreachable phase it is to fault with (R370), the page fault the thread is stopped
on (R198), the triggers made (R373), whether a faulted S-queue access holds the later ones until ERET (R360), whether a bundle has issued since ERET (R484), a held round instruction, the poll of a WAITF, and the number
of round instructions completed (R126), the serial number of the next queue entry, the bundle being issued, the bytes that the
instruction cache holds by their virtual address (R321), and whether an ERET that has issued makes empty issues until the handler's entries have
landed (R482). -/
structure Sequencer where
  pend : List Nat
  busy : List Nat
  mask : List Reg
  rep : Option Nat
  loops : List Loop
  armM : Option Armed
  armC0 : Option Armed
  armC1 : Option Armed
  closing : List Armed
  land : List Landing
  held : List Trap
  frame : Option Frame
  waitFrom : Option (Nat × Word64)
  crewWait : Option (Nat × BitVec 32)
  cwait : Option (Nat × BitVec 32)
  crewFault : Option (Nat × BitVec 32)
  pf : PfWait
  trigged : Bool
  trigDone : Bool
  sstop : Bool
  stepped : Bool
  roundHold : Option RoundHold
  poll : Poll
  roundIdx : Nat
  serial : Nat
  ir : Bun
  icode : Tab (Option Byte)
  returning : Bool
  deriving DecidableEq, Repr

/-- The engine queues of a thread (R190), the tiles whose results have still to retire, whether the M queue is halted at
its head (R409), and the footprints of jobs that faulted or were cancelled, each with the ring it filled (R164). -/
structure Queues where
  sq : List SEntry
  c1q : List C1Entry
  mq : List MEntry
  retiring : List Nat
  mhalt : Bool
  failed : List (Option Nat × List Region × List Region)
  deriving DecidableEq, Repr

/-- Region maps (R224): the entries' words, the filled blocks, the dirty blocks oldest first, a background write-back's fault
held per entry (R226), and the fills in flight. -/
structure RegionMaps where
  maps : Tab (Word64 × Word64)
  filled : List Nat
  dirty : List Nat
  fault : Tab Nat
  fills : List Nat
  deriving DecidableEq, Repr

/-- One thread's context (R155). `next` is the address a branch of the bundle being issued has chosen. -/
structure Thread where
  status : ThStatus
  launch : Nat
  queue : Nat
  asid : Nat
  pc : Word64
  next : Option Word64
  r : Regs
  u : Sequencer
  csr : Csrs
  x : Queues
  b : RegionMaps
  deriving DecidableEq, Repr

/-- A known-answer pattern in the hidden tile (R430): none, being computed, or a result. -/
inductive Kat where
  | none
  | running (n : Nat)
  | result (n : Nat)
  deriving DecidableEq, Repr

/-- A 128-byte line in an L1 (R211): its number among the physical lines, the valid words by their place in it, and the dirty ones, which the L1
has registered at their home (R212). -/
structure L1Line where
  line : Nat
  words : Tab (Option Word32)
  dirty : List Nat
  deriving DecidableEq, Repr

/-- What belongs to a core and not to a context: which bank is primary and which issues (R158), an exchange in progress
(R199), the held INTERRUPT post (R484), the hidden tile, whether the core is disabled, whether its ACLK is frozen (R16), from which cycle of
its die and for how many cycles before, the lines of its L1, the newest first (R211),
and the bytes of the remote lines the L1 holds read-only (R214) with the least identity of a request whose answer is newer than every answer
that the core has had (R233), and the disagreements that the next triple issue in a slot meets: the slot, and whether all three copies differ
(R200). -/
structure Core where
  primary : Bool
  active : Bool
  exchange : Bool
  post : Bool
  kat : Kat
  disabled : Bool
  frozen : Bool
  frozenAt : Nat
  lost : Nat
  l1 : List L1Line
  ro : Tab (Option Byte)
  roSeen : Nat
  upsets : List (Nat × Bool)
  deriving DecidableEq, Repr

/-- A member of a crew: its TID and the lowest phase at which it has not arrived (R366). -/
structure Member where
  tid : Nat
  nextPhase : BitVec 32
  deriving DecidableEq, Repr

/-- A crew (R365 to R371): its launch, members, phase counter, the arrivals of bound jobs still expected at each incomplete
phase, the arrivals whose release is still to be performed (R242), and the poison marks of phases, newest first. -/
structure Crew where
  inForce : Bool
  launch : Nat
  members : List Member
  phase : BitVec 32
  bound : List (BitVec 32)
  releases : List (Nat × BitVec 32)
  poison : List (BitVec 32 × Cause)
  deriving DecidableEq, Repr

/-- A gang of a ganged MMAG (R420): the leader's context, its members' contexts in ascending TID, the
members whose slices have entered, and what each slice has come to: run, and retired or faulted. -/
structure Gang where
  leader : Nat
  crew : Nat
  phase : BitVec 32
  mt : Nat
  ga : Nat
  gb : Nat
  fa : Fmt
  fb : Fmt
  k : Nat
  members : List Nat
  entered : List Nat
  ran : List (Nat × Option Cause)
  finished : List (Nat × Option Cause)
  gbRead : Bool
  deriving DecidableEq, Repr

/-- Where a taken launch stands (R139, R147, R154); one that failed holds its entry for its dependants until DISCARD (R169). -/
inductive LState where
  | waiting | running | saving | saved | failed
  deriving DecidableEq, Repr

/-- A taken launch: its record (R138), its queue and entry number, what it was given when taken, and its progress: `prio` is the claimed
priority (R141), `ready` the tick from which it ages (R147), `placed` the tick of its placement, `ended` the TIDs of threads that had ended
when it was pre-empted. -/
structure Launch where
  id : Nat
  queue : Nat
  entry : Word32
  hdr : CmdHdr
  asid : Nat
  code : Nat
  arg : Word64
  ctxbase : Nat
  nthr : Nat
  tpc : Nat
  fuse : Bool
  samedie : Bool
  prio : Nat
  nondet : Bool
  shadowOk : Bool
  tevt : Option Nat
  crews : List Word64
  deps : List Word64
  lnum : Nat
  lrnd : Nat
  state : LState
  asShadow : Bool
  ready : Option Nat
  placed : Nat
  ended : List Nat
  trigComplete : Bool
  deriving DecidableEq, Repr

/-- A started memory command (R117, R118), its place in the stretch, and its page-fault wait. -/
structure MemCmd where
  id : Nat
  hdr : CmdHdr
  mop : Nat
  src : Word64
  dst : Word64
  len : Nat
  param : Word64
  qp : Nat
  rkey : Nat
  place : Nat
  pf : PfWait
  deriving DecidableEq, Repr

/-- What a replay record keeps of a stretch (R126): the entries; the inbound bytes of each memory command by its place; how many posts and
completion events were delivered; the places of the ROUND commands that have completed; the status word of each round instruction by thread
(LAUNCH entry and TID) and place; the group slots in which the stretch wrote a protected line or executed a round instruction (R101); and LNUM
and LRND of each launch by its place (R251, R285). -/
structure Replay where
  entries : List Instr
  inbound : List (Nat × List Byte)
  posts : Nat
  rounds : List Nat
  answers : List (Nat × Nat × Word64)
  groups : List Nat
  launches : List (Nat × Nat × Nat)
  bytes : Nat
  deriving DecidableEq, Repr

/-- The command whose completion blocks later starts (R118): a remote POST, or a ROUND command with the slot, the round and the cycle at which it
was presented. -/
inductive QueueBusy where
  | post (i : Instr) (h : CmdHdr)
  | round (i : Instr) (h : CmdHdr) (slot : Nat) (n : Nat) (since : Nat)
  deriving DecidableEq, Repr

/-- A command queue (R114, R118): its registers, its started commands, its held WAIT, the command whose completion blocks
later starts, and its replay record. `pos` is where a replay stands in the record, `clusters` are those on which a launch of the stretch has run
(R127). -/
structure Queue where
  cfg : Word64
  head : Word32
  tail : Word32
  rpl : Word64
  stopped : Bool
  replaying : Bool
  noreplay : Bool
  ndseen : Bool
  replays : Nat
  cause : Cause
  mems : List MemCmd
  waiting : Option (CmdHdr × List WaitCond)
  busy : Option QueueBusy
  record : Replay
  pos : Nat
  skipPosts : Nat
  clusters : List Nat
  deriving DecidableEq, Repr

/-- An entry of a group's journal (R83): round, region, byte offset, flags and 64 bytes of data. -/
structure JEntry where
  region : Nat
  offset : Nat
  init : Bool
  cell : Bool
  poison : Bool
  data : BitVec 512
  deriving DecidableEq, Repr

/-- What the spare keeps of a rebuild (R106): the source set, and the shares that have arrived for each chunk still open. -/
structure Rebuild where
  target : Nat
  round : Nat
  sources : List Nat
  open_ : List (Nat × Nat × Nat)
  shares : List (Nat × Nat × Nat × List Byte)
  deriving DecidableEq, Repr

/-- What a slot's command is doing (R73, R105, R106). -/
inductive GBusy where
  | idle
  | creating (start : Nat) (answered : List Nat)
  | admitting (t : Nat) (start : Nat) (answers : List (Nat × Nat × Nat × Nat))
  | rebuilding (r : Rebuild)
  | repairing (region : Nat) (line : Nat) (sources : List Nat) (shares : List (Nat × List Byte))
  deriving DecidableEq, Repr

/-- A vote in progress on the coordinator (R89 to R91): its round, its start, and the members whose YES has arrived. -/
structure Vote where
  round : Nat
  start : Nat
  yes : List Nat
  deriving DecidableEq, Repr

/-- The queries of a successor coordinator (R95, R104): the rounds asked for, the retained round among them, and the answers: member, round,
state code, REVOKED. -/
structure Takeover where
  rounds : List Nat
  retained : Option Nat
  answers : List (Nat × Nat × Nat × Bool)
  deriving DecidableEq, Repr

/-- A coding group slot (R66 to R79, R83 to R106). `gstage` are member words written while the group is in force, which take effect through
ADMIT (R70). `pmap` is the protection map: half-line numbers to lines, and `pages` the VERSIONED pages among them: frame, leaf words, size (R78).
`chain` is the current round's journal, `retained` the retained round's, `chainB` and `retB` are the journal blocks that hold them (R83), and
`written` the lines whose journalled bit is set (R84). `noReason` is the first NO reason of the round, `closedAt` a round that the member refused unopened (R92), `lossCause` the cause by which a member
was found lost, `deltas` the tags of Round deltas not yet acknowledged, `prepHeld` and `held` the messages held unanswered (R90, R92), `voteReq`
tells that an RCMT waits for the coordinator, `spares` are members admitted and not yet live (R106), `revoking` is a revoke and the members
still to answer, `hbWait` the members that have not answered the last heartbeat and `hbAt` the cycle of that heartbeat (R93). -/
structure Group where
  valid : Bool
  lost : Bool
  fenced : Bool
  degraded : Bool
  self : Nat
  coord : Nat
  live : BitVec 16
  busy : GBusy
  err : Bool
  errCause : Cause
  cfg : Word64
  state : Nat
  round : Nat
  glast : Nat
  jbase : Word64
  jsize : Word64
  gmem : Tab Word64
  gstage : Tab (Option Word64)
  greg0 : Tab Word64
  greg1 : Tab Word64
  glog : Tab Word64
  pmap : Tab Nat
  pages : List (Nat × Word64 × Word64 × Nat)
  written : List Nat
  retain : Bool
  chain : List JEntry
  retained : Option (Nat × List JEntry)
  chainB : List Nat
  retB : List Nat
  noReason : Option Cause
  closedAt : Option Nat
  lossCause : Option Cause
  deltas : List Nat
  prepHeld : List TunnelMsg
  held : List TunnelMsg
  vote : Option Vote
  voteReq : Bool
  takeover : Option Takeover
  spares : List Nat
  revoking : Option (Nat × List Nat)
  hbWait : List Nat
  hbAt : Nat
  deriving DecidableEq, Repr

/-- A request of this module that a response answers: who made it, what it is, and the cycle at which it was sent (R36, R37); an orphan's
maker has ended, and a copy of a multicast still counts against its table entry (R48). -/
inductive Pending where
  | none
  | access (ctx : Nat) (serial : Nat) (at_ : Nat)
  | scalar (ctx : Nat) (serial : Nat) (at_ : Nat)
  | tunnel (ctx : Nat) (serial : Nat) (at_ : Nat)
  | group (slot : Nat) (member : Nat) (kind : Nat) (round : Nat) (arg : Nat) (at_ : Nat)
  | post (queue : Nat) (hdr : CmdHdr) (at_ : Nat)
  | copy (ctx : Nat) (serial : Nat) (dev : Nat) (len : Nat) (at_ : Nat)
  | row (ctx : Nat) (at_ : Nat)
  | drop (dev : Nat) (at_ : Nat)
  | orphan (idx : Option Nat) (at_ : Nat)
  deriving DecidableEq, Repr

/-- A message or request on its way out of the module (R29, R37): source queue, target device, station, its number on that link (none while it
waits to be sent, R30, R51), whether the link has acknowledged it (R52), what it carries, and the requests that are combined in it: source queue,
identity and operand (R44, R45). A request stays until it is answered, anything else until the link has acknowledged it. -/
structure Outgoing where
  id : Nat
  sq : Nat
  dev : Nat
  station : Nat
  seq : Option Nat
  acked : Bool
  at_ : Nat
  parts : List (Nat × Nat × Word64)
  packet : Packet
  deriving DecidableEq, Repr

/-- A station (R26, R28, R50 to R52): whether it is out of L, the failed lanes, the lanes in use and their number, whether its peer refuses
encryption, retraining, how many packets the link has delivered, which is the sequence number of the next one, the number it last reported to its
peer, and the number of the next packet that it sends. -/
structure Station where
  down : Bool
  failed : List Nat
  lanes : List Nat
  width : Nat
  refused : Bool
  retraining : Bool
  delivered : Nat
  reported : Nat
  sent : Nat
  deriving DecidableEq, Repr

/-- A page-fault record (R228) with what it asks and whether it has been written to its ring. -/
structure PfRec where
  id : Nat
  kind : Nat
  cause : Cause
  asid : Nat
  core : Nat
  die : Nat
  va : Nat
  inRing : Bool
  deriving DecidableEq, Repr

/-- A leaf held by a die's translation unit (R221): tag and the two words of the leaf, with the size of its page. -/
structure TlbEntry where
  die : Nat
  asid : Nat
  va : Nat
  size : Nat
  w0 : Word64
  w1 : Word64
  at_ : Nat
  deriving DecidableEq, Repr

/-- The host's hold on a half-line (R215). An unlisted half-line is not held. -/
inductive HostHold where
  | I | S | M
  deriving DecidableEq, Repr

/-- The tenancy states, in the order of TSTATE's codes (R131). -/
inductive TState where
  | release | scrub | attest | health | ready | leased | failed
  deriving DecidableEq, Repr

/-- Where the module stands in power and boot (R19 to R22). -/
inductive Power where
  | off
  | booting (step : Nat)
  | up
  | shutdown (since : Nat) (requested : Bool)
  deriving DecidableEq, Repr

/-- What is Silo's alone (R112). -/
inductive SiloResource where
  | fuses | bootFlash | attestationKey | tenancyCounter | linkKeys | scrubEngines | testSequencer
  deriving DecidableEq, Repr

/-- What reaches the module from outside and is no row of the opcode table: an error of a half-line of HBM, corrected or not (R13), or of the pool
(R62); a peer that refuses encryption (R26); the acknowledgement of a station's packets up to a number (R51); a scale-out port that comes up or
goes down (R53); a read of a register, an access at an offset of the group control block (`groups`) or of the front-end register block, and an access
of Meadow to a resource of Silo's alone (R66, R112, R114); and a choice the spec leaves to the part: the line that an L1 evicts (R212). -/
inductive Input where
  | memError (half : Nat) (corrected : Bool)
  | poolError (half : Nat)
  | peerRefuses (station : Nat) (refuses : Bool)
  | linkAck (station seq : Nat)
  | ethernet (port : Nat) (up : Bool)
  | l1Evict (core line : Nat)
  | regRead (r : ModReg)
  | blockAccess (who : Agent) (groups : Bool) (off : Nat) (write : Option Word64)
  | siloOnly (x : SiloResource) (write : Bool)
  | upset (core slot : Nat) (all : Bool)
  deriving DecidableEq, Repr

/-- One input or choice of who acts next: an event, a change of the context, group slot or queue in focus, the passing of cycles, or an input that
is no event. -/
inductive Move where
  | event (i : Instr)
  | focus (ctx : Nat)
  | slot (n : Nat)
  | queue (n : Nat)
  | tick (n : Nat)
  | input (x : Input)
  deriving DecidableEq, Repr

/-- Counters: ACLK cycles (R15), the cycles that stretching has frozen on each die, in thousandths (R16, R18), and the model's own counters of free values, entropy draws and salts (log entries 2 to 5). -/
structure Clock where
  cycle : Nat
  debt : Tab Nat
  free : Nat
  draws : Nat
  salt : Nat
  deriving DecidableEq, Repr

/-- Power, reset, boot, the management port and Silo (R18 to R24, R110 to R112, R131 to R137). `stretch` and `dieSlow` are tenths of a percent of
the cycle rate, `alert` is the thermal-alert sideband. -/
structure Silo where
  power : Power
  warm : Bool
  powerFault : Bool
  overMs : Nat
  stretch : Nat
  dieStretch : Tab Bool
  dieSlow : Tab Nat
  dieStop : Tab Bool
  temps : List Nat
  alert : Bool
  watts : Nat
  memErrors : Tab Nat
  flash : List Image
  bootAuth : Bool
  tstate : TState
  suspended : Bool
  entered : Nat
  tcount : Word64
  keys : Nat
  measured : List (BitVec 256)
  clustersOk : BitVec 128
  stacksOk : BitVec 16
  stationsOk : BitVec 36
  removed : Bool
  htime : Nat
  log : List (BitVec 256)
  mgmt : List (List Byte)
  mailbox : List (List Byte)
  hdmWindow : Word64
  biLimit : Word64
  deriving DecidableEq, Repr

/-- Memory: HBM (R206; an unlisted byte reads zero), poisoned half-lines (R232), the pool behind port B (R61), the host's own
memory as the host presents it, what reads of the host have been answered with (R59; none for a poisoned half-line), host holds per half-line
(R215), the snoops under way (R56), registrants per half-line (R212),
the sheaf store's records (R253), and writes of the module's own units that wait for a snoop or for the end of a migration, oldest first: die,
address space, address and bytes (R215, R231). -/
structure Memory where
  mem : Tab Byte
  poison : List Nat
  pool : Tab Byte
  poolPoison : List Nat
  poolDown : Bool
  hostMem : Tab Byte
  hostHold : Tab HostHold
  hostDown : Bool
  hostOut : List (Nat × Option (BitVec 512))
  snoops : List Nat
  registrant : Tab Nat
  sheaf : Tab Byte
  late : List (Nat × Nat × Nat × List Byte)
  deriving DecidableEq, Repr

/-- The translation control block and the translation units (R216 to R231): `tlb` the second level of each die and `tlb1` the first level of each
cluster, the newest entries first (R221). `pinRun`, `invRun` and `migRun` are the commands that run: a write of PINCMD, and INVADDR and INVLEN, and
MIGVA and MIGDST, as they stood when the command started. -/
structure Xlate where
  atbase : Word64
  tlb : List TlbEntry
  tlb1 : List (Nat × TlbEntry)
  pfqcfg : Tab Word64
  pfqptr : Tab Word64
  pfrecs : List PfRec
  pfNext : Nat
  pincmd : Word64
  pinRun : Word64
  pinned : List (Nat × Nat)
  invaddr : Word64
  invlen : Word64
  invcmd : Word64
  invRun : Word64 × Word64
  migva : Word64
  migdst : Word64
  migctl : Word64
  migRun : Word64 × Word64
  deriving DecidableEq, Repr

/-- Cores, contexts (context 2c + b is bank b of core c; that of a pre-empted launch l is 2048 (1 + l) above its last one), crews, gangs,
clusters marked suspect (R128),
clusters whose L1s are fused (R213), and GLAST of each group slot at the last passing MKCMP of each cluster (R102; key 8·cluster + slot). -/
structure Contexts where
  cores : Tab Core
  ctxs : Tab Thread
  crews : Tab Crew
  gangs : Tab Gang
  gangNext : Nat
  suspect : List Nat
  fused : List Nat
  passed : Tab Nat
  deriving DecidableEq, Repr

/-- The launch unit (R138 to R174): taken launches in order of taking, the next launch identity and LNUM (R251), per
priority one more than the queue served last (R148), the candidate that was picked and could not be placed (R148), and the launch that victims make
room for (R152). -/
structure LaunchUnit where
  launches : List Launch
  next : Nat
  lnum : Nat
  turns : Tab Nat
  pick : Option Nat
  claim : Option Nat
  deriving DecidableEq, Repr

/-- The command front end (R113 to R128). `dropped` are notices that found the ring full (R124), `readOut` is
what the last read of a register returned. -/
structure FrontEnd where
  queues : Tab Queue
  cmdNext : Nat
  evcnt : Tab (BitVec 48)
  nrcfg : Word64
  nrptr : Word64
  dropped : Nat
  hvec : Word64
  readOut : Word64
  deriving DecidableEq, Repr

/-- A ring-mode write: source device, request, source core, span tag, offset and bytes (R464, R467). -/
structure RingWrite where
  src : Nat
  id : Nat
  core : Nat
  span : BitVec 3
  off : Nat
  bytes : List Byte
  deriving DecidableEq, Repr

/-- What leaves the module on a scale-out port (R53, R117): the data that answer a read, a write or a read through a queue pair. -/
inductive RdmaOut where
  | answer (bytes : List Byte)
  | write (qp : BitVec 24) (key : Word32) (va : Word64) (bytes : List Byte)
  | read (qp : BitVec 24) (key : Word32) (va : Word64) (len : Nat)
  deriving DecidableEq, Repr

/-- The stations, the station control block and the requests in flight (R25 to R52, R461 to R468, R505). `parked` are requests that have
arrived and wait at their home, for a page-fault record (R228) or for a snoop. `chunks` are ring-mode chunks being assembled: context,
ring, sender, slot (16 for one that spills) and bytes; `spilled` those in the pool, oldest first: context, ring, span and bytes;
`heldChunks` ring-mode writes held at the station (R467). `ethUp` are the scale-out ports that are up, `rdma` what has been sent to the module
through them, `rdmaOut` what it sends, `rdmaHeld` accesses that wait for a page-fault record or a snoop (R53). -/
structure Fabric where
  devid : Word64
  devfrlim : Word64
  impasid : Word64
  imports : Tab (Word64 × Word64)
  impstat : Word64
  mcstage : Tab Word64
  mcmap : Tab (Tab Word64)
  mcctl : Tab Word64
  mccmd : Word64
  mcbusy : Tab Nat
  colspill : Word64
  spilled : List (Nat × Nat × Nat × List Byte)
  chunks : List (Nat × Nat × Nat × Nat × List Byte)
  heldChunks : List RingWrite
  stations : Tab Station
  outbox : List Outgoing
  pending : Tab Pending
  parked : List (PfWait × Packet)
  reqNext : Nat
  ethUp : List Nat
  rdma : List (List Byte)
  rdmaOut : List RdmaOut
  rdmaHeld : List (PfWait × Nat × RdmaReq)
  deriving DecidableEq, Repr

/-- The whole module. `agenda`, `focus`, `gfocus`, `qfocus` and `turn` are the model's own: the inputs and choices of agent still to
come, the context whose sequencer moves when the agenda is empty, the group slot and the queue that events without an
operand act on, and how often that context has had its turn (log entry 1). -/
structure Module where
  agenda : List Move
  focus : Nat
  gfocus : Nat
  qfocus : Nat
  turn : Nat
  clk : Clock
  silo : Silo
  mm : Memory
  tr : Xlate
  cx : Contexts
  lu : LaunchUnit
  fe : FrontEnd
  fb : Fabric
  groups : Tab Group
  deriving DecidableEq, Repr

/-- The machine's state: the module now, and while the operations of one bundle are executing the module as it was when
that bundle began to issue, from which they read their operands (R176) and to which a precise trap returns (R319). -/
structure State where
  now : Module
  pre : Option Module
  deriving DecidableEq, Repr

/-- Why the machine stops. Raised only where the spec gives an operation no effect at all. -/
inductive Fault where
  /-- A word addressed by number that the spec says does not exist: no component of the part answers to it. Raised by the
  events that name a station, core, slot or context beyond the part's own. Safe: the hardware has no such event. -/
  | noSuchUnit
  deriving DecidableEq, Repr

/-- Why the machine gives an instruction no meaning. -/
inductive Refusal where
  /-- The instruction has no meaning in this model. Raised by the dispatch alone. Safe. -/
  | notModelled (mnemonic : String)
  deriving DecidableEq, Repr

/-! ## The state after reset -/

/-- Control registers of a context that holds no thread; placement writes them (R475). -/
def Csrs.zero : Csrs :=
  { tid := 0, nthr := 0, lnum := 0, wctr := 0, cbstat := 0, fmtcap := 0x3FFF3EFE, tmrcnt := 0, waitlim := 0x01000000,
    windowchk := 0, ovtab := 0x202428252A252525, ovtabx := 0x0000202020202020, stepm := 0, stepc0 := 0, stepc1 := 0,
    skseed := 0, skctl := 0, jbind := 0, cwin := 0, cwcnt := 0, rmwbth := 64, frlim := 0x20000, estat := 1, cause := 0,
    epc := 0, edata := 0, mfaddr := 0, tvec := 0, hsave0 := 0, hsave1 := 0 }

/-- Registers that all read zero. -/
def Regs.zero : Regs :=
  { s := [], v := [], p := [], q := [], e := [], tiles := [], rings := [], sp := [], c0 := [] }

/-- A sequencer with nothing in progress. -/
def Sequencer.clear : Sequencer :=
  { pend := [], busy := [], mask := [], rep := none, loops := [], armM := none, armC0 := none, armC1 := none, closing := [],
    land := [], held := [], frame := none, waitFrom := none, crewWait := none, cwait := none, crewFault := none, pf := .none, trigged := false, trigDone := false, sstop := false,
    stepped := false, roundHold := none, poll := .none, roundIdx := 0, serial := 0,
    ir := { header := 0, after := 0, clears := 0, skctlSet := false }, icode := [], returning := false }

/-- A context that holds no thread: everything zero or at its placement value (R144). -/
def Thread.idle : Thread :=
  { status := .empty, launch := 0, queue := 0, asid := 0, pc := 0, next := none, r := Regs.zero, u := Sequencer.clear,
    csr := Csrs.zero, x := { sq := [], c1q := [], mq := [], retiring := [], mhalt := false, failed := [] },
    b := { maps := [], filled := [], dirty := [], fault := [], fills := [] } }

/-- A ring that is not configured (R412). -/
def Ring.empty : Ring :=
  { cfg := 0, layout := 0, head := 0, tail := 0, rsv := 0, tags := [], filled := [], poisoned := [] }

/-- A core with both banks empty. -/
def Core.idle : Core :=
  { primary := false, active := false, exchange := false, post := false, kat := .none, disabled := false, frozen := false, frozenAt := 0,
    lost := 0, l1 := [], ro := [], roSeen := 0, upsets := [] }

/-- A crew handle that is free. -/
def Crew.free : Crew :=
  { inForce := false, launch := 0, members := [], phase := 0, bound := [], releases := [], poison := [] }

/-- A gang number not in use. -/
def Gang.none : Gang :=
  { leader := 0, crew := 0, phase := 0, mt := 0, ga := 0, gb := 0, fa := .f32, fb := .f32, k := 0, members := [],
    entered := [], ran := [], finished := [], gbRead := false }

/-- An empty replay record. -/
def Replay.empty : Replay :=
  { entries := [], inbound := [], posts := 0, rounds := [], answers := [], groups := [], launches := [], bytes := 0 }

/-- A queue of a level that can be written at its reset values (R114). -/
def Queue.reset : Queue :=
  { cfg := 0, head := 0, tail := 0, rpl := 0, stopped := false, replaying := false, noreplay := false, ndseen := false,
    replays := 0, cause := 0, mems := [], waiting := none, busy := none, record := Replay.empty, pos := 0, skipPosts := 0,
    clusters := [] }

/-- A queue at its reset values: LEVEL of queues 60 to 63 is 7 and cannot be written (R114). -/
def Queue.resetOf (q : Nat) : Queue := if q ≥ 60 then { Queue.reset with cfg := 14 } else Queue.reset

/-- A group slot at its reset values: GROUND.STATE 3 (R69), GCFG.HBEAT 0x34 and GTLIM 0x8000 (R68). GLOG entries that are
not listed read STATE 7 (R71). -/
def Group.reset : Group :=
  { valid := false, lost := false, fenced := false, degraded := false, self := 0, coord := 0, live := 0, busy := .idle,
    err := false, errCause := 0, cfg := 0x0000003400008000, state := 3, round := 0, glast := 0, jbase := 0, jsize := 0,
    gmem := [], gstage := [], greg0 := [], greg1 := [], glog := [], pmap := [], pages := [], written := [], retain := false, chain := [],
    retained := none, chainB := [], retB := [], noReason := none, closedAt := none, lossCause := none, deltas := [], prepHeld := [], held := [], vote := none,
    voteReq := false, takeover := none, spares := [], revoking := none, hbWait := [], hbAt := 0 }

/-- A station that has not trained (R22). -/
def Station.reset : Station :=
  { down := true, failed := [], lanes := [], width := 0, refused := false, retraining := false, delivered := 0, reported := 0, sent := 0 }

/-- The module right after a cold reset: every store empty, every register at its reset value, boot about to take step 1 (R20, R22). -/
def Module.reset : Module :=
  { agenda := [], focus := 0, gfocus := 0, qfocus := 0, turn := 0,
    clk := { cycle := 0, debt := [], free := 0, draws := 0, salt := 0 },
    silo :=
      { power := .booting 1, warm := false, powerFault := false, overMs := 0, stretch := 0, dieStretch := [], dieSlow := [], dieStop := [],
        temps := [], alert := false, watts := 0, memErrors := [], flash := [], bootAuth := false, tstate := .release, suspended := false,
        entered := 0, tcount := 0, keys := 0, measured := [], clustersOk := 0, stacksOk := 0, stationsOk := 0,
        removed := false, htime := 0, log := [], mgmt := [], mailbox := [], hdmWindow := 0, biLimit := 16 },
    mm :=
      { mem := [], poison := [], pool := [], poolPoison := [], poolDown := true, hostMem := [], hostHold := [],
        hostDown := true, hostOut := [], snoops := [], registrant := [], sheaf := [], late := [] },
    tr :=
      { atbase := 0, tlb := [], tlb1 := [], pfqcfg := [], pfqptr := [], pfrecs := [], pfNext := 0, pincmd := 0, pinRun := 0, pinned := [],
        invaddr := 0, invlen := 0, invcmd := 0, invRun := (0, 0), migva := 0, migdst := 0, migctl := 0, migRun := (0, 0) },
    cx := { cores := [], ctxs := [], crews := [], gangs := [], gangNext := 0, suspect := [], fused := [], passed := [] },
    lu := { launches := [], next := 0, lnum := 0, turns := [], pick := none, claim := none },
    fe := { queues := [], cmdNext := 0, evcnt := [], nrcfg := 0, nrptr := 0, dropped := 0, hvec := 0, readOut := 0 },
    fb :=
      { devid := 0, devfrlim := 0x20000, impasid := 0, imports := [], impstat := 0, mcstage := [], mcmap := [], mcctl := [],
        mccmd := 0, mcbusy := [], colspill := 0, spilled := [], chunks := [], heldChunks := [], stations := [],
        outbox := [], pending := [], parked := [], reqNext := 0, ethUp := [], rdma := [], rdmaOut := [],
        rdmaHeld := [] },
    groups := [] }

/-- The state right after reset. -/
def State.reset : State :=
  { now := Module.reset, pre := none }

end Sys2Proof.Machine
end

