-- ==== Sys2Proof/Machine/Tab.lean ====
section
/-!
DEFINITION. Operations on sparse stores, and byte strings in them. A store is written through these operations alone, so that
it keeps its canonical form (`Tab.wf`): keys strictly rising, no entry holding what an unlisted key reads as.
-/

namespace Sys2Proof

/-- The value at a key; `d` is what an unlisted key reads as. -/
def Tab.get {α : Type} (d : α) : Tab α → Nat → α
  | [], _ => d
  | (j, v) :: t, k => if j = k then v else Tab.get d t k

/-- Whether a key is listed. -/
def Tab.has {α : Type} : Tab α → Nat → Bool
  | [], _ => false
  | (j, _) :: t, k => if j = k then true else Tab.has t k

/-- Takes a key out. In a store of canonical form no key is listed twice. -/
def Tab.erase {α : Type} : Tab α → Nat → Tab α
  | [], _ => []
  | (j, v) :: t, k => if j = k then Tab.erase t k else (j, v) :: Tab.erase t k

/-- Takes a key out; a store that does not list it is left alone. -/
def Tab.without {α : Type} (t : Tab α) (k : Nat) : Tab α := if Tab.has t k then Tab.erase t k else t

/-- Puts an entry at a key, or takes it out where the value is what an unlisted key reads as. -/
def Tab.set {α : Type} [DecidableEq α] (d : α) : Tab α → Nat → α → Tab α
  | [], k, v => if v = d then [] else [(k, v)]
  | (j, w) :: t, k, v =>
    if j = k then (if v = d then Tab.without t k else (k, v) :: t)
    else if k < j then (if v = d then (j, w) :: Tab.without t k else (k, v) :: (j, w) :: t)
    else (j, w) :: Tab.set d t k v

/-- Keys strictly rising above `lo`, and no entry equal to the default. -/
def Tab.wfFrom {α : Type} [DecidableEq α] (d : α) : Nat → Tab α → Bool
  | _, [] => true
  | lo, (j, v) :: t => decide (lo ≤ j) && decide (v ≠ d) && Tab.wfFrom d (j + 1) t

/-- The canonical form of a store. -/
def Tab.wf {α : Type} [DecidableEq α] (d : α) (t : Tab α) : Bool := Tab.wfFrom d 0 t

/-- Takes out the entries whose keys a test picks. -/
def Tab.drop {α : Type} (p : Nat → Bool) : Tab α → Tab α
  | [] => []
  | (j, v) :: t => if p j then Tab.drop p t else (j, v) :: Tab.drop p t

/-- Applies a function to the value at a key. -/
def Tab.modify {α : Type} [DecidableEq α] (d : α) (t : Tab α) (k : Nat) (f : α → α) : Tab α :=
  Tab.set d t k (f (Tab.get d t k))

/-- Reads `n` bytes from address `a` upward. -/
def Tab.bytes (t : Tab Byte) (a : Nat) : Nat → List Byte
  | 0 => []
  | n + 1 => Tab.get 0 t a :: Tab.bytes t (a + 1) n

/-- Writes a byte string from address `a` upward. -/
def Tab.putBytes (t : Tab Byte) (a : Nat) : List Byte → Tab Byte
  | [] => t
  | b :: bs => Tab.putBytes (Tab.set 0 t a b) (a + 1) bs

/-- Writes a byte string, leaving the places that hold no byte as they are. -/
def Tab.putSome (t : Tab Byte) (a : Nat) : List (Option Byte) → Tab Byte
  | [] => t
  | some b :: bs => Tab.putSome (Tab.set 0 t a b) (a + 1) bs
  | none :: bs => Tab.putSome t (a + 1) bs

namespace Machine

/-! ## Bit fields and byte order -/

/-- The natural value of a little-endian byte string (R3). -/
def leNat : List Byte → Nat
  | [] => 0
  | b :: bs => b.toNat + 256 * leNat bs

/-- The low `n` bytes of a natural, little-endian (R3). -/
def leBytes (x : Nat) : Nat → List Byte
  | 0 => []
  | n + 1 => BitVec.ofNat 8 x :: leBytes (x / 256) n

/-- Bits `lo + n - 1` down to `lo` of a natural. -/
def fld (x lo n : Nat) : Nat := x / 2 ^ lo % 2 ^ n

/-- Bit `i` of a natural. -/
def bit (x i : Nat) : Bool := x / 2 ^ i % 2 == 1

/-- A truth value as a bit. -/
def b2n (b : Bool) : Nat := if b then 1 else 0

/-- A word with bits `lo + n - 1` down to `lo` replaced. -/
def putFld (x lo n v : Nat) : Nat := x - fld x lo n * 2 ^ lo + (v % 2 ^ n) * 2 ^ lo

/-- An `n`-bit value read as two's complement. -/
def toSigned (x n : Nat) : Int := if x % 2 ^ n < 2 ^ (n - 1) then (x % 2 ^ n : Nat) else (x % 2 ^ n : Nat) - (2 ^ n : Nat)

/-- The `n` low bits of an integer, as a natural. -/
def ofInt (x : Int) (n : Nat) : Nat := (x % (2 ^ n : Nat)).toNat

/-- An `n`-bit value extended to 64 bits with its sign (R328). -/
def sext64 (x n : Nat) : Word64 := BitVec.ofInt 64 (toSigned x n)

/-- An `n`-bit value extended to 64 bits with zeros (R328). -/
def zext64 (x n : Nat) : Word64 := BitVec.ofNat 64 (x % 2 ^ n)

/-- The value an immediate of `n` bits, or of `n + 32` bits with its extension word, stands for (R312). -/
def immValue {n : Nat} : ExtImm n → Int
  | .short v => v.toInt
  | .long v => v.toInt

/-- The natural value of a loop count (R312). -/
def immNatural {n : Nat} : ExtImm n → Nat
  | .short v => v.toNat
  | .long v => v.toNat

/-- Whether the immediate takes an extension word. -/
def immLong {n : Nat} : ExtImm n → Bool
  | .short _ => false
  | .long _ => true

/-- The largest value of an n-bit field that does not exceed `x` (the helper `sat` of R328). -/
def satNat (x n : Nat) : Nat := if x < 2 ^ n then x else 2 ^ n - 1

/-- Number of one bits of a natural below `2 ^ n` (R328). -/
def popcount (x : Nat) : Nat → Nat
  | 0 => 0
  | n + 1 => x % 2 + popcount (x / 2) n

/-- The numbers `lo`, `lo + 1`, …, `n` of them. -/
def range' (lo : Nat) : Nat → List Nat
  | 0 => []
  | n + 1 => lo :: range' (lo + 1) n

/-- The positions below `n` of the one bits of a natural, ascending. -/
def bitsOf (x n : Nat) : List Nat := (range' 0 n).filter (bit x)

/-- Cuts a list into pieces of `n`, at most `fuel` of them. -/
def chunked {α : Type} (n : Nat) : Nat → List α → List (List α)
  | 0, _ => []
  | _, [] => []
  | fuel + 1, l => l.take n :: chunked n fuel (l.drop n)

/-- Pads a byte string with zeros to `n` bytes, or cuts it there. -/
def padBytes (l : List Byte) (n : Nat) : List Byte := (l ++ List.replicate (n - l.length) 0).take n

/-- The least element of a list that satisfies a test. -/
def firstWhere {α : Type} (p : α → Bool) : List α → Option α
  | [] => none
  | a :: l => if p a then some a else firstWhere p l

/-- Changes element `i` of a list. -/
def modifyAt {α : Type} (f : α → α) : Nat → List α → List α
  | _, [] => []
  | 0, a :: l => f a :: l
  | n + 1, a :: l => a :: modifyAt f n l

/-- Takes out element `i` of a list. -/
def removeAt {α : Type} : Nat → List α → List α
  | _, [] => []
  | 0, _ :: l => l
  | n + 1, a :: l => a :: removeAt n l

/-- Element `i` of a list. -/
def nth? {α : Type} : Nat → List α → Option α
  | _, [] => none
  | 0, a :: _ => some a
  | n + 1, _ :: l => nth? n l

/-- Insertion of an element into a list sorted by `le`, after the elements it is not less than: a stable sort's step. -/
def insertBy {α : Type} (le : α → α → Bool) (a : α) : List α → List α
  | [] => [a]
  | b :: l => if le a b && !le b a then a :: b :: l else b :: insertBy le a l

/-- Stable sort by a total preorder. -/
def sortBy {α : Type} (le : α → α → Bool) : List α → List α
  | [] => []
  | l => l.foldl (fun acc a => insertBy le a acc) []

/-- Sum of a list of naturals. -/
def natSum (l : List Nat) : Nat := l.foldl (· + ·) 0

end Machine
end Sys2Proof
end

