-- ==== Sys2Proof/Machine/Causes.lean ====
section
/-!
DEFINITION. The cause codes of R494, by name.
-/

namespace Sys2Proof.Machine.Cause

/-- NONE: delivery —; EDATA — (R494). -/
def none : Machine.Cause := 0x00#7

/-- ILLEGAL_OPCODE: delivery P; EDATA Syllable (R494). -/
def illegalOpcode : Machine.Cause := 0x01#7

/-- ILLEGAL_FIELD: delivery P; EDATA Syllable (R494). -/
def illegalField : Machine.Cause := 0x02#7

/-- ILLEGAL_HEADER: delivery P; EDATA Header (R494). -/
def illegalHeader : Machine.Cause := 0x03#7

/-- RUN_DEPENDENCE: delivery P; EDATA Header (R494). -/
def runDependence : Machine.Cause := 0x04#7

/-- WINDOW_READ: delivery P; EDATA Header (R494). -/
def windowRead : Machine.Cause := 0x05#7

/-- BREAKPOINT: delivery P; EDATA Header (R494). -/
def breakpoint : Machine.Cause := 0x06#7

/-- STEP_TRAP: delivery A; EDATA 0 (R494). -/
def stepTrap : Machine.Cause := 0x07#7

/-- LOOP_NEST: delivery P; EDATA Header (R494). -/
def loopNest : Machine.Cause := 0x08#7

/-- LOOP_BRANCH: delivery P; EDATA Target (R494). -/
def loopBranch : Machine.Cause := 0x09#7

/-- ILLEGAL_CSR: delivery P; EDATA Number (R494). -/
def illegalCsr : Machine.Cause := 0x0A#7

/-- PRIV_INSTR: delivery P; EDATA Syllable (R494). -/
def privInstr : Machine.Cause := 0x0B#7

/-- PRIV_CSR: delivery P; EDATA Number (R494). -/
def privCsr : Machine.Cause := 0x0C#7

/-- TRAP_CALL: delivery A; EDATA 0 (R494). -/
def trapCall : Machine.Cause := 0x0D#7

/-- TRAP_NESTED: delivery Q; EDATA — (R494). -/
def trapNested : Machine.Cause := 0x0E#7

/-- INTERRUPT: delivery A; EDATA 0 (R494). -/
def interrupt : Machine.Cause := 0x0F#7

/-- FMT_ABSENT: delivery P; EDATA Syllable (R494). -/
def fmtAbsent : Machine.Cause := 0x10#7

/-- SKETCH_FORMAT: delivery P; K for SKAMO; EDATA Syllable (R494). -/
def sketchFormat : Machine.Cause := 0x11#7

/-- RSC_FORMAT: delivery K; EDATA — (R494). -/
def rscFormat : Machine.Cause := 0x12#7

/-- DESC_FORMAT: delivery K; EDATA — (R494). -/
def descFormat : Machine.Cause := 0x13#7

/-- INDEX_RANGE: delivery K; EDATA — (R494). -/
def indexRange : Machine.Cause := 0x14#7

/-- CELL_STAMP: delivery K; EDATA — (R494). -/
def cellStamp : Machine.Cause := 0x15#7

/-- CELL_CLOCK: delivery K; EDATA — (R494). -/
def cellClock : Machine.Cause := 0x16#7

/-- CMD_FORMAT: delivery Q; EDATA — (R494). -/
def cmdFormat : Machine.Cause := 0x17#7

/-- LAUNCH_FORMAT: delivery Q; EDATA — (R494). -/
def launchFormat : Machine.Cause := 0x18#7

/-- LAUNCH_SIZE: delivery Q; EDATA — (R494). -/
def launchSize : Machine.Cause := 0x19#7

/-- MCAST_SIZE: delivery K; EDATA — (R494). -/
def mcastSize : Machine.Cause := 0x1A#7

/-- REMOTE_KIND: delivery K; EDATA — (R494). -/
def remoteKind : Machine.Cause := 0x1B#7

/-- GROUP_CONFIG: delivery Q; EDATA — (R494). -/
def groupConfig : Machine.Cause := 0x1C#7

/-- RING_CONFIG: delivery I; K for CPYR and slices; EDATA Ring (R494). -/
def ringConfig : Machine.Cause := 0x1D#7

/-- RING_LAYOUT: delivery I; K for slices; EDATA Ring (R494). -/
def ringLayout : Machine.Cause := 0x1E#7

/-- CMD_PRIV: delivery Q; EDATA — (R494). -/
def cmdPriv : Machine.Cause := 0x1F#7

/-- PAGE_NOT_PRESENT: delivery W; EDATA Address (R494). -/
def pageNotPresent : Machine.Cause := 0x20#7

/-- PAGE_PERM: delivery P, I, L or K; EDATA Address (R494). -/
def pagePerm : Machine.Cause := 0x21#7

/-- TABLE_FORMAT: delivery P, I, L or K; EDATA Address (R494). -/
def tableFormat : Machine.Cause := 0x22#7

/-- WALK_POISON: delivery P, I, L or K; EDATA Address (R494). -/
def walkPoison : Machine.Cause := 0x23#7

/-- ADDR_APERTURE: delivery P, I or K; EDATA Address (R494). -/
def addrAperture : Machine.Cause := 0x24#7

/-- ADDR_ALIGN: delivery P, L or K; EDATA Address (R494). -/
def addrAlign : Machine.Cause := 0x25#7

/-- ADDR_PEER: delivery P, I or K; EDATA Address (R494). -/
def addrPeer : Machine.Cause := 0x26#7

/-- ADDR_PRIV: delivery P, I or K; EDATA Address (R494). -/
def addrPriv : Machine.Cause := 0x27#7

/-- DEVREG_ACCESS: delivery I or K; EDATA Address (R494). -/
def devregAccess : Machine.Cause := 0x28#7

/-- MEM_POISON: delivery P, I or K; EDATA Address (R494). -/
def memPoison : Machine.Cause := 0x29#7

/-- TIMED_CLASS: delivery L; EDATA Address (R494). -/
def timedClass : Machine.Cause := 0x2A#7

/-- REGION_MAP: delivery P; EDATA Map entry (R494). -/
def regionMap : Machine.Cause := 0x2B#7

/-- CELL_PAGE: delivery K; EDATA — (R494). -/
def cellPage : Machine.Cause := 0x2C#7

/-- SIBLINGS_PRESENT: delivery P, I or K; Q in a vote; EDATA Address (R494). -/
def siblingsPresent : Machine.Cause := 0x2D#7

/-- SHEAF_FULL: delivery K; EDATA — (R494). -/
def sheafFull : Machine.Cause := 0x2E#7

/-- REMOTE_UNMAPPED: delivery P, I or K; EDATA Address (R494). -/
def remoteUnmapped : Machine.Cause := 0x2F#7

/-- REMOTE_PERM: delivery P, I or K; Q for POST; EDATA Address (R494). -/
def remotePerm : Machine.Cause := 0x30#7

/-- REMOTE_TIMEOUT: delivery P, I or K; EDATA Address (R494). -/
def remoteTimeout : Machine.Cause := 0x31#7

/-- MCAST_INVALID: delivery K; EDATA — (R494). -/
def mcastInvalid : Machine.Cause := 0x32#7

/-- COLL_REJECT: delivery K; EDATA — (R494). -/
def collReject : Machine.Cause := 0x33#7

/-- CTX_FAULT: delivery Q; EDATA — (R494). -/
def ctxFault : Machine.Cause := 0x34#7

/-- PIN_LIMIT: delivery Q; EDATA — (R494). -/
def pinLimit : Machine.Cause := 0x35#7

/-- HOST_COMPLETER: delivery Q; EDATA — (R494). -/
def hostCompleter : Machine.Cause := 0x36#7

/-- HOST_LINK_DOWN: delivery N; EDATA — (R494). -/
def hostLinkDown : Machine.Cause := 0x37#7

/-- POOL_LINK_DOWN: delivery N; EDATA — (R494). -/
def poolLinkDown : Machine.Cause := 0x38#7

/-- RDMA_ACCESS: delivery Q; EDATA — (R494). -/
def rdmaAccess : Machine.Cause := 0x39#7

/-- RDMA_RETRY: delivery Q; EDATA — (R494). -/
def rdmaRetry : Machine.Cause := 0x3A#7

/-- RDMA_QP_STATE: delivery Q; EDATA — (R494). -/
def rdmaQpState : Machine.Cause := 0x3B#7

/-- IMPORT_REFUSED: delivery Q; EDATA — (R494). -/
def importRefused : Machine.Cause := 0x3C#7

/-- SPILL_FULL: delivery N; EDATA — (R494). -/
def spillFull : Machine.Cause := 0x3D#7

/-- JOURNAL_FULL: delivery P, I or K; Q at CREATE; EDATA Address (R494). -/
def journalFull : Machine.Cause := 0x3E#7

/-- GROUP_REGION: delivery P, I or K; Q; EDATA Address (R494). -/
def groupRegion : Machine.Cause := 0x3F#7

/-- CREW_HANDLE: delivery P; EDATA Handle (R494). -/
def crewHandle : Machine.Cause := 0x40#7

/-- CREW_EXHAUSTED: delivery P; EDATA 0 (R494). -/
def crewExhausted : Machine.Cause := 0x41#7

/-- CREW_UNREACHABLE: delivery P; A for CBAR; K for slices; EDATA Handle and phase (R494). -/
def crewUnreachable : Machine.Cause := 0x42#7

/-- GANG_SHAPE: delivery P; EDATA Handle (R494). -/
def gangShape : Machine.Cause := 0x43#7

/-- TOKEN_ARMED: delivery P; EDATA Header (R494). -/
def tokenArmed : Machine.Cause := 0x44#7

/-- WAIT_STALL: delivery P; I in the M queue; K for slices; EDATA Address or ring (R494). -/
def waitStall : Machine.Cause := 0x45#7

/-- RING_STARVED: delivery I; K for slices; EDATA Ring (R494). -/
def ringStarved : Machine.Cause := 0x46#7

/-- RING_OVERFLOW: delivery I; EDATA Ring (R494). -/
def ringOverflow : Machine.Cause := 0x47#7

/-- JOB_CANCELLED: delivery K, status 11 (R164); EDATA — (R494). -/
def jobCancelled : Machine.Cause := 0x48#7

/-- LAUNCH_ENDED: delivery K, status 11 (R119); EDATA — (R494). -/
def launchEnded : Machine.Cause := 0x49#7

/-- NOTICE_DROPPED: delivery N; EDATA — (R494). -/
def noticeDropped : Machine.Cause := 0x4A#7

/-- KILLED: delivery Q; EDATA — (R494). -/
def killed : Machine.Cause := 0x4B#7

/-- COUNTER_SATURATED: delivery N; EDATA — (R494). -/
def counterSaturated : Machine.Cause := 0x4C#7

/-- REPLAY_DONE: delivery N; EDATA — (R494). -/
def replayDone : Machine.Cause := 0x4D#7

/-- STATION_DOWN: delivery N; EDATA — (R494). -/
def stationDown : Machine.Cause := 0x4E#7

/-- LINK_DEGRADED: delivery N; EDATA — (R494). -/
def linkDegraded : Machine.Cause := 0x4F#7

/-- TMR_DIVERGE: delivery R; EDATA — (R494). -/
def tmrDiverge : Machine.Cause := 0x50#7

/-- KAT_MISMATCH: delivery R; EDATA — (R494). -/
def katMismatch : Machine.Cause := 0x51#7

/-- SOFT_ERROR: delivery R; EDATA — (R494). -/
def softError : Machine.Cause := 0x52#7

/-- REPLAY_FAILED: delivery Q; EDATA — (R494). -/
def replayFailed : Machine.Cause := 0x53#7

/-- ROUND_CLOSED: delivery Q; P, I or K for protected writes; EDATA Address (R494). -/
def roundClosed : Machine.Cause := 0x54#7

/-- ROUND_TIMEOUT: delivery Q; EDATA — (R494). -/
def roundTimeout : Machine.Cause := 0x55#7

/-- GROUP_DEGRADED: delivery Q; EDATA — (R494). -/
def groupDegraded : Machine.Cause := 0x56#7

/-- GROUP_FENCED: delivery P, I or K; EDATA Address (R494). -/
def groupFenced : Machine.Cause := 0x57#7

/-- GROUP_PLACEMENT: delivery Q; EDATA — (R494). -/
def groupPlacement : Machine.Cause := 0x58#7

/-- GROUP_LOST: delivery Q; N; EDATA — (R494). -/
def groupLost : Machine.Cause := 0x59#7

/-- ROUND_SUSPECT: delivery N; EDATA — (R494). -/
def roundSuspect : Machine.Cause := 0x5A#7

/-- REBUILD_DONE: delivery N; EDATA — (R494). -/
def rebuildDone : Machine.Cause := 0x5B#7

/-- POWER_LIMIT: delivery N; EDATA — (R494). -/
def powerLimit : Machine.Cause := 0x5C#7

/-- THERMAL: delivery N; EDATA — (R494). -/
def thermal : Machine.Cause := 0x5D#7

/-- BOOT_AUTH: delivery N, on the management port; EDATA — (R494). -/
def bootAuth : Machine.Cause := 0x5E#7

/-- HEALTH_FAIL: delivery R; N; EDATA — (R494). -/
def healthFail : Machine.Cause := 0x5F#7

end Sys2Proof.Machine.Cause
end

