-- ==== Sys2Proof/Machine/Types.lean ====
section
/-!
DEFINITION. The codes of the operand types, their widths, and which types a code names (rules R261, R313, R318).
-/

namespace Sys2Proof.Machine

/-- The format code of R261. -/
def fmtCode : Fmt → Nat
  | .f32 => 0 | .bf16 => 1 | .f16 => 2 | .e4m3 => 3 | .e5m2 => 4 | .mx8 => 5 | .mx8e5 => 6 | .mx6 => 7 | .mx6e3 => 8
  | .mx4 => 9 | .mxi8 => 10 | .sx8 => 11 | .sx5 => 12 | .sx3 => 13

/-- The format a code names; codes 14 and 15 are unassigned (R261). -/
def fmtOf : Nat → Option Fmt
  | 0 => some .f32 | 1 => some .bf16 | 2 => some .f16 | 3 => some .e4m3 | 4 => some .e5m2 | 5 => some .mx8
  | 6 => some .mx8e5 | 7 => some .mx6 | 8 => some .mx6e3 | 9 => some .mx4 | 10 => some .mxi8 | 11 => some .sx8
  | 12 => some .sx5 | 13 => some .sx3 | _ => none

/-- The format of a float lane type (R313). -/
def ftyFmt : FTy → Fmt
  | .f32 => .f32 | .bf16 => .bf16 | .f16 => .f16

/-- The code of a float lane type. -/
def ftyCode (t : FTy) : Nat := fmtCode (ftyFmt t)

/-- The float lane type a code names (R313). -/
def ftyOf : Nat → Option FTy
  | 0 => some .f32 | 1 => some .bf16 | 2 => some .f16 | _ => none

/-- Element width in bits of a float lane type. -/
def ftyBits : FTy → Nat
  | .f32 => 32 | .bf16 => 16 | .f16 => 16

/-- The integer type code of R313. -/
def ityCode : ITy → Nat
  | .i8 => 0 | .i16 => 1 | .i32 => 2 | .i64 => 3 | .n8 => 4 | .n16 => 5 | .n32 => 6 | .n64 => 7

/-- The integer type a code names (R313). -/
def ityOf : Nat → Option ITy
  | 0 => some .i8 | 1 => some .i16 | 2 => some .i32 | 3 => some .i64 | 4 => some .n8 | 5 => some .n16 | 6 => some .n32
  | 7 => some .n64 | _ => none

/-- Element width in bits of an integer type. -/
def ityBits : ITy → Nat
  | .i8 => 8 | .i16 => 16 | .i32 => 32 | .i64 => 64 | .n8 => 8 | .n16 => 16 | .n32 => 32 | .n64 => 64

/-- Whether an integer type is signed. -/
def itySigned : ITy → Bool
  | .i8 => true | .i16 => true | .i32 => true | .i64 => true | .n8 => false | .n16 => false | .n32 => false | .n64 => false

/-- Element width of a lane type of either kind. -/
def laneBits : LaneTy → Nat
  | .flt t => ftyBits t
  | .int t => ityBits t

/-- The WID code (R313). -/
def widCode : Wid → Nat
  | .w256 => 0 | .w512 => 1 | .w1024 => 2

/-- The width a WID code names. -/
def widOf : Nat → Option Wid
  | 0 => some .w256 | 1 => some .w512 | 2 => some .w1024 | _ => none

/-- Vector width in bits. -/
def widBits : Wid → Nat
  | .w256 => 256 | .w512 => 512 | .w1024 => 1024

/-- The condition code of CMP and WAITF (R318). -/
def condCode : Cond → Nat
  | .eq => 0 | .ne => 1 | .lt => 2 | .le => 3 | .nlt => 4 | .nle => 5

/-- The condition a code names. -/
def condOf : Nat → Option Cond
  | 0 => some .eq | 1 => some .ne | 2 => some .lt | 3 => some .le | 4 => some .nlt | 5 => some .nle | _ => none

/-- The condition code of VCMP (R318). -/
def vcondCode : VCond → Nat
  | .eq => 0 | .ne => 1 | .lt => 2 | .le => 3 | .uo => 4 | .ord => 5

/-- The VCMP condition a code names. -/
def vcondOf : Nat → Option VCond
  | 0 => some .eq | 1 => some .ne | 2 => some .lt | 3 => some .le | 4 => some .uo | 5 => some .ord | _ => none

/-- The rounding mode code (R267). -/
def rmodeCode : RMode → Nat
  | .rne => 0 | .rtz => 1 | .rdn => 2 | .rup => 3

/-- The rounding mode a two-bit code names. -/
def rmodeOf (n : Nat) : RMode :=
  if n = 0 then .rne else if n = 1 then .rtz else if n = 2 then .rdn else .rup

/-- The operation code of VREDS (R318). -/
def redCode : RedOp → Nat
  | .add => 0 | .min => 1 | .max => 2 | .and => 3 | .or => 4 | .xor => 5

/-- The VREDS operation a code names. -/
def redOf : Nat → Option RedOp
  | 0 => some .add | 1 => some .min | 2 => some .max | 3 => some .and | 4 => some .or | 5 => some .xor | _ => none

/-- The width code of SEXT and ZEXT (R318). -/
def extCode : ExtWidth → Nat
  | .w8 => 0 | .w16 => 1 | .w32 => 2

/-- The SEXT or ZEXT width a code names. -/
def extOf : Nat → Option ExtWidth
  | 0 => some .w8 | 1 => some .w16 | 2 => some .w32 | _ => none

/-- Bits of a SEXT or ZEXT width. -/
def extBits : ExtWidth → Nat
  | .w8 => 8 | .w16 => 16 | .w32 => 32

/-- The kind code of FENCE (R318). -/
def fenceCode : FenceKind → Nat
  | .acq => 1 | .rel => 2 | .full => 3

/-- The FENCE kind a code names. -/
def fenceOf : Nat → Option FenceKind
  | 1 => some .acq | 2 => some .rel | 3 => some .full | _ => none

/-- The scope code (R318). -/
def scopeCode : Scope → Nat
  | .core => 0 | .cluster => 1 | .die => 2 | .device => 3 | .domain => 4 | .system => 5

/-- The scope a code names. -/
def scopeOf : Nat → Option Scope
  | 0 => some .core | 1 => some .cluster | 2 => some .die | 3 => some .device | 4 => some .domain | 5 => some .system | _ => none

/-- The record kind code (R280). -/
def skCode : SkKind → Nat
  | .qsk => 1 | .hhk => 2 | .dck => 3

/-- The record kind a code names. -/
def skOf : Nat → Option SkKind
  | 1 => some .qsk | 2 => some .hhk | 3 => some .dck | _ => none

/-- The type code of SPADD (R441). -/
def spaCode : SpaTy → Nat
  | .i32 => 0 | .f32 => 1 | .bf16 => 2

/-- The SPADD type a code names. -/
def spaOf : Nat → Option SpaTy
  | 0 => some .i32 | 1 => some .f32 | 2 => some .bf16 | _ => none

/-- The FN code of an atomic (R318, R457). -/
def amoCode : AmoOp → Nat
  | .add => 0 | .min _ => 1 | .max _ => 2 | .and => 3 | .or => 4 | .xor => 5 | .swap => 6 | .cas => 7 | .fadd => 8 | .fmax => 9

/-- The TY field of an atomic: the integer type of min and max, agreeing with W; zero otherwise (R457). -/
def amoTy (op : AmoOp) (wide : Bool) : Nat :=
  match op with
  | .min nat => (if nat then 6 else 2) + b2n wide
  | .max nat => (if nat then 6 else 2) + b2n wide
  | .add => 0 | .and => 0 | .or => 0 | .xor => 0 | .swap => 0 | .cas => 0 | .fadd => 0 | .fmax => 0

/-- Whether a format is a block format, MX or SX (R261). -/
def fmtBlock (f : Fmt) : Bool := decide (5 ≤ fmtCode f)

/-- Whether a format is one of the MX formats. -/
def fmtMx (f : Fmt) : Bool := decide (5 ≤ fmtCode f) && decide (fmtCode f ≤ 10)

/-- Whether a format is one of the SX formats. -/
def fmtSx (f : Fmt) : Bool := decide (11 ≤ fmtCode f)

/-- Element bits of a format without a block: 32, 16 or 8 (R262); of an MX format its element bits (R261). -/
def fmtBits : Fmt → Nat
  | .f32 => 32 | .bf16 => 16 | .f16 => 16 | .e4m3 => 8 | .e5m2 => 8 | .mx8 => 8 | .mx8e5 => 8 | .mx6 => 6 | .mx6e3 => 6
  | .mx4 => 4 | .mxi8 => 8 | .sx8 => 8 | .sx5 => 5 | .sx3 => 3

/-- Bytes of one SX block (R266). -/
def sxBytes : Fmt → Nat
  | .sx8 => 35 | .sx5 => 23 | .sx3 => 15
  | .f32 => 0 | .bf16 => 0 | .f16 => 0 | .e4m3 => 0 | .e5m2 => 0 | .mx8 => 0 | .mx8e5 => 0 | .mx6 => 0 | .mx6e3 => 0
  | .mx4 => 0 | .mxi8 => 0

/-- Whether `n` source or result lanes make whole blocks: 32 or 64 (R396 to R398). -/
def blockLanes (n : Nat) : Bool := n == 32 || n == 64

/-- Which combinations of result and source VCVT allows, with the lane count of a packing conversion (R395, R396). -/
def cvtOk (w : Wid) : Cvt → Bool
  | .floatFloat r s =>
    (decide (fmtCode r ≤ 4) && decide (fmtCode s ≤ 4)) ||
    (fmtMx r && decide (fmtCode s ≤ 2) && blockLanes (widBits w / fmtBits s))
  | .floatInt _ s => decide (fmtCode s ≤ 4)
  | .intFloat r _ => decide (fmtCode r ≤ 4)

/-- The overflow table of a thread: OVTAB below OVTABX, 128 bits (R268). -/
def Csrs.ovt (c : Csrs) : BitVec 128 := c.ovtabx ++ c.ovtab

end Sys2Proof.Machine
end

