-- ==== Sys2Proof/Machine/Float.lean ====
section
/-!
DEFINITION. Floating values as exact binary fractions, rounding, the overflow table, conversions, and the special functions: rules
R261 to R272, R385, R386 and R393.
-/

namespace Sys2Proof.Machine

/-- The parameters of a floating element format (R262): exponent bits, bias, fraction bits p, emin, the largest finite value as an
integer times a power of two, whether it has infinity and NaN, and the canonical NaN. -/
structure FP where
  ebits : Nat
  bias : Int
  p : Nat
  emin : Int
  maxM : Nat
  maxE : Int
  inf : Bool
  nan : Bool
  qnan : Nat
  deriving DecidableEq, Repr

/-- FP32. -/
def fpF32 : FP := ⟨8, 127, 23, -126, 2 ^ 24 - 1, 104, true, true, 0x7FC00000⟩
/-- BF16. -/
def fpBF16 : FP := ⟨8, 127, 7, -126, 255, 120, true, true, 0x7FC0⟩
/-- FP16. -/
def fpF16 : FP := ⟨5, 15, 10, -14, 2047, 5, true, true, 0x7E00⟩
/-- E4M3: largest finite 448, one NaN code per sign, no infinity. -/
def fpE4M3 : FP := ⟨4, 7, 3, -6, 14, 5, false, true, 0x7F⟩
/-- E5M2. -/
def fpE5M2 : FP := ⟨5, 15, 2, -14, 7, 13, true, true, 0x7E⟩
/-- E2M3, an element of MXFP6. -/
def fpE2M3 : FP := ⟨2, 1, 3, 0, 15, -1, false, false, 0⟩
/-- E3M2, an element of MXFP6. -/
def fpE3M2 : FP := ⟨3, 3, 2, -2, 7, 2, false, false, 0⟩
/-- E2M1, an element of MXFP4. -/
def fpE2M1 : FP := ⟨2, 1, 1, 0, 3, 1, false, false, 0⟩

/-- The element format of a format code that has one with an exponent field; MXINT8 and SX have none (R261). -/
def fpOf : Fmt → FP
  | .f32 => fpF32 | .bf16 => fpBF16 | .f16 => fpF16 | .e4m3 => fpE4M3 | .e5m2 => fpE5M2 | .mx8 => fpE4M3 | .mx8e5 => fpE5M2
  | .mx6 => fpE2M3 | .mx6e3 => fpE3M2 | .mx4 => fpE2M1 | .mxi8 => fpE2M1 | .sx8 => fpF32 | .sx5 => fpF32 | .sx3 => fpF32

/-- A decoded value: NaN, an infinity, or sign, integer and power of two. -/
inductive FVal where
  | nan
  | inf (neg : Bool)
  | fin (neg : Bool) (m : Nat) (e : Int)
  deriving DecidableEq, Repr

/-- Zero of a sign. -/
def FVal.zero (neg : Bool) : FVal := .fin neg 0 0

/-- Whether a value is NaN. -/
def FVal.isNan : FVal → Bool
  | .nan => true | .inf _ => false | .fin _ _ _ => false
/-- Whether a value is infinite. -/
def FVal.isInf : FVal → Bool
  | .nan => false | .inf _ => true | .fin _ _ _ => false
/-- Whether a value is a zero. -/
def FVal.isZero : FVal → Bool
  | .nan => false | .inf _ => false | .fin _ m _ => m == 0
/-- The sign of a value. -/
def FVal.neg : FVal → Bool
  | .nan => false | .inf s => s | .fin s _ _ => s
/-- The value with its sign inverted. -/
def FVal.negate : FVal → FVal
  | .nan => .nan | .inf s => .inf (!s) | .fin s m e => .fin (!s) m e
/-- The magnitude of a value. -/
def FVal.abs : FVal → FVal
  | .nan => .nan | .inf _ => .inf false | .fin _ m e => .fin false m e

/-- Decodes the bits of a floating format exactly (R262, R263). -/
def decodeFP (f : FP) (x : Nat) : FVal :=
  let s := bit x (f.ebits + f.p)
  let ex := fld x f.p f.ebits
  let fr := fld x 0 f.p
  let top := 2 ^ f.ebits - 1
  if f.inf && ex == top then (if fr = 0 then .inf s else .nan)
  else if f.nan && !f.inf && ex == top && fr == 2 ^ f.p - 1 then .nan
  else if ex = 0 then .fin s fr (f.emin - f.p)
  else .fin s (2 ^ f.p + fr) (ex - f.bias - f.p)

/-- A magnitude `m × 2^d` rounded to an integer by a mode, sign-aware (R267). -/
def roundInt (md : RMode) (neg : Bool) (m : Nat) (d : Int) : Nat :=
  if 0 ≤ d then m * 2 ^ d.toNat
  else if d < -((Nat.log2 m : Int) + 2) then b2n (m != 0 && ((md == .rdn && neg) || (md == .rup && !neg)))
  else
    let k := (-d).toNat
    let q := m / 2 ^ k
    let r := m % 2 ^ k
    match md with
    | .rne => if 2 * r > 2 ^ k || (2 * r == 2 ^ k && q % 2 == 1) then q + 1 else q
    | .rtz => q
    | .rdn => if neg && r != 0 then q + 1 else q
    | .rup => if !neg && r != 0 then q + 1 else q

/-- floor(log2 of a non-zero magnitude). -/
def floorLog2 (m : Nat) (e : Int) : Int := Nat.log2 m + e

/-- Whether `m × 2^e` exceeds `n × 2^f`. -/
def magGt (m : Nat) (e : Int) (n : Nat) (f : Int) : Bool :=
  if m = 0 then false
  else if floorLog2 m e ≠ floorLog2 n f then decide (floorLog2 m e > floorLog2 n f)
  else if f ≤ e then decide (m * 2 ^ (e - f).toNat > n)
  else decide (m > n * 2 ^ (f - e).toNat)

/-- The bits of a finite value `n × 2^(e − p)` that fits a format. -/
def encodeFP (f : FP) (neg : Bool) (n : Nat) (e : Int) : Nat :=
  let s := b2n neg * 2 ^ (f.ebits + f.p)
  if n = 2 ^ (f.p + 1) then s + ((e + 1 + f.bias).toNat) * 2 ^ f.p
  else if n ≥ 2 ^ f.p then s + (e + f.bias).toNat * 2 ^ f.p + (n - 2 ^ f.p)
  else s + n

/-- The bits of the largest finite value of a sign. -/
def maxBits (f : FP) (neg : Bool) : Nat := encodeFP f neg f.maxM (f.maxE + f.p)

/-- The bits of the infinity of a sign. -/
def infBits (f : FP) (neg : Bool) : Nat := b2n neg * 2 ^ (f.ebits + f.p) + (2 ^ f.ebits - 1) * 2 ^ f.p

/-- An entry of the overflow table applied: 00 largest, 01 infinity, 10 NaN, 11 zero (R269). None stands for a NaN block. -/
def ovApply (f : FP) (code : Nat) (neg : Bool) : Option Nat :=
  match code with
  | 1 => some (if f.inf then infBits f neg else maxBits f neg)
  | 2 => if f.nan then some f.qnan else none
  | 3 => some (b2n neg * 2 ^ (f.ebits + f.p))
  | _ => some (maxBits f neg)

/-- The byte of the overflow table for a format code (R268). -/
def ovByte (tbl : BitVec 128) (code : Nat) : Nat := fld tbl.toNat (8 * code) 8
/-- FINOV. -/
def finov (tbl : BitVec 128) (code : Nat) : Nat := fld (ovByte tbl code) 0 2
/-- INFIN. -/
def infin (tbl : BitVec 128) (code : Nat) : Nat := fld (ovByte tbl code) 2 2
/-- NANIN. -/
def nanin (tbl : BitVec 128) (code : Nat) : Nat := fld (ovByte tbl code) 4 2

/-- The table with FINOV of a format replaced by 00, as `.sat` does (R269). -/
def satTable (sat : Bool) (tbl : BitVec 128) (code : Nat) : BitVec 128 :=
  if sat then BitVec.ofNat 128 (putFld tbl.toNat (8 * code) 2 0) else tbl

/-- round(x, F, md) of a finite value (R267): its bits, with `ov` the code FINOV. -/
def roundFP (f : FP) (md : RMode) (ov : Nat) (neg : Bool) (m : Nat) (e : Int) : Option Nat :=
  if m = 0 then some (b2n neg * 2 ^ (f.ebits + f.p))
  else
    let ex := if floorLog2 m e < f.emin then f.emin else floorLog2 m e
    let n := roundInt md neg m (e - (ex - f.p))
    if magGt n (ex - f.p) f.maxM f.maxE then ovApply f ov neg else some (encodeFP f neg n ex)

/-- The table under which only IEEE overflow to infinity applies: its reset value (R270). -/
def ovReset : BitVec 128 := Csrs.zero.ovt

/-- A result of arithmetic in a format with infinity and NaN: NaN canonical, infinity itself, else rounded under FINOV. -/
def finish (f : FP) (md : RMode) (ov : Nat) (v : FVal) : Nat :=
  match v with
  | .nan => f.qnan
  | .inf s => infBits f s
  | .fin s m e => (roundFP f md ov s m e).getD f.qnan

/-- round_rne(x) to FP32 with finite overflow to infinity, where no overflow table applies. -/
def toF32 (v : FVal) : Nat := finish fpF32 .rne 1 v

/-- An FP32 pattern decoded. -/
def ofF32 (x : Nat) : FVal := decodeFP fpF32 x

/-! ## Exact arithmetic -/

/-- The integer of a signed magnitude at exponent `e0`. -/
def scaled (neg : Bool) (m : Nat) (e e0 : Int) : Int :=
  let x : Int := (m * 2 ^ (e - e0).toNat : Nat)
  if neg then -x else x

/-- An integer times a power of two as a value; `z` is the sign of a zero. -/
def ofScaled (x : Int) (e : Int) (z : Bool) : FVal := if x = 0 then .fin z 0 e else .fin (decide (x < 0)) x.natAbs e

/-- Exact sum; an exact zero from opposite signs is +0 (R267). -/
def FVal.add (a b : FVal) : FVal :=
  match a, b with
  | .nan, _ => .nan
  | _, .nan => .nan
  | .inf s, .inf t => if s = t then .inf s else .nan
  | .inf s, .fin _ _ _ => .inf s
  | .fin _ _ _, .inf t => .inf t
  | .fin s m e, .fin t n f =>
    let e0 := min e f
    ofScaled (scaled s m e e0 + scaled t n f e0) e0 (s && t)

/-- Exact product; an infinity times a zero is NaN. -/
def FVal.mul (a b : FVal) : FVal :=
  match a, b with
  | .nan, _ => .nan
  | _, .nan => .nan
  | .inf s, .inf t => .inf (s != t)
  | .inf s, .fin t n _ => if n = 0 then .nan else .inf (s != t)
  | .fin s m _, .inf t => if m = 0 then .nan else .inf (s != t)
  | .fin s m e, .fin t n f => .fin (s != t) (m * n) (e + f)

/-- Exact comparison a < b of values that are not NaN, with −0 equal to +0. -/
def FVal.lt (a b : FVal) : Bool :=
  match a, b with
  | .nan, _ => false
  | _, .nan => false
  | .inf s, .inf t => s && !t
  | .inf s, .fin _ _ _ => s
  | .fin _ _ _, .inf t => !t
  | .fin s m e, .fin t n f =>
    let e0 := min e f
    decide (scaled s m e e0 < scaled t n f e0)

/-- Exact comparison that puts −0 below +0, as MIN and MAX do (R254, R385). -/
def FVal.ltZ (a b : FVal) : Bool := a.lt b || (a.isZero && b.isZero && a.neg && !b.neg)

/-- The lesser value, NaN if either is. -/
def FVal.min (a b : FVal) : FVal := if a.isNan || b.isNan then .nan else if b.ltZ a then b else a
/-- The greater value, NaN if either is. -/
def FVal.max (a b : FVal) : FVal := if a.isNan || b.isNan then .nan else if a.ltZ b then b else a

/-- Rounds to an integral value by a mode (R386). -/
def FVal.integral (md : RMode) (v : FVal) : FVal :=
  match v with
  | .nan => .nan
  | .inf s => .inf s
  | .fin s m e => .fin s (roundInt md s m e) 0

/-! ## Conversions (R271, R272) -/

/-- Converts a decoded value to a floating element format under the table's entries for a format code. None is a NaN block. -/
def convert (f : FP) (tbl : BitVec 128) (code : Nat) (md : RMode) (v : FVal) : Option Nat :=
  match v with
  | .nan => if f.nan then some f.qnan else ovApply f (nanin tbl code) false
  | .inf s => ovApply f (infin tbl code) s
  | .fin s m e => roundFP f md (finov tbl code) s m e

/-- Converts to one of the formats FP32, BF16, FP16, E4M3 and E5M2. -/
def convertTo (fmt : Fmt) (tbl : BitVec 128) (md : RMode) (v : FVal) : Nat :=
  (convert (fpOf fmt) tbl (fmtCode fmt) md v).getD (fpOf fmt).qnan

/-- An integer limited to a range. -/
def clampInt (x lo hi : Int) : Int := if x < lo then lo else if hi < x then hi else x

/-- The range of an integer type. -/
def ityMin (t : ITy) : Int := if itySigned t then -(2 ^ (ityBits t - 1) : Int) else 0
/-- The greatest value of an integer type. -/
def ityMax (t : ITy) : Int := if itySigned t then 2 ^ (ityBits t - 1) - 1 else 2 ^ ityBits t - 1

/-- Converts a decoded value to an integer type, saturating (R272). -/
def toInteger (t : ITy) (md : RMode) (v : FVal) : Nat :=
  match v with
  | .nan => 0
  | .inf s => ofInt (if s then ityMin t else ityMax t) (ityBits t)
  | .fin s m e =>
    let n : Int := roundInt md s m e
    ofInt (clampInt (if s then -n else n) (ityMin t) (ityMax t)) (ityBits t)

/-- An integer as a decoded value; zero is +0. -/
def ofInteger (x : Int) : FVal := ofScaled x 0 false

/-- A lane of an integer type as the integer it stands for. -/
def laneInt (t : ITy) (x : Nat) : Int := if itySigned t then toSigned x (ityBits t) else (x : Int)

/-! ## Special functions: fixed-point evaluation to 320 fraction bits, far past any tie (log entry 6) -/

/-- Fraction bits of the fixed-point evaluation. -/
def fixBits : Nat := 320

/-- A magnitude `m × 2^e` in fixed point, cut toward zero. -/
def toFix (m : Nat) (e : Int) : Nat := if 0 ≤ e + fixBits then m * 2 ^ (e + fixBits).toNat else m / 2 ^ (-(e + fixBits)).toNat

/-- Product of two fixed-point numbers. -/
def fixMul (a b : Nat) : Nat := a * b / 2 ^ fixBits

/-- Sum of 1/(k·2^k) for k from 1 on: ln 2. -/
def ln2Sum : Nat → Nat → Nat
  | 0, _ => 0
  | n + 1, k => 2 ^ fixBits / (k * 2 ^ k) + ln2Sum n (k + 1)

/-- ln 2 in fixed point. -/
def ln2Fix : Nat := ln2Sum 330 1

/-- Taylor series of the exponential from term `k` on. -/
def expSum (y : Nat) : Nat → Nat → Nat → Nat
  | 0, _, _ => 0
  | n + 1, k, t => t + expSum y n (k + 1) (fixMul t y / k)

/-- The exponential of a fixed-point number below 1. -/
def expFix (y : Nat) : Nat := expSum y 90 1 (2 ^ fixBits)

/-- A value known between `m` and `m + 1` at exponent `e`: the sticky bit below stands for the rest. -/
def sticky (neg : Bool) (m : Nat) (e : Int) : FVal := .fin neg (2 * m + 1) (e - 1)

/-- 2 to the power of an integer plus a fixed-point fraction. -/
def exp2Parts (n : Int) (f : Nat) : FVal := if f = 0 then .fin false 1 n else sticky false (expFix (fixMul f ln2Fix)) (n - fixBits)

/-- The integer part, rounded down, and the fixed-point fraction of a signed fixed-point number. -/
def splitFix (neg : Bool) (x : Nat) : Int × Nat :=
  let z : Int := if neg then -(x : Int) else x
  (z / (2 ^ fixBits : Nat), (z % (2 ^ fixBits : Nat)).toNat)

/-- 2^x (R392, R393). A fraction finer than the fixed point still makes the result inexact. -/
def fExp2 (v : FVal) : FVal :=
  match v with
  | .nan => .nan
  | .inf s => if s then .zero false else .inf false
  | .fin s m e =>
    if m = 0 then .fin false 1 0
    else
      let (n, f) := splitFix s (toFix m e)
      exp2Parts n f

/-- e^x of a finite value, as 2^(x / ln 2). -/
def fExp (v : FVal) : FVal :=
  match v with
  | .nan => .nan
  | .inf s => if s then .zero false else .inf false
  | .fin s m e =>
    if m = 0 then .fin false 1 0
    else
      let (n, f) := splitFix s (toFix m e * 2 ^ fixBits / ln2Fix)
      sticky false (expFix (fixMul f ln2Fix)) (n - fixBits)

/-- Odd powers of z over their exponents: half of ln((1 + z) / (1 − z)). -/
def atanhSum (z2 : Nat) : Nat → Nat → Nat → Nat
  | 0, _, _ => 0
  | n + 1, k, t => t / k + atanhSum z2 n (k + 2) (fixMul t z2)

/-- ln of a number `m` scaled to lie between 1 and 2, in fixed point. -/
def lnMant (m : Nat) : Nat :=
  let one := 2 ^ Nat.log2 m
  let z := (m - one) * 2 ^ fixBits / (m + one)
  2 * atanhSum (fixMul z z) 110 1 z

/-- log2(x) (R392, R393). -/
def fLog2 (v : FVal) : FVal :=
  match v with
  | .nan => .nan
  | .inf s => if s then .nan else .inf false
  | .fin s m e =>
    if m = 0 then .inf true
    else if s then .nan
    else
      let k := floorLog2 m e
      if m = 2 ^ Nat.log2 m then ofInteger k
      else
        let z : Int := k * (2 ^ fixBits : Nat) + (lnMant m * 2 ^ fixBits / ln2Fix : Nat)
        sticky (decide (z < 0)) z.natAbs (-fixBits)

/-- ln(x) of a positive finite value in fixed point, signed. -/
def lnFix (m : Nat) (e : Int) : Int := floorLog2 m e * (ln2Fix : Nat) + (lnMant m : Nat)

/-- 1/x (R392, R393). -/
def fRcp (v : FVal) : FVal :=
  match v with
  | .nan => .nan
  | .inf s => .zero s
  | .fin s m e =>
    if m = 0 then .inf s
    else
      let k := Nat.log2 m + fixBits
      let q := 2 ^ k / m
      if 2 ^ k % m = 0 then .fin s q (-k - e) else sticky s q (-k - e)

/-- Integer square root, one bit at a time from bit `n` down. -/
def isqrtFrom (x : Nat) : Nat → Nat → Nat
  | 0, r => r
  | n + 1, r => let c := r + 2 ^ n; isqrtFrom x n (if c * c ≤ x then c else r)

/-- Integer square root. -/
def isqrt (x : Nat) : Nat := isqrtFrom x (Nat.log2 x / 2 + 1) 0

/-- 1/√x (R392, R393). -/
def fRsq (v : FVal) : FVal :=
  match v with
  | .nan => .nan
  | .inf s => if s then .nan else .zero false
  | .fin s m e =>
    if m = 0 then .inf s
    else if s then .nan
    else
      let (m, e) := if e % 2 = 0 then (m, e) else (2 * m, e - 1)
      let k := Nat.log2 m + fixBits
      let r := isqrt (2 ^ (2 * k) / m)
      if r * r * m = 2 ^ (2 * k) then .fin false r (-k - e / 2) else sticky false r (-k - e / 2)

/-- tanh(x) (R392, R393): (e^2x − 1) / (e^2x + 1) of the magnitude. -/
def fTanh (v : FVal) : FVal :=
  match v with
  | .nan => .nan
  | .inf s => .fin s 1 0
  | .fin s m e =>
    if m = 0 then .zero s
    else if floorLog2 m e ≥ 8 then .fin s (2 ^ fixBits - 1) (-fixBits)
    else if floorLog2 m e < -120 then sticky s (m * 2 ^ fixBits - 1) (e - fixBits)
    else
      let (n, f) := splitFix false (toFix m (e + 1) * 2 ^ fixBits / ln2Fix)
      let ex := expFix (fixMul f ln2Fix) * 2 ^ n.toNat
      let one := 2 ^ fixBits
      sticky s ((ex - one) * 2 ^ fixBits / (ex + one)) (-fixBits)

end Sys2Proof.Machine
end

