-- ==== Sys2Proof/Machine/Block.lean ====
section
/-!
DEFINITION. Lanes of a register, and the block formats MX and SX: rules R264 to R266, R273, R274 and R381.
-/

namespace Sys2Proof.Machine

/-! ## Lanes -/

/-- Lane `j` of `e` bits of a value (R381). -/
def laneOf (x e j : Nat) : Nat := fld x (e * j) e

/-- The value whose lanes of `e` bits are listed, lane 0 first. -/
def joinLanes (e : Nat) : List Nat → Nat
  | [] => 0
  | x :: xs => x % 2 ^ e + 2 ^ e * joinLanes e xs

/-- The lanes of `e` bits of a value, `n` of them. -/
def lanesOf (x e n : Nat) : List Nat := (range' 0 n).map (laneOf x e)

/-- The bytes of a natural as little-endian lanes. -/
def bytesNat (l : List Byte) : Nat := leNat l

/-! ## Block formats -/

/-- Magnitude bits of an element of SX (R266). -/
def sxBits (f : Fmt) : Nat := fmtBits f - 1

/-- Bytes of the elements of one MX block (R265). -/
def mxBytes (f : Fmt) : Nat := 4 * fmtBits f

/-- Decodes element bits of an MX format (R262, R264). -/
def mxElem (f : Fmt) (x : Nat) : FVal :=
  if f = .mxi8 then ofScaled (toSigned x 8) (-6) false else decodeFP (fpOf f) x

/-- An element of an MX block with its scale byte (R264). -/
def mxValue (f : Fmt) (scale x : Nat) : FVal :=
  if scale = 255 then .nan
  else match mxElem f x with
    | .nan => .nan
    | .inf s => .inf s
    | .fin s m e => .fin s m (e + (scale : Int) - 127)

/-- Element `j` of an SX block (R266). -/
def sxValue (f : Fmt) (blk j : Nat) : FVal :=
  let w := sxBits f
  let ex := fld blk 0 8
  let x := fld blk (24 + (w + 1) * j) (w + 1)
  if ex = 255 then .nan
  else .fin (bit x w) (x % 2 ^ w) ((ex : Int) - 127 - fld blk (8 + 2 * (j / 4)) 2 - (w - 1 : Int))

/-- An input of a block after step 1 of R273: an element apart, a finite value that is packed, or what makes a NaN block. -/
inductive BlkIn where
  | elem (bits : Nat)
  | val (neg : Bool) (m : Nat) (e : Int)
  | nanBlock
  deriving DecidableEq, Repr

/-- The largest finite magnitude of the elements of a block format, as an integer and a power of two. -/
def blkMax (f : Fmt) : Nat × Int :=
  if fmtSx f then (2 ^ sxBits f - 1, 1 - (sxBits f : Int)) else if f = .mxi8 then (127, -6) else ((fpOf f).maxM, (fpOf f).maxE)

/-- Whether the elements of a block format have a NaN, and an infinity. -/
def blkNan (f : Fmt) : Bool := f == .mx8 || f == .mx8e5
/-- Whether the elements of a block format have an infinity. -/
def blkInf (f : Fmt) : Bool := f == .mx8e5

/-- An entry of the overflow table for an input of a block that is not finite (R269, R273 step 1). -/
def blkSpecial (f : Fmt) (code : Nat) (neg : Bool) : BlkIn :=
  match code with
  | 2 => if blkNan f then .elem (fpOf f).qnan else .nanBlock
  | 3 => .val neg 0 0
  | 1 => if blkInf f then .elem (infBits (fpOf f) neg) else .val neg (blkMax f).1 ((blkMax f).2 + 127)
  | _ => .val neg (blkMax f).1 ((blkMax f).2 + 127)

/-- Step 1 of R273. -/
def blkResolve (f : Fmt) (tbl : BitVec 128) (v : FVal) : BlkIn :=
  match v with
  | .nan => if blkNan f then .elem (fpOf f).qnan else blkSpecial f (nanin tbl (fmtCode f)) false
  | .inf s => blkSpecial f (infin tbl (fmtCode f)) s
  | .fin s m e => .val s m e

/-- floor(log2) of the greatest finite magnitude of a block, if one is not zero. -/
def blkTop (l : List BlkIn) : Option Int :=
  l.foldl (fun acc x => match x with
    | .val _ m e => if m = 0 then acc else match acc with
      | some t => some (if t < floorLog2 m e then floorLog2 m e else t)
      | none => some (floorLog2 m e)
    | .elem _ => acc
    | .nanBlock => acc) none

/-- emax of an MX element format (R273 step 2). -/
def mxEmax : Fmt → Int
  | .mx8 => 8 | .mx8e5 => 15 | .mx6 => 2 | .mx6e3 => 4 | .mx4 => 2 | .mxi8 => 0
  | .f32 => 0 | .bf16 => 0 | .f16 => 0 | .e4m3 => 0 | .e5m2 => 0 | .sx8 => 0 | .sx5 => 0 | .sx3 => 0

/-- One element of an MX block under scale `X` (R273 step 3). None makes the block a NaN block. -/
def mxPackElem (f : Fmt) (ov : Nat) (md : RMode) (x : Int) : BlkIn → Option Nat
  | .elem b => some b
  | .nanBlock => none
  | .val s m e =>
    if f = .mxi8 then
      let n := roundInt md s m (e - x + 6)
      if n ≤ 127 then some (ofInt (if s then -(n : Int) else n) 8)
      else match ov with
        | 2 => none
        | 3 => some 0
        | _ => some (ofInt (if s then -127 else 127) 8)
    else roundFP (fpOf f) md ov s m (e - x)

/-- All elements of a list of options, or none. -/
def allSome {α : Type} : List (Option α) → Option (List α)
  | [] => some []
  | none :: _ => none
  | some a :: l => (allSome l).map (a :: ·)

/-- 32 values packed into an MX block: scale byte and elements (R273). -/
def mxPack (f : Fmt) (tbl : BitVec 128) (md : RMode) (vs : List FVal) : Nat × Nat :=
  let l := vs.map (blkResolve f tbl)
  let x : Int := match blkTop l with
    | none => -127
    | some t => clampInt (t - mxEmax f) (-127) 127
  match allSome (l.map (mxPackElem f (finov tbl (fmtCode f)) md x)) with
  | some es => ((x + 127).toNat, joinLanes (fmtBits f) es)
  | none => (255, 0)

/-- The magnitude of an element rounded at a shift under exponent `ex` (R274). -/
def sxRound (w : Nat) (md : RMode) (ex : Int) (b : Nat) (s : Bool) (m : Nat) (e : Int) : Nat :=
  roundInt md s m (e - (ex - 127 - b - (w - 1 : Int)))

/-- Whether an input fits its quad at a shift (R274 step 3). -/
def sxFits (w : Nat) (md : RMode) (ex : Int) (b : Nat) : BlkIn → Bool
  | .val s m e => decide (sxRound w md ex b s m e ≤ 2 ^ w - 1)
  | .elem _ => true
  | .nanBlock => true

/-- The greatest magnitude that some input of a block has: a list of the inputs that have it. -/
def blkAtTop (l : List BlkIn) : List BlkIn :=
  l.filter fun x => match x with
    | .val _ m e => l.all fun y => match y with
      | .val _ n f => !magGt n f m e
      | .elem _ => true
      | .nanBlock => true
    | .elem _ => false
    | .nanBlock => false

/-- The shared exponent E (R274 step 2). -/
def sxExp (w : Nat) (md : RMode) (l : List BlkIn) : Int :=
  match blkTop l with
  | none => 0
  | some t =>
    let e0 := t + 127
    let e1 := if (blkAtTop l).any (fun x => match x with
      | .val s m e => sxRound w md e0 0 s m e == 2 ^ w
      | .elem _ => false
      | .nanBlock => false) then e0 + 1 else e0
    clampInt e1 0 254

/-- An element of an SX block at a shift: sign and magnitude bits (R274 step 4), FINOV where it does not fit. -/
def sxPackElem (w ov : Nat) (md : RMode) (ex : Int) (b : Nat) : BlkIn → Option Nat
  | .nanBlock => none
  | .elem _ => none
  | .val s m e =>
    let n := sxRound w md ex b s m e
    if n ≤ 2 ^ w - 1 then some (b2n s * 2 ^ w + n)
    else match ov with
      | 2 => none
      | 3 => some (b2n s * 2 ^ w)
      | _ => some (b2n s * 2 ^ w + (2 ^ w - 1))

/-- 32 values packed into an SX block (R274). A NaN block has every other bit zero. -/
def sxPack (f : Fmt) (tbl : BitVec 128) (md : RMode) (vs : List FVal) : Nat :=
  let w := sxBits f
  let l := vs.map (blkResolve f tbl)
  if l.contains .nanBlock then 255
  else
    let ex := sxExp w md l
    let quads := chunked 4 8 l
    let shift := fun q : List BlkIn =>
      if q.all (sxFits w md ex 3) then 3 else if q.all (sxFits w md ex 2) then 2 else if q.all (sxFits w md ex 1) then 1 else 0
    let shifts := quads.map shift
    match allSome ((quads.zip shifts).flatMap fun q => q.1.map (sxPackElem w (finov tbl (fmtCode f)) md ex q.2)) with
    | some es => joinLanes (w + 1) es * 2 ^ 24 + joinLanes 2 shifts * 2 ^ 8 + ex.toNat
    | none => 255

end Sys2Proof.Machine
end

