-- ==== Sys2Proof/WellFormed.lean ====
section
/-!
DEFINITION. Which terms of `Instr` the encodings allow: the conditions of the opcode maps that the field widths alone do not
make (R317, R318, R323 to R327 and the entries of chapters 13 to 17), and the ranges of the numbers an event carries.
-/

namespace Sys2Proof

open Machine

/-- Contexts are numbered 2c + bank for core c of 1,024 (R1, R199). -/
def ctxInRange (c : Nat) : Bool := decide (c < 2048)

/-- A token and a pending destination must differ unless both are s0 (R327). -/
def tokenDiffers (t d : RegNo) : Bool := decide (t ≠ d) || decide (t = 0)

/-- The lane count of a packing or unpacking operation makes whole blocks (R397, R398). -/
def packOk (w : Wid) (f : Fmt) : Bool := decide (fmtCode f ≤ 2) && blockLanes (widBits w / fmtBits f)

/-- K of an MMA is a multiple of 32 when either format is a block format (R418); `klen` is K − 1. -/
def mmaOk (ga gb : BitVec 3) (fa fb : Fmt) (klen : BitVec 10) : Bool :=
  decide (ga ≠ gb) && decide (fmtCode fa ≠ 0) && decide (fmtCode fb ≠ 0) &&
  (!(fmtBlock fa || fmtBlock fb) || decide ((klen.toNat + 1) % 32 = 0))

/-- The clamp fields of MDRAIN: EC even, and zero when CL is 0 (R427). -/
def clampOk (cl : Bool) (ec : BitVec 4) : Bool := if cl then decide (ec.toNat % 2 = 0) else decide (ec = 0)

/-- The well-formedness of an operation or event. -/
def wellFormed : Instr → Bool
  | .thermalSample l => decide (l.length = 6)
  | .registerWrite _ _ _ => true
  | .packetReceive st _ _ _ => decide (st < 36)
  | .laneLoss st lane => decide (st < 36) && decide (lane < 4)
  | .retrainComplete st => decide (st < 36)
  | .remoteRequest src _ _ _ => decide (src.dev < 1024)
  | .remotePostArrival src _ _ _ => decide (src < 1024)
  | .remoteReadDrop src => decide (src < 1024)
  | .windowArrival src _ _ _ => decide (src < 1024)
  | .ringChunkArrival src _ c _ _ _ => decide (src < 1024) && decide (c < 1024)
  | .spillRefetch c r => decide (c < 1024) && decide (r < 8)
  | .hostRequest pa _ => decide (pa < 2 ^ 40)
  | .snoopComplete pa _ => decide (pa < 2 ^ 40)
  | .poolTimeout c _ => ctxInRange c
  | .replayStart c _ => decide (c < 128)
  | .loadComplete c _ => ctxInRange c
  | .tokenWrite c _ => ctxInRange c
  | .homeOperation c _ => ctxInRange c
  | .jobStart c _ => ctxInRange c
  | .jobComplete c _ => ctxInRange c
  | .fend c _ => ctxInRange c
  | .tableWalk d _ va => decide (d < 4) && decide (va < 2 ^ 52)
  | .regionFillComplete c b => ctxInRange c && decide (b < 256)
  | .timedLoadDataArrival c _ => ctxInRange c
  | .knownAnswerSweepComplete c _ => decide (c < 128)
  | .pageFaultRingHeadWrite d _ => decide (d < 4)
  | .bfx _ _ p l => decide (p.toNat + l.toNat + 1 ≤ 64)
  | .bfi _ _ p l => decide (p.toNat + l.toNat + 1 ≤ 64)
  | .cvta _ _ b dir => decide (dir = 2) || decide (b = 0)
  | .isap _ _ ap => decide (ap.toNat ≤ 4)
  | .call a _ => decide (a ≠ 0)
  | .loopReg _ a => decide (a ≠ 0)
  | .vcmp _ t c d _ _ _ =>
    decide (d ≠ 0) && (match t with | .flt _ => true | .int _ => decide (c ≠ .uo) && decide (c ≠ .ord))
  | .pand d _ _ => decide (d ≠ 0)
  | .por d _ _ => decide (d ≠ 0)
  | .pxor d _ _ => decide (d ≠ 0)
  | .pnot d _ => decide (d ≠ 0)
  | .vcvt w k _ _ _ _ _ => cvtOk w k
  | .vpacksx w r s _ _ _ _ _ => fmtSx r && packOk w s
  | .vunpk w r s _ _ => packOk w r && fmtBlock s
  | .vmovsExtract w t _ _ lane => decide (lane.toNat < widBits w / ityBits t)
  | .vmovsInsert w t _ _ lane => decide (lane.toNat < widBits w / ityBits t)
  | .vreds _ t op _ _ _ =>
    (match t with | .flt _ => decide (redCode op ≤ 2) | .int _ => true)
  | .skest d c _ _ => decide (d ≠ c)
  | .sktop d c _ _ => decide (d ≠ c)
  | .mma _ _ ga gb fa fb klen => mmaOk ga gb fa fb klen
  | .mmag _ _ ga gb fa fb klen _ => mmaOk ga gb fa fb klen
  | .mdrainScratchpad _ _ _ _ _ _ _ cl ec => clampOk cl ec
  | .mdrainGeneric _ _ _ _ _ _ _ cl ec => clampOk cl ec
  | .spldp _ w _ _ _ _ => decide (w ≠ 0)
  | .spstp _ w _ _ _ _ => decide (w ≠ 0)
  | .rld _ _ _ t _ d _ => tokenDiffers t d
  | .amo _ op wide t _ _ c d _ =>
    tokenDiffers t d && (decide (op = .cas) || decide (c = 0)) && (!wide || (decide (op ≠ .fadd) && decide (op ≠ .fmax)))
  | .amoRsc _ t _ _ _ d _ => tokenDiffers t d
  | .cld t _ _ d _ => tokenDiffers t d
  | .cst t _ _ _ d _ => tokenDiffers t d
  | .crcn _ t _ _ d _ => tokenDiffers t d
  | _ => true

end Sys2Proof
end

