-- ==== Sys2Proof/Decode.lean ====
section
/-!
DEFINITION. The bundle encoding: syllable layouts, the opcode maps read as a decoder that refuses by cause, the bundle decoder
in the order of R319, and the encoder. Rules R304 to R327.
-/

namespace Sys2Proof

open Machine

/-! ## Syllables as lists of fields -/

/-- The families of syllables; V serves both V slots (R313). -/
inductive Fam where
  | s | v | m | c0 | c1
  deriving DecidableEq, Repr

/-- Packs fields, lowest first, into a word by their widths. -/
def packFields : List Nat → List Nat → Nat
  | w :: ws, v :: vs => v % 2 ^ w + 2 ^ w * packFields ws vs
  | _, _ => 0

/-- The fields of a word, lowest first, by their widths. -/
def unpackFields : List Nat → Nat → List Nat
  | [], _ => []
  | w :: ws, x => x % 2 ^ w :: unpackFields ws (x / 2 ^ w)

/-- The field widths of each family's syllable, from bit 0 upward (R311, R313 to R316). An S syllable is cut at every boundary
that some S format has. -/
def layout : Fam → List Nat
  | .s => [6, 6, 6, 6, 1, 7]
  | .v => [16, 1, 1, 2, 4, 4, 4, 6, 6, 6, 6, 2, 6]
  | .m => [6, 10, 1, 4, 4, 4, 6, 6, 4, 4, 3, 3, 3, 1, 5]
  | .c0 => [12, 2, 6, 6, 1, 5]
  | .c1 => [13, 4, 4, 4, 2, 6, 6, 6, 6, 6, 1, 6]

/-- Bytes of a family's syllable without an extension word (R305). -/
def sylBytes : Fam → Nat
  | .s => 4 | .v => 8 | .m => 8 | .c0 => 4 | .c1 => 8

/-- A syllable: its family, its fields in the order of `layout`, an S extension word, and the constant word of MKCMP. -/
structure Syl where
  fam : Fam
  fields : List Nat
  ext : Option Nat
  const : Option Nat
  deriving DecidableEq, Repr

/-- The syllable's word. -/
def Syl.word (y : Syl) : Nat := packFields (layout y.fam) y.fields

/-! ## The decoder -/

/-- A register of a 64-register file. -/
def rg (n : Nat) : RegNo := BitVec.ofNat 6 n

/-- Answers an operation where its field conditions hold, else ILLEGAL_FIELD (R317, R318). -/
def req (c : Bool) (i : Instr) : Except Cause Instr := if c then .ok i else .error Cause.illegalField

/-- Answers what a sub-code names, else ILLEGAL_FIELD. -/
def sub {α : Type} (o : Option α) (k : α → Except Cause Instr) : Except Cause Instr :=
  match o with
  | some a => k a
  | none => .error Cause.illegalField

/-- An immediate of `n` bits with its extension word (R312). -/
def mkImm (n e lo ext : Nat) : ExtImm n :=
  if e = 1 then .long (BitVec.ofNat (n + 32) (ext * 2 ^ n + lo)) else .short (BitVec.ofNat n lo)

/-- An S syllable's fields: FN (or the low six bits), B, A, D, E, OP, and its extension word. -/
structure SRaw where
  fn : Nat
  b : Nat
  a : Nat
  d : Nat
  e : Nat
  op : Nat
  ext : Nat
  deriving DecidableEq, Repr

/-- Bits [11:0] of an S syllable. -/
def SRaw.low (r : SRaw) : Nat := r.fn + 64 * r.b

/-- A three-register operation with FN zero. -/
def s3 (r : SRaw) (f : RegNo → RegNo → RegNo → Instr) : Except Cause Instr :=
  req (r.e == 0 && r.fn == 0) (f (rg r.d) (rg r.a) (rg r.b))

/-- A three-register operation whose FN[0] chooses the natural form. -/
def s3n (r : SRaw) (f : Bool → RegNo → RegNo → RegNo → Instr) : Except Cause Instr :=
  req (r.e == 0 && decide (r.fn < 2)) (f (r.fn == 1) (rg r.d) (rg r.a) (rg r.b))

/-- A shift: FN 0 takes the count from a register, FN 32 from B (R323). -/
def sShift (r : SRaw) (f : RegNo → RegNo → RegNo → Instr) (g : RegNo → RegNo → BitVec 6 → Instr) : Except Cause Instr :=
  if r.fn = 32 then req (r.e == 0) (g (rg r.d) (rg r.a) (BitVec.ofNat 6 r.b))
  else req (r.e == 0 && r.fn == 0) (f (rg r.d) (rg r.a) (rg r.b))

/-- A two-register operation with B and FN zero. -/
def s2 (r : SRaw) (f : RegNo → RegNo → Instr) : Except Cause Instr :=
  req (r.e == 0 && r.fn == 0 && r.b == 0) (f (rg r.d) (rg r.a))

/-- An operation on A alone. -/
def sA (r : SRaw) (f : RegNo → Instr) : Except Cause Instr :=
  req (r.e == 0 && r.fn == 0 && r.b == 0 && r.d == 0) (f (rg r.a))

/-- An operation with every field zero. -/
def s0 (r : SRaw) (i : Instr) : Except Cause Instr :=
  req (r.e == 0 && r.fn == 0 && r.b == 0 && r.d == 0 && r.a == 0) i

/-- The S map (R323) with the sub-codes of R318. -/
def interpS (r : SRaw) : Except Cause Instr :=
  match r.op with
  | 0x00 => s0 r .nop
  | 0x01 => s3 r .add
  | 0x02 => .ok (.addi (rg r.d) (rg r.a) (mkImm 12 r.e r.low r.ext))
  | 0x03 => s3 r .sub
  | 0x04 => s3 r .mul
  | 0x05 => s3n r .mulh
  | 0x06 => s3n r .div
  | 0x07 => s3n r .rem
  | 0x08 => s3 r .and
  | 0x09 => s3 r .or
  | 0x0A => s3 r .xor
  | 0x0B => s3 r .andn
  | 0x0C => sShift r .shlReg .shlImm
  | 0x0D => sShift r .shrReg .shrImm
  | 0x0E => sShift r .shaReg .shaImm
  | 0x0F => sShift r .rotlReg .rotlImm
  | 0x10 => s2 r .clz
  | 0x11 => s2 r .ctz
  | 0x12 => s2 r .popc
  | 0x13 => s3n r .min
  | 0x14 => s3n r .max
  | 0x15 => sub (condOf r.fn) fun c => req (r.e == 0) (.cmp c (rg r.d) (rg r.a) (rg r.b))
  | 0x16 => req (r.e == 0) (.sel (rg r.d) (rg r.a) (rg r.b) (rg r.fn))
  | 0x17 => req (r.a == 0) (.li (rg r.d) (mkImm 12 r.e r.low r.ext))
  | 0x18 => s2 r .mov
  | 0x19 => sub (extOf r.fn) fun w => req (r.e == 0 && r.b == 0) (.sext w (rg r.d) (rg r.a))
  | 0x1A => sub (extOf r.fn) fun w => req (r.e == 0 && r.b == 0) (.zext w (rg r.d) (rg r.a))
  | 0x1B => req (r.e == 0 && decide (r.b + r.fn + 1 ≤ 64)) (.bfx (rg r.d) (rg r.a) (BitVec.ofNat 6 r.b) (BitVec.ofNat 6 r.fn))
  | 0x1C => req (r.e == 0 && decide (r.b + r.fn + 1 ≤ 64)) (.bfi (rg r.d) (rg r.a) (BitVec.ofNat 6 r.b) (BitVec.ofNat 6 r.fn))
  | 0x20 => req (r.e == 0 && decide (r.fn < 4)) (.lea (rg r.d) (rg r.a) (rg r.b) (BitVec.ofNat 2 r.fn))
  | 0x21 => req (r.e == 0 && decide (r.fn < 4) && (r.fn == 2 || r.b == 0)) (.cvta (rg r.d) (rg r.a) (rg r.b) (BitVec.ofNat 2 r.fn))
  | 0x22 => req (r.e == 0 && decide (r.fn < 5) && r.b == 0) (.isap (rg r.d) (rg r.a) (BitVec.ofNat 4 r.fn))
  | 0x28 => .ok (.ld (decide (r.b / 32 = 1)) (BitVec.ofNat 2 (r.b / 8)) (rg r.d) (rg r.a) (mkImm 9 r.e (r.low % 512) r.ext))
  | 0x29 => req (decide (r.b / 32 = 0)) (.st (BitVec.ofNat 2 (r.b / 8)) (rg r.d) (rg r.a) (mkImm 9 r.e (r.low % 512) r.ext))
  | 0x30 => req (r.d == 0 && decide (r.a / 32 = 0)) (.br (mkImm 17 r.e (r.low + 4096 * (r.a % 32)) r.ext))
  | 0x31 =>
    if r.a / 32 = 1 then .ok (.brcEq (rg r.d) (mkImm 17 r.e (r.low + 4096 * (r.a % 32)) r.ext))
    else .ok (.brcNe (rg r.d) (mkImm 17 r.e (r.low + 4096 * (r.a % 32)) r.ext))
  | 0x32 => req (r.d != 0 && decide (r.a / 32 = 0)) (.call (rg r.d) (mkImm 17 r.e (r.low + 4096 * (r.a % 32)) r.ext))
  | 0x33 => sA r .ret
  | 0x34 => sA r .jr
  | 0x35 =>
    if r.d = 0 then .ok (.loopImm (BitVec.ofNat 6 r.a) (mkImm 12 r.e r.low r.ext))
    else req (r.e == 0 && r.low == 0) (.loopReg (BitVec.ofNat 6 r.a) (rg r.d))
  | 0x36 => s0 r .lexit
  | 0x38 => s2 r .join
  | 0x39 => sA r .leave
  | 0x3A => sA r .cbar
  | 0x3B => s2 r .carr
  | 0x3C => req (r.e == 0 && r.fn == 0 && r.d == 0) (.cwait (rg r.a) (rg r.b))
  | 0x3D => s0 r .trig
  | 0x3E => s0 r .yield
  | 0x3F => s0 r .halt
  | 0x40 => sub (condOf (r.fn % 8)) fun c =>
      req (r.e == 0 && r.d == 0 && (r.fn / 8 == 2 || r.fn / 8 == 3)) (.waitf c (r.fn / 8 == 3) (rg r.a) (rg r.b))
  | 0x41 => sA r .waitt
  | 0x42 => sub (fenceOf (r.fn % 8)) fun k => sub (scopeOf (r.fn / 8)) fun sc =>
      req (r.e == 0 && r.a == 0 && r.b == 0 && r.d == 0) (.fence k sc)
  | 0x48 => req (r.e == 0 && r.a == 0) (.csrr (rg r.d) (BitVec.ofNat 12 r.low))
  | 0x49 => req (r.e == 0 && r.d == 0) (.csrw (BitVec.ofNat 12 r.low) (rg r.a))
  | 0x4A => req (r.e == 0) (.csrx (rg r.d) (BitVec.ofNat 12 r.low) (rg r.a))
  | 0x4B => req (r.e == 0 && r.a == 0 && r.d == 0) (.trap (BitVec.ofNat 12 r.low))
  | 0x4C => s0 r .eret
  | 0x4D =>
    if r.fn = 1 then req (r.e == 0 && r.a == 0 && r.b == 0 && r.d == 0) .ovtldRst
    else req (r.e == 0 && r.fn == 0 && r.d == 0) (.ovtld (rg r.a) (rg r.b))
  | 0x50 => s3 r .ropen
  | 0x51 => s2 r .rprep
  | 0x52 => s2 r .rcmt
  | 0x53 => s3 r .rstat
  | 0x54 => s3 r .rrevoke
  | 0x55 => req (r.e == 0) (.protr (rg r.d) (rg r.a) (rg r.b) (BitVec.ofNat 6 r.fn))
  | _ => .error Cause.illegalOpcode

/-- A V syllable's fields (R313). -/
structure VRaw where
  imm : Nat
  k : Nat
  sat : Nat
  md : Nat
  ty2 : Nat
  ty : Nat
  p : Nat
  c : Nat
  b : Nat
  a : Nat
  d : Nat
  wid : Nat
  op : Nat
  deriving DecidableEq, Repr

/-- A predicate register. -/
def pr (n : Nat) : BitVec 4 := BitVec.ofNat 4 n

/-- A sketch accumulator. -/
def qr (n : Nat) : BitVec 2 := BitVec.ofNat 2 n

/-- Which optional fields of a V syllable an opcode leaves unused, so that they must be zero (R383): C, P, TY, TY2, MD, SAT and
IMM16. B is said apart. K must be zero in every opcode. -/
def vZero (r : VRaw) (b c p ty ty2 md sat imm : Bool) : Bool :=
  r.k == 0 && (b || r.b == 0) && (c || r.c == 0) && (p || r.p == 0) && (ty || r.ty == 0) && (ty2 || r.ty2 == 0) &&
  (md || r.md == 0) && (sat || r.sat == 0) && (imm || r.imm == 0)

/-- Float operation on vA and vB. -/
def vF2 (r : VRaw) (w : Wid) (f : Wid → FTy → RegNo → RegNo → RegNo → BitVec 4 → Instr) : Except Cause Instr :=
  sub (ftyOf r.ty) fun t => req (vZero r true false true true false false false false) (f w t (rg r.d) (rg r.a) (rg r.b) (pr r.p))

/-- Float operation on vA, vB and vC. -/
def vF3 (r : VRaw) (w : Wid) (f : Wid → FTy → RegNo → RegNo → RegNo → RegNo → BitVec 4 → Instr) : Except Cause Instr :=
  sub (ftyOf r.ty) fun t =>
    req (vZero r true true true true false false false false) (f w t (rg r.d) (rg r.a) (rg r.b) (rg r.c) (pr r.p))

/-- Float operation on vA. -/
def vF1 (r : VRaw) (w : Wid) (f : Wid → FTy → RegNo → RegNo → BitVec 4 → Instr) : Except Cause Instr :=
  sub (ftyOf r.ty) fun t => req (vZero r false false true true false false false false) (f w t (rg r.d) (rg r.a) (pr r.p))

/-- Integer operation on vA and vB with SAT. -/
def vI2s (r : VRaw) (w : Wid) (f : Wid → ITy → Bool → RegNo → RegNo → RegNo → BitVec 4 → Instr) : Except Cause Instr :=
  sub (ityOf r.ty) fun t =>
    req (vZero r true false true true false false true false) (f w t (r.sat == 1) (rg r.d) (rg r.a) (rg r.b) (pr r.p))

/-- Integer operation on vA and vB. -/
def vI2 (r : VRaw) (w : Wid) (f : Wid → ITy → RegNo → RegNo → RegNo → BitVec 4 → Instr) : Except Cause Instr :=
  sub (ityOf r.ty) fun t => req (vZero r true false true true false false false false) (f w t (rg r.d) (rg r.a) (rg r.b) (pr r.p))

/-- Operation that takes one source and a lane width. -/
def vI1 (r : VRaw) (w : Wid) (f : Wid → ITy → RegNo → RegNo → BitVec 4 → Instr) : Except Cause Instr :=
  sub (ityOf r.ty) fun t => req (vZero r false false true true false false false false) (f w t (rg r.d) (rg r.a) (pr r.p))

/-- Predicate operation on pA and pB (R389). -/
def vP2 (r : VRaw) (w : Wid) (f : BitVec 4 → BitVec 4 → BitVec 4 → Instr) : Except Cause Instr :=
  req (vZero r true false false false false false false false && decide (w = .w1024) && decide (0 < r.d) && decide (r.d < 16) &&
    decide (r.a < 16) && decide (r.b < 16)) (f (pr r.d) (pr r.a) (pr r.b))

/-- Query of a sketch accumulator with one result (R405). -/
def vQ1 (r : VRaw) (w : Wid) (f : RegNo → BitVec 2 → RegNo → Instr) : Except Cause Instr :=
  req (vZero r true false false false false false false false && decide (w = .w1024) && decide (r.a < 4)) (f (rg r.d) (qr r.a) (rg r.b))

/-- Query of a sketch accumulator with two results (R405). -/
def vQ2 (r : VRaw) (w : Wid) (f : RegNo → RegNo → BitVec 2 → RegNo → Instr) : Except Cause Instr :=
  req (vZero r true true false false false false false false && decide (w = .w1024) && decide (r.a < 4) && r.d != r.c)
    (f (rg r.d) (rg r.c) (qr r.a) (rg r.b))

/-- SKHIN and SKDIN: TY 6 or 7 (R402). -/
def vH (r : VRaw) (w : Wid) (f : Wid → Bool → BitVec 2 → RegNo → BitVec 4 → Instr) : Except Cause Instr :=
  req (vZero r false false true true false false false false && (r.ty == 6 || r.ty == 7) && decide (r.d < 4))
    (f w (r.ty == 7) (qr r.d) (rg r.a) (pr r.p))

/-- The lane type that TY and IMM16[3] name together (R318). -/
def laneTyOf (flag ty : Nat) : Option LaneTy :=
  if flag = 0 then (ftyOf ty).map .flt else (ityOf ty).map .int

/-- Whether a float lane type admits only add, min and max, and an integer type no unordered condition. -/
def laneVcondOk (t : LaneTy) (c : VCond) : Bool :=
  match t with | .flt _ => true | .int _ => decide (c ≠ .uo) && decide (c ≠ .ord)

/-- A VREDS of a float type is add, min or max (R318). -/
def laneRedOk (t : LaneTy) (o : RedOp) : Bool :=
  match t with | .flt _ => decide (redCode o ≤ 2) | .int _ => true

/-- VCVT's operand types by IMM16[1:0] (R395). -/
def cvtOf (kind ty ty2 : Nat) : Option Cvt :=
  match kind with
  | 0 => match fmtOf ty, fmtOf ty2 with
    | some r, some s => some (.floatFloat r s)
    | _, _ => none
  | 1 => match ityOf ty, fmtOf ty2 with
    | some r, some s => some (.floatInt r s)
    | _, _ => none
  | 2 => match fmtOf ty, ityOf ty2 with
    | some r, some s => some (.intFloat r s)
    | _, _ => none
  | _ => none

/-- The V map (R324) once WID is known, with the field conditions of chapter 14. -/
def interpVw (r : VRaw) (w : Wid) : Except Cause Instr :=
  match r.op with
  | 0x00 => vF2 r w .vadd
  | 0x01 => vF2 r w .vsub
  | 0x02 => vF2 r w .vmul
  | 0x03 => vF3 r w .vfma
  | 0x04 => vF3 r w .vfms
  | 0x05 => vF2 r w .vmin
  | 0x06 => vF2 r w .vmax
  | 0x07 => vF1 r w .vabs
  | 0x08 => vF1 r w .vneg
  | 0x09 => sub (ftyOf r.ty) fun t =>
      req (vZero r false false true true false true false false) (.vrnd w t (rmodeOf r.md) (rg r.d) (rg r.a) (pr r.p))
  | 0x0A => sub (laneTyOf (r.imm / 8 % 2) r.ty) fun t => sub (vcondOf (r.imm % 8)) fun c =>
      req (vZero r true false true true false false false true && decide (r.imm < 16) && decide (0 < r.d) && decide (r.d < 16) &&
        laneVcondOk t c)
        (.vcmp w t c (pr r.d) (rg r.a) (rg r.b) (pr r.p))
  | 0x0B => vI2 r w .vsel
  | 0x0C => vP2 r w .pand
  | 0x0D => vP2 r w .por
  | 0x0E => vP2 r w .pxor
  | 0x0F => req (vZero r false false false false false false false false && decide (w = .w1024) && decide (0 < r.d) &&
      decide (r.d < 16) && decide (r.a < 16)) (.pnot (pr r.d) (pr r.a))
  | 0x10 => vI2s r w .viadd
  | 0x11 => vI2s r w .visub
  | 0x12 => vI2s r w .vimul
  | 0x13 => sub (ityOf r.ty) fun t =>
      req (vZero r true true true true false false true false)
        (.vimad w t (r.sat == 1) (rg r.d) (rg r.a) (rg r.b) (rg r.c) (pr r.p))
  | 0x14 => vI2 r w .vshl
  | 0x15 => vI2 r w .vshr
  | 0x16 => vI2 r w .vsha
  | 0x17 => vI2 r w .vand
  | 0x18 => vI2 r w .vor
  | 0x19 => vI2 r w .vxor
  | 0x1A => vI2 r w .vimin
  | 0x1B => vI2 r w .vimax
  | 0x1C => req (vZero r false false false false false false false false && decide (w = .w1024) && decide (r.a < 16))
      (.pcnt (rg r.d) (pr r.a))
  | 0x20 => vF1 r w .vexp2
  | 0x21 => vF1 r w .vlog2
  | 0x22 => vF1 r w .vrcp
  | 0x23 => vF1 r w .vrsq
  | 0x24 => vF1 r w .vtanh
  | 0x28 => sub (cvtOf r.imm r.ty r.ty2) fun k =>
      req (vZero r false false true true true true true true && cvtOk w k)
        (.vcvt w k (rmodeOf r.md) (r.sat == 1) (rg r.d) (rg r.a) (pr r.p))
  | 0x29 => sub (fmtOf r.ty) fun f => sub (fmtOf r.ty2) fun g =>
      req (vZero r false false true true true true true false && fmtSx f && packOk w g)
        (.vpacksx w f g (rmodeOf r.md) (r.sat == 1) (rg r.d) (rg r.a) (pr r.p))
  | 0x2A => sub (fmtOf r.ty) fun f => sub (fmtOf r.ty2) fun g =>
      req (vZero r false false false true true false false false && packOk w f && fmtBlock g) (.vunpk w f g (rg r.d) (rg r.a))
  | 0x2C => sub (ityOf r.ty) fun t =>
      req (vZero r true false false true false false false false) (.vperm w t (rg r.d) (rg r.a) (rg r.b))
  | 0x2D => vI1 r w .vbcast
  | 0x2E => sub (ityOf r.ty) fun t =>
      if r.imm / 32768 = 0 then
        req (vZero r false false false true false false false true && decide (r.imm < 128) && decide (r.imm < widBits w / ityBits t))
          (.vmovsExtract w t (rg r.d) (rg r.a) (BitVec.ofNat 7 r.imm))
      else
        req (vZero r false false false true false false false true && decide (r.imm - 32768 < 128) &&
            decide (r.imm - 32768 < widBits w / ityBits t))
          (.vmovsInsert w t (rg r.d) (rg r.a) (BitVec.ofNat 7 (r.imm - 32768)))
  | 0x2F => req (vZero r false false true false false false false false) (.vmovv w (rg r.d) (rg r.a) (pr r.p))
  | 0x30 => vI1 r w .viota
  | 0x31 => sub (laneTyOf (r.imm / 8 % 2) r.ty) fun t => sub (redOf (r.imm % 8)) fun o =>
      req (vZero r false false true true false false false true && decide (r.imm < 16) && laneRedOk t o)
        (.vreds w t o (rg r.d) (rg r.a) (pr r.p))
  | 0x34 => sub (ftyOf r.ty) fun t =>
      req (vZero r false false true true false false false false && decide (r.d < 4)) (.skqin w t (qr r.d) (rg r.a) (pr r.p))
  | 0x35 => vH r w .skhin
  | 0x36 => vH r w .skdin
  | 0x37 => req (vZero r false false false false false false false false && decide (w = .w1024) && decide (r.d < 4) &&
      decide (r.a < 4)) (.skmrg (qr r.d) (qr r.a))
  | 0x38 => vQ1 r w .skqry
  | 0x39 => vQ1 r w .skrnk
  | 0x3A => vQ2 r w .skest
  | 0x3B => vQ2 r w .sktop
  | 0x3C => sub (skOf r.imm) fun k =>
      req (vZero r false false false false false false false true && decide (w = .w1024) && r.a == 0 && decide (r.d < 4))
        (.skclr k (qr r.d))
  | _ => .error Cause.illegalOpcode

/-- Whether the V map lists an opcode (R324). -/
def vAssigned (op : Nat) : Bool :=
  decide (op ≤ 0x1C) || (decide (0x20 ≤ op) && decide (op ≤ 0x24)) || (decide (0x28 ≤ op) && decide (op ≤ 0x2A)) ||
  (decide (0x2C ≤ op) && decide (op ≤ 0x31)) || (decide (0x34 ≤ op) && decide (op ≤ 0x3C))

/-- The V map: an unassigned opcode is refused before an unassigned WID (R319). -/
def interpV (r : VRaw) : Except Cause Instr :=
  if vAssigned r.op then sub (widOf r.wid) (interpVw r) else .error Cause.illegalOpcode

/-- An M syllable's fields (R314). -/
structure MRaw where
  fn : Nat
  klen : Nat
  cl : Nat
  ec : Nat
  eb : Nat
  ea : Nat
  sb : Nat
  sa : Nat
  fb : Nat
  fa : Nat
  gb : Nat
  ga : Nat
  mt : Nat
  k : Nat
  op : Nat
  deriving DecidableEq, Repr

/-- A tile, ring or map number. -/
def r3 (n : Nat) : BitVec 3 := BitVec.ofNat 3 n

/-- Which fields of an M syllable an opcode leaves unused, so that they must be zero (R325, R317): K, MT, GA, GB, FA, FB, SA, SB,
the drain's EA EB EC CL, KLEN and FN. -/
def mZero (r : MRaw) (k mt ga gb f sa sb e klen fn : Bool) : Bool :=
  (k || r.k == 0) && (mt || r.mt == 0) && (ga || r.ga == 0) && (gb || r.gb == 0) && (f || r.fb == 0) && (sa || r.sa == 0) &&
  (sb || r.sb == 0) && (e || (r.ea == 0 && r.eb == 0 && r.ec == 0 && r.cl == 0)) && (klen || r.klen == 0) && (fn || r.fn == 0)

/-- The M map (R325). `const` is the constant word of a kind 0x2 bundle. -/
def interpM (r : MRaw) (const : Nat) : Except Cause Instr :=
  match r.op with
  | 0x01 => sub (fmtOf r.fa) fun fa => sub (fmtOf r.fb) fun fb =>
      req (mZero r true true true true true false false false true false && mmaOk (r3 r.ga) (r3 r.gb) fa fb (BitVec.ofNat 10 r.klen))
        (.mma (r.k == 1) (r3 r.mt) (r3 r.ga) (r3 r.gb) fa fb (BitVec.ofNat 10 r.klen))
  | 0x02 => sub (fmtOf r.fa) fun fa => sub (fmtOf r.fb) fun fb =>
      req (mZero r true true true true true true false false true false && mmaOk (r3 r.ga) (r3 r.gb) fa fb (BitVec.ofNat 10 r.klen))
        (.mmag (r.k == 1) (r3 r.mt) (r3 r.ga) (r3 r.gb) fa fb (BitVec.ofNat 10 r.klen) (rg r.sa))
  | 0x03 => req (mZero r false true false false false false false false false false && r.fa == 0) (.mzero (r3 r.mt))
  | 0x04 => sub (ftyOf r.fa) fun fa =>
      if r.fn = 0 then
        req (mZero r true true false false false true true true false false && clampOk (r.cl == 1) (pr r.ec))
          (.mdrainScratchpad (r.k == 1) (r3 r.mt) (rg r.sa) (rg r.sb) fa (pr r.ea) (pr r.eb) (r.cl == 1) (pr r.ec))
      else
        req (mZero r true true false false false true true true false true && r.fn == 1 && clampOk (r.cl == 1) (pr r.ec))
          (.mdrainGeneric (r.k == 1) (r3 r.mt) (rg r.sa) (rg r.sb) fa (pr r.ea) (pr r.eb) (r.cl == 1) (pr r.ec))
  | 0x05 =>
      if r.fn = 0 then
        req (mZero r true true false false false true true false false false && r.fa == 0)
          (.mldaccScratchpad (r.k == 1) (r3 r.mt) (rg r.sa) (rg r.sb))
      else
        req (mZero r true true false false false true true false false true && r.fn == 1 && r.fa == 0)
          (.mldaccGeneric (r.k == 1) (r3 r.mt) (rg r.sa) (rg r.sb))
  | 0x06 => req (mZero r false false true false false true true false false false && r.fa == 0)
      (.mrcfg (r3 r.ga) (rg r.sa) (rg r.sb))
  | 0x07 => req (mZero r false false true false false true false false false false && r.fa == 0) (.mrpush (r3 r.ga) (rg r.sa))
  | 0x08 => req (mZero r false false true false false false false false false false && r.fa == 0) (.mrpop (r3 r.ga))
  | 0x09 => req (mZero r false false false false false false false false false true && r.fa == 0 && decide (r.fn < 16))
      (.mkat (BitVec.ofNat 4 r.fn))
  | 0x0A => req (mZero r false false false false false false false false false true && r.fa == 0 && decide (r.fn < 16))
      (.mkcmp (BitVec.ofNat 4 r.fn) (BitVec.ofNat 64 const))
  | 0x0B => req (mZero r false false false false false false false false true false && r.fa == 0 && decide (r.klen < 256))
      (.mwait (BitVec.ofNat 8 r.klen))
  | _ => .error Cause.illegalOpcode

/-- A C0 syllable's fields (R315). -/
structure C0Raw where
  off : Nat
  w : Nat
  a : Nat
  d : Nat
  k : Nat
  op : Nat
  deriving DecidableEq, Repr

/-- The C0 map (R326). -/
def interpC0 (r : C0Raw) : Except Cause Instr :=
  match r.op with
  | 0x01 => .ok (.spld (r.k == 1) (qr r.w) (rg r.d) (rg r.a) (BitVec.ofNat 12 r.off))
  | 0x02 => .ok (.spst (r.k == 1) (qr r.w) (rg r.d) (rg r.a) (BitVec.ofNat 12 r.off))
  | 0x03 => req (r.w == 0 && decide (r.d < 16)) (.splds (r.k == 1) (pr r.d) (rg r.a) (BitVec.ofNat 12 r.off))
  | 0x04 => req (r.w != 0) (.spldp (r.k == 1) (qr r.w) (rg r.d) (rg r.a) (pr (r.off / 256)) (BitVec.ofNat 8 r.off))
  | 0x05 => req (r.w != 0) (.spstp (r.k == 1) (qr r.w) (rg r.d) (rg r.a) (pr (r.off / 256)) (BitVec.ofNat 8 r.off))
  | 0x06 => req (r.k == 0 && r.w == 0 && decide (r.d < 4)) (.skld (qr r.d) (rg r.a) (BitVec.ofNat 12 r.off))
  | 0x07 => req (r.k == 0 && r.w == 0 && decide (r.d < 4)) (.skst (qr r.d) (rg r.a) (BitVec.ofNat 12 r.off))
  | 0x08 => req (r.w == 0 && r.d == 0) (.spfill (r.k == 1) (rg r.a) (BitVec.ofNat 12 r.off))
  | 0x09 => req (r.k == 0 && r.w == 0 && decide (r.off < 8)) (.spmap (r3 r.off) (rg r.d) (rg r.a))
  | 0x0A =>
      if r.off / 8 = 1 then req (r.k == 0 && r.w == 0 && r.d == 0 && r.a == 0) .spsyncAll
      else req (r.k == 0 && r.w == 0 && r.d == 0 && r.a == 0 && decide (r.off < 8)) (.spsyncOne (r3 r.off))
  | 0x0B => sub (spaOf (r.off / 1024)) fun t => .ok (.spadd (r.k == 1) t (qr r.w) (rg r.d) (rg r.a) (BitVec.ofNat 10 r.off))
  | _ => .error Cause.illegalOpcode

/-- A C1 syllable's fields (R316). -/
structure C1Raw where
  off : Nat
  g : Nat
  ty : Nat
  fn : Nat
  w : Nat
  d : Nat
  c : Nat
  b : Nat
  a : Nat
  t : Nat
  k : Nat
  op : Nat
  deriving DecidableEq, Repr

/-- A signed 13-bit byte offset. -/
def o13 (n : Nat) : BitVec 13 := BitVec.ofNat 13 n

/-- Which fields of a C1 syllable an opcode leaves unused, so that they must be zero (R327, R434): K, T, B, C, D, W, FN, TY, G, OFF13. -/
def c1Zero (r : C1Raw) (k t b c d w fn ty g off : Bool) : Bool :=
  (k || r.k == 0) && (t || r.t == 0) && (b || r.b == 0) && (c || r.c == 0) && (d || r.d == 0) && (w || r.w == 0) &&
  (fn || r.fn == 0) && (ty || r.ty == 0) && (g || r.g == 0) && (off || r.off == 0)

/-- The operation an AMO's FN names; TY 6 and 7 are the natural forms of min and max (R457). -/
def amoOf (fn ty : Nat) : Option AmoOp :=
  match fn with
  | 0 => some .add
  | 1 => some (.min (decide (6 ≤ ty)))
  | 2 => some (.max (decide (6 ≤ ty)))
  | 3 => some .and
  | 4 => some .or
  | 5 => some .xor
  | 6 => some .swap
  | 7 => some .cas
  | 8 => some .fadd
  | 9 => some .fmax
  | _ => none

/-- Conditions on an AMO's C and W (R457). -/
def amoFieldsOk (op : AmoOp) (wide : Bool) (c : RegNo) : Bool :=
  (decide (op = .cas) || decide (c = 0)) && (!wide || (decide (op ≠ .fadd) && decide (op ≠ .fmax)))

/-- The C1 map (R327) with the field conditions of chapter 16. -/
def interpC1 (r : C1Raw) : Except Cause Instr :=
  match r.op with
  | 0x01 => req (c1Zero r true true false false false false false false false false) (.cpy (r.k == 1) (rg r.t) (rg r.a))
  | 0x02 => req (c1Zero r true true false false false false false false true false && decide (8 ≤ r.g))
      (.cpyr (r.k == 1) (rg r.t) (rg r.a) (r3 r.g))
  | 0x03 => req (c1Zero r true true false false false false false false false false) (.gath (r.k == 1) (rg r.t) (rg r.a))
  | 0x04 => req (c1Zero r true true false false false false false false false false) (.scat (r.k == 1) (rg r.t) (rg r.a))
  | 0x08 => req (c1Zero r true true false false true true false true false true && decide (r.ty < 2) && tokenDiffers (rg r.t) (rg r.d))
      (.rld (r.k == 1) (r.ty == 1) (qr r.w) (rg r.t) (rg r.a) (rg r.d) (o13 r.off))
  | 0x09 => req (c1Zero r true true true false false true false false false true)
      (.rst (r.k == 1) (qr r.w) (rg r.t) (rg r.a) (rg r.b) (o13 r.off))
  | 0x0A => req (c1Zero r true false false false true true false false false true)
      (.rldt (r.k == 1) (qr r.w) (rg r.a) (rg r.d) (o13 r.off))
  | 0x10 =>
      if r.fn = 10 then
        req (c1Zero r true true true true true false true false false true && tokenDiffers (rg r.t) (rg r.d))
          (.amoRsc (r.k == 1) (rg r.t) (rg r.a) (rg r.b) (rg r.c) (rg r.d) (o13 r.off))
      else sub (amoOf r.fn r.ty) fun op =>
        req (c1Zero r true true true true true true true true false true && tokenDiffers (rg r.t) (rg r.d) &&
            (r.w == 2 || r.w == 3) && r.ty == amoTy op (r.w == 3) && amoFieldsOk op (r.w == 3) (rg r.c))
          (.amo (r.k == 1) op (r.w == 3) (rg r.t) (rg r.a) (rg r.b) (rg r.c) (rg r.d) (o13 r.off))
  | 0x11 => sub (skOf r.ty) fun k => req (c1Zero r false true true false false false false true false true)
      (.skamo k (rg r.t) (rg r.a) (rg r.b) (o13 r.off))
  | 0x14 => req (c1Zero r false true true false true false false false false true && tokenDiffers (rg r.t) (rg r.d))
      (.cld (rg r.t) (rg r.a) (rg r.b) (rg r.d) (o13 r.off))
  | 0x15 => req (c1Zero r false true true true true false false false false true && tokenDiffers (rg r.t) (rg r.d))
      (.cst (rg r.t) (rg r.a) (rg r.b) (rg r.c) (rg r.d) (o13 r.off))
  | 0x16 => req (c1Zero r false true true false true false true false false true && tokenDiffers (rg r.t) (rg r.d))
      (.crcn (BitVec.ofNat 4 r.fn) (rg r.t) (rg r.a) (rg r.b) (rg r.d) (o13 r.off))
  | 0x18 => req (c1Zero r false true true false false false false false false true && decide (r.off < 256))
      (.mcast (BitVec.ofNat 8 r.off) (rg r.t) (rg r.a) (rg r.b))
  | 0x19 => req (c1Zero r false true false false false false false false false false) (.coll (rg r.t) (rg r.a))
  | 0x1C => req (c1Zero r true false false false false false false false false true) (.pfetch (r.k == 1) (rg r.a) (o13 r.off))
  | 0x1D => req (c1Zero r false false false false false false false false false false && r.a == 0) .qfence
  | _ => .error Cause.illegalOpcode

/-- Reads a syllable of a family from its word; `ext` is the S extension word, `const` the bundle's constant word. -/
def decodeSyl (f : Fam) (w ext const : Nat) : Except Cause Instr :=
  match f, unpackFields (layout f) w with
  | .s, [fn, b, a, d, e, op] => interpS ⟨fn, b, a, d, e, op, ext⟩
  | .v, [imm, k, sat, md, ty2, ty, p, c, b, a, d, wid, op] => interpV ⟨imm, k, sat, md, ty2, ty, p, c, b, a, d, wid, op⟩
  | .m, [fn, klen, cl, ec, eb, ea, sb, sa, fb, fa, gb, ga, mt, k, op] =>
    interpM ⟨fn, klen, cl, ec, eb, ea, sb, sa, fb, fa, gb, ga, mt, k, op⟩ const
  | .c0, [off, w, a, d, k, op] => interpC0 ⟨off, w, a, d, k, op⟩
  | .c1, [off, g, ty, fn, w, d, c, b, a, t, k, op] => interpC1 ⟨off, g, ty, fn, w, d, c, b, a, t, k, op⟩
  | _, _ => .error Cause.illegalOpcode

/-! ## Bundles -/

/-- The fields of a header (R306). -/
def hdrKind (h : Nat) : Nat := fld h 28 4
/-- PRES, with S in bit 5 and C1 in bit 0. -/
def hdrPres (h : Nat) : Nat := fld h 22 6
/-- TMASK, with S in bit 5 and C1 in bit 0. -/
def hdrTmask (h : Nat) : Nat := fld h 16 6
/-- REP. -/
def hdrRep (h : Nat) : Nat := fld h 11 5
/-- STOP. -/
def hdrStop (h : Nat) : Bool := bit h 10

/-- The checks of R307 that need only the header word (R319 step 2). -/
def headerOk (h : Nat) : Bool :=
  match hdrKind h with
  | 1 => hdrPres h == 0 && hdrTmask h == 0 && fld h 0 10 == 0
  | 3 => true
  | k => (k == 0 || k == 2) && hdrPres h != 0 && hdrTmask h % 8 == 0 && (hdrTmask h &&& hdrPres h) == hdrTmask h && fld h 0 10 == 0 &&
      (k == 0 || bit (hdrPres h) 2)

/-- Bytes of a bundle whose S syllable, where present, is the word `sw` (R305). Kinds 0 and 3 carry no constant word. -/
def bundleLen (h sw : Nat) : Nat :=
  let p := hdrPres h
  4 + (if bit p 5 then 4 + 4 * b2n (bit sw 24) else 0) + 8 * (b2n (bit p 4) + b2n (bit p 3) + b2n (bit p 2) + b2n (bit p 0)) +
    4 * b2n (bit p 1) + (if hdrKind h = 2 then 8 else 0)

/-- The S opcodes that a repeat field may not accompany: BR, BRC, CALL, RET, JR, LOOP, LEXIT, YIELD, HALT, TRAP, ERET (R194). -/
def noRepeatOp (op : Nat) : Bool :=
  (decide (0x30 ≤ op) && decide (op ≤ 0x36)) || op == 0x3E || op == 0x3F || op == 0x4B || op == 0x4C

/-- The checks of R319 step 4: the length, and REP against the S opcode. -/
def lengthOk (h sw : Nat) : Bool :=
  decide (bundleLen h sw ≤ 44) && !(bit (hdrPres h) 5 && hdrRep h != 0 && noRepeatOp (fld sw 25 7))

/-- The S opcodes that may not be triple-issued (R323): JOIN to HALT, the waits and fences, TRAP, ERET and the round
instructions. -/
def noTripleOp (op : Nat) : Bool :=
  (decide (0x38 ≤ op) && decide (op ≤ 0x3F)) || (decide (0x40 ≤ op) && decide (op ≤ 0x42)) || op == 0x4B || op == 0x4C ||
  (decide (0x50 ≤ op) && decide (op ≤ 0x55))

/-- One operation of a bundle: its slot (0 S, 1 V0, 2 V1, 3 M, 4 C0, 5 C1), the operation, its syllable's word, and whether it is
issued on three copies (R200). -/
structure SlotOp where
  slot : Nat
  op : Instr
  word : Nat
  triple : Bool
  deriving DecidableEq, Repr

/-- A decoded bundle. -/
structure Bundle where
  header : Nat
  kind : Nat
  rep : Nat
  stop : Bool
  len : Nat
  ops : List SlotOp
  deriving DecidableEq, Repr

/-- Why a bundle is refused: the cause and what EDATA receives (R319, R493). -/
structure Reject where
  cause : Cause
  edata : Nat
  deriving DecidableEq, Repr

/-- The family of a slot. -/
def slotFam : Nat → Fam
  | 0 => .s | 1 => .v | 2 => .v | 3 => .m | 4 => .c0 | _ => .c1

/-- Decodes the syllables of the slots still to come, each with its checks in the order of R319 step 6. `pos` is the offset of
the next syllable. -/
def decodeSlots (h : Nat) (bytes : List Byte) (const : Nat) : List Nat → Nat → Except Reject (List SlotOp)
  | [], _ => .ok []
  | sl :: rest, pos =>
    if bit (hdrPres h) (5 - sl) then
      let f := slotFam sl
      let w := leNat ((bytes.drop pos).take (sylBytes f))
      let e := decide (sl = 0) && bit w 24
      let ext := if e then leNat ((bytes.drop (pos + 4)).take 4) else 0
      let t := bit (hdrTmask h) (5 - sl)
      if sl = 3 && decide ((fld w 59 5 = 0x0A) ≠ (hdrKind h = 2)) && decide (1 ≤ fld w 59 5) && decide (fld w 59 5 ≤ 0x0B) then
        .error ⟨Cause.illegalHeader, h⟩
      else match decodeSyl f w ext const with
        | .error c => .error ⟨c, w⟩
        | .ok i =>
          if decide (sl = 0) && t && noTripleOp (fld w 25 7) then .error ⟨Cause.illegalHeader, h⟩
          else match decodeSlots h bytes const rest (pos + sylBytes f + 4 * b2n e) with
            | .error r => .error r
            | .ok l => .ok (⟨sl, i, w, t⟩ :: l)
    else decodeSlots h bytes const rest pos

/-- Decodes the syllables of a bundle whose header and length have been checked (R319 step 6). -/
def decodeBody (h : Nat) (bytes : List Byte) : Except Reject Bundle :=
  let sw := leNat ((bytes.drop 4).take 4)
  let len := bundleLen h sw
  let const := if hdrKind h = 2 then leNat ((bytes.drop (len - 8)).take 8) else 0
  match decodeSlots h bytes const [0, 1, 2, 3, 4, 5] 4 with
  | .error r => .error r
  | .ok ops => .ok ⟨h, hdrKind h, hdrRep h, hdrStop h, len, ops⟩

/-- Decodes a bundle from its bytes: the checks of steps 2, 4 and 6 of R319 in order. A pure repeat bundle and a break bundle
stand as one operation each (R308, R310). -/
def decodeBundle (bytes : List Byte) : Except Reject Bundle :=
  let h := leNat (bytes.take 4)
  if !headerOk h then .error ⟨Cause.illegalHeader, h⟩
  else if hdrKind h = 1 then
    .ok ⟨h, 1, hdrRep h, hdrStop h, 4, [⟨0, .pureRepeat (BitVec.ofNat 5 (hdrRep h)) (hdrStop h), h, false⟩]⟩
  else
    let sw := leNat ((bytes.drop 4).take 4)
    if hdrKind h = 3 then .ok ⟨h, 3, hdrRep h, hdrStop h, bundleLen h sw, [⟨0, .brk (BitVec.ofNat 28 h), h, false⟩]⟩
    else if !lengthOk h sw then .error ⟨Cause.illegalHeader, h⟩
    else decodeBody h bytes

/-! ## The encoder -/

/-- The low `n` bits of an immediate. -/
def immLow {n : Nat} (i : ExtImm n) : Nat := immNatural i % 2 ^ n

/-- The extension word of an immediate. -/
def immExt {n : Nat} (i : ExtImm n) : Option Nat :=
  match i with
  | .short _ => none
  | .long v => some (v.toNat / 2 ^ n)

/-- An S syllable in format S.R. -/
def eR (op : Nat) (d a b : RegNo) (fn : Nat) : Option Syl := some ⟨.s, [fn, b.toNat, a.toNat, d.toNat, 0, op], none, none⟩

/-- An S syllable in format S.I. -/
def eI (op : Nat) (d a : RegNo) (i : ExtImm 12) : Option Syl :=
  some ⟨.s, [immLow i % 64, immLow i / 64, a.toNat, d.toNat, b2n (immLong i), op], immExt i, none⟩

/-- An S syllable in format S.M. -/
def eM (op : Nat) (d a : RegNo) (sx : Bool) (w : BitVec 2) (i : ExtImm 9) : Option Syl :=
  some ⟨.s, [immLow i % 64, immLow i / 64 + 8 * w.toNat + 32 * b2n sx, a.toNat, d.toNat, b2n (immLong i), op], immExt i, none⟩

/-- An S syllable in format S.B. -/
def eB (op : Nat) (a : RegNo) (z : Nat) (i : ExtImm 17) : Option Syl :=
  some ⟨.s, [immLow i % 64, immLow i / 64 % 64, immLow i / 4096 + 32 * z, a.toNat, b2n (immLong i), op], immExt i, none⟩

/-- An S syllable in format S.C. -/
def eC (op : Nat) (d a : RegNo) (csr : BitVec 12) : Option Syl :=
  some ⟨.s, [csr.toNat % 64, csr.toNat / 64, a.toNat, d.toNat, 0, op], none, none⟩

/-- A V syllable. -/
def eV (op : Nat) (w : Wid) (d a b c : Nat) (p : BitVec 4) (ty ty2 md sat imm : Nat) : Option Syl :=
  some ⟨.v, [imm, 0, sat, md, ty2, ty, p.toNat, c, b, a, d, widCode w, op], none, none⟩

/-- A float lane operation. -/
def eF (op : Nat) (w : Wid) (t : FTy) (d a b c : RegNo) (p : BitVec 4) : Option Syl :=
  eV op w d.toNat a.toNat b.toNat c.toNat p (ftyCode t) 0 0 0 0

/-- An integer lane operation. -/
def eN (op : Nat) (w : Wid) (t : ITy) (sat : Bool) (d a b c : RegNo) (p : BitVec 4) : Option Syl :=
  eV op w d.toNat a.toNat b.toNat c.toNat p (ityCode t) 0 0 (b2n sat) 0

/-- The TY code of a lane type and IMM16[3]. -/
def laneCode : LaneTy → Nat × Nat
  | .flt t => (ftyCode t, 0)
  | .int t => (ityCode t, 8)

/-- The TY, TY2 and IMM16 codes of a conversion. -/
def cvtCode : Cvt → Nat × Nat × Nat
  | .floatFloat r s => (fmtCode r, fmtCode s, 0)
  | .floatInt r s => (ityCode r, fmtCode s, 1)
  | .intFloat r s => (fmtCode r, ityCode s, 2)

/-- An M syllable without a constant word. -/
def eMx (op : Nat) (k : Bool) (mt ga gb : BitVec 3) (fa fb : Nat) (sa sb : RegNo) (ea eb ec : BitVec 4) (cl : Bool) (klen fn : Nat) :
    Option Syl :=
  some ⟨.m, [fn, klen, b2n cl, ec.toNat, eb.toNat, ea.toNat, sb.toNat, sa.toNat, fb, fa, gb.toNat, ga.toNat, mt.toNat, b2n k, op],
    none, none⟩

/-- A C0 syllable. -/
def eC0 (op : Nat) (k : Bool) (d a : Nat) (w : Nat) (off : Nat) : Option Syl := some ⟨.c0, [off, w, a, d, b2n k, op], none, none⟩

/-- A C1 syllable. -/
def eC1 (op : Nat) (k : Bool) (t a b c d : RegNo) (w fn ty g off : Nat) : Option Syl :=
  some ⟨.c1, [off, g, ty, fn, w, d.toNat, c.toNat, b.toNat, a.toNat, t.toNat, b2n k, op], none, none⟩

/-- The syllable of an operation; events, and the whole-bundle forms, have none. -/
def syllable : Instr → Option Syl
  | .nop => eR 0x00 0 0 0 0
  | .add d a b => eR 0x01 d a b 0
  | .addi d a i => eI 0x02 d a i
  | .sub d a b => eR 0x03 d a b 0
  | .mul d a b => eR 0x04 d a b 0
  | .mulh n d a b => eR 0x05 d a b (b2n n)
  | .div n d a b => eR 0x06 d a b (b2n n)
  | .rem n d a b => eR 0x07 d a b (b2n n)
  | .and d a b => eR 0x08 d a b 0
  | .or d a b => eR 0x09 d a b 0
  | .xor d a b => eR 0x0A d a b 0
  | .andn d a b => eR 0x0B d a b 0
  | .shlReg d a b => eR 0x0C d a b 0
  | .shlImm d a n => eR 0x0C d a n 32
  | .shrReg d a b => eR 0x0D d a b 0
  | .shrImm d a n => eR 0x0D d a n 32
  | .shaReg d a b => eR 0x0E d a b 0
  | .shaImm d a n => eR 0x0E d a n 32
  | .rotlReg d a b => eR 0x0F d a b 0
  | .rotlImm d a n => eR 0x0F d a n 32
  | .clz d a => eR 0x10 d a 0 0
  | .ctz d a => eR 0x11 d a 0 0
  | .popc d a => eR 0x12 d a 0 0
  | .min n d a b => eR 0x13 d a b (b2n n)
  | .max n d a b => eR 0x14 d a b (b2n n)
  | .cmp c d a b => eR 0x15 d a b (condCode c)
  | .sel d a b c => eR 0x16 d a b c.toNat
  | .li d i => eI 0x17 d 0 i
  | .mov d a => eR 0x18 d a 0 0
  | .sext w d a => eR 0x19 d a 0 (extCode w)
  | .zext w d a => eR 0x1A d a 0 (extCode w)
  | .bfx d a p l => eR 0x1B d a p l.toNat
  | .bfi d a p l => eR 0x1C d a p l.toNat
  | .lea d a b n => eR 0x20 d a b n.toNat
  | .cvta d a b n => eR 0x21 d a b n.toNat
  | .isap d a ap => eR 0x22 d a 0 ap.toNat
  | .ld sx w d a o => eM 0x28 d a sx w o
  | .st w d a o => eM 0x29 d a false w o
  | .br o => eB 0x30 0 0 o
  | .brcEq a o => eB 0x31 a 1 o
  | .brcNe a o => eB 0x31 a 0 o
  | .call a o => eB 0x32 a 0 o
  | .ret a => eR 0x33 0 a 0 0
  | .jr a => eR 0x34 0 a 0 0
  | .loopImm len i => some ⟨.s, [immLow i % 64, immLow i / 64, len.toNat, 0, b2n (immLong i), 0x35], immExt i, none⟩
  | .loopReg len a => some ⟨.s, [0, 0, len.toNat, a.toNat, 0, 0x35], none, none⟩
  | .lexit => eR 0x36 0 0 0 0
  | .join d a => eR 0x38 d a 0 0
  | .leave a => eR 0x39 0 a 0 0
  | .cbar a => eR 0x3A 0 a 0 0
  | .carr d a => eR 0x3B d a 0 0
  | .cwait a b => eR 0x3C 0 a b 0
  | .trig => eR 0x3D 0 0 0 0
  | .yield => eR 0x3E 0 0 0 0
  | .halt => eR 0x3F 0 0 0 0
  | .waitf c wide a b => eR 0x40 0 a b (condCode c + 8 * (2 + b2n wide))
  | .waitt a => eR 0x41 0 a 0 0
  | .fence k sc => eR 0x42 0 0 0 (fenceCode k + 8 * scopeCode sc)
  | .csrr d csr => eC 0x48 d 0 csr
  | .csrw csr a => eC 0x49 0 a csr
  | .csrx d csr a => eC 0x4A d a csr
  | .trap n => eC 0x4B 0 0 n
  | .eret => eR 0x4C 0 0 0 0
  | .ovtld a b => eR 0x4D 0 a b 0
  | .ovtldRst => eR 0x4D 0 0 0 1
  | .ropen d a b => eR 0x50 d a b 0
  | .rprep d a => eR 0x51 d a 0 0
  | .rcmt d a => eR 0x52 d a 0 0
  | .rstat d a b => eR 0x53 d a b 0
  | .rrevoke d a b => eR 0x54 d a b 0
  | .protr d a b k => eR 0x55 d a b k.toNat
  | .vadd w t d a b p => eF 0x00 w t d a b 0 p
  | .vsub w t d a b p => eF 0x01 w t d a b 0 p
  | .vmul w t d a b p => eF 0x02 w t d a b 0 p
  | .vfma w t d a b c p => eF 0x03 w t d a b c p
  | .vfms w t d a b c p => eF 0x04 w t d a b c p
  | .vmin w t d a b p => eF 0x05 w t d a b 0 p
  | .vmax w t d a b p => eF 0x06 w t d a b 0 p
  | .vabs w t d a p => eF 0x07 w t d a 0 0 p
  | .vneg w t d a p => eF 0x08 w t d a 0 0 p
  | .vrnd w t md d a p => eV 0x09 w d.toNat a.toNat 0 0 p (ftyCode t) 0 (rmodeCode md) 0 0
  | .vcmp w t c d a b p => eV 0x0A w d.toNat a.toNat b.toNat 0 p (laneCode t).1 0 0 0 ((laneCode t).2 + vcondCode c)
  | .vsel w t d a b p => eN 0x0B w t false d a b 0 p
  | .pand d a b => eV 0x0C .w1024 d.toNat a.toNat b.toNat 0 0 0 0 0 0 0
  | .por d a b => eV 0x0D .w1024 d.toNat a.toNat b.toNat 0 0 0 0 0 0 0
  | .pxor d a b => eV 0x0E .w1024 d.toNat a.toNat b.toNat 0 0 0 0 0 0 0
  | .pnot d a => eV 0x0F .w1024 d.toNat a.toNat 0 0 0 0 0 0 0 0
  | .viadd w t s d a b p => eN 0x10 w t s d a b 0 p
  | .visub w t s d a b p => eN 0x11 w t s d a b 0 p
  | .vimul w t s d a b p => eN 0x12 w t s d a b 0 p
  | .vimad w t s d a b c p => eN 0x13 w t s d a b c p
  | .vshl w t d a b p => eN 0x14 w t false d a b 0 p
  | .vshr w t d a b p => eN 0x15 w t false d a b 0 p
  | .vsha w t d a b p => eN 0x16 w t false d a b 0 p
  | .vand w t d a b p => eN 0x17 w t false d a b 0 p
  | .vor w t d a b p => eN 0x18 w t false d a b 0 p
  | .vxor w t d a b p => eN 0x19 w t false d a b 0 p
  | .vimin w t d a b p => eN 0x1A w t false d a b 0 p
  | .vimax w t d a b p => eN 0x1B w t false d a b 0 p
  | .pcnt d a => eV 0x1C .w1024 d.toNat a.toNat 0 0 0 0 0 0 0 0
  | .vexp2 w t d a p => eF 0x20 w t d a 0 0 p
  | .vlog2 w t d a p => eF 0x21 w t d a 0 0 p
  | .vrcp w t d a p => eF 0x22 w t d a 0 0 p
  | .vrsq w t d a p => eF 0x23 w t d a 0 0 p
  | .vtanh w t d a p => eF 0x24 w t d a 0 0 p
  | .vcvt w k md sat d a p =>
    eV 0x28 w d.toNat a.toNat 0 0 p (cvtCode k).1 (cvtCode k).2.1 (rmodeCode md) (b2n sat) (cvtCode k).2.2
  | .vpacksx w r s md sat d a p => eV 0x29 w d.toNat a.toNat 0 0 p (fmtCode r) (fmtCode s) (rmodeCode md) (b2n sat) 0
  | .vunpk w r s d a => eV 0x2A w d.toNat a.toNat 0 0 0 (fmtCode r) (fmtCode s) 0 0 0
  | .vperm w t d a b => eN 0x2C w t false d a b 0 0
  | .vbcast w t d a p => eN 0x2D w t false d a 0 0 p
  | .vmovsExtract w t d a lane => eV 0x2E w d.toNat a.toNat 0 0 0 (ityCode t) 0 0 0 lane.toNat
  | .vmovsInsert w t d a lane => eV 0x2E w d.toNat a.toNat 0 0 0 (ityCode t) 0 0 0 (32768 + lane.toNat)
  | .vmovv w d a p => eV 0x2F w d.toNat a.toNat 0 0 p 0 0 0 0 0
  | .viota w t d a p => eN 0x30 w t false d a 0 0 p
  | .vreds w t op d a p => eV 0x31 w d.toNat a.toNat 0 0 p (laneCode t).1 0 0 0 ((laneCode t).2 + redCode op)
  | .skqin w t d a p => eV 0x34 w d.toNat a.toNat 0 0 p (ftyCode t) 0 0 0 0
  | .skhin w wide d a p => eV 0x35 w d.toNat a.toNat 0 0 p (6 + b2n wide) 0 0 0 0
  | .skdin w wide d a p => eV 0x36 w d.toNat a.toNat 0 0 p (6 + b2n wide) 0 0 0 0
  | .skmrg d a => eV 0x37 .w1024 d.toNat a.toNat 0 0 0 0 0 0 0 0
  | .skqry d a b => eV 0x38 .w1024 d.toNat a.toNat b.toNat 0 0 0 0 0 0 0
  | .skrnk d a b => eV 0x39 .w1024 d.toNat a.toNat b.toNat 0 0 0 0 0 0 0
  | .skest d c a b => eV 0x3A .w1024 d.toNat a.toNat b.toNat c.toNat 0 0 0 0 0 0
  | .sktop d c a b => eV 0x3B .w1024 d.toNat a.toNat b.toNat c.toNat 0 0 0 0 0 0
  | .skclr k d => eV 0x3C .w1024 d.toNat 0 0 0 0 0 0 0 0 (skCode k)
  | .mma k mt ga gb fa fb klen => eMx 0x01 k mt ga gb (fmtCode fa) (fmtCode fb) 0 0 0 0 0 false klen.toNat 0
  | .mmag k mt ga gb fa fb klen sa => eMx 0x02 k mt ga gb (fmtCode fa) (fmtCode fb) sa 0 0 0 0 false klen.toNat 0
  | .mzero mt => eMx 0x03 false mt 0 0 0 0 0 0 0 0 0 false 0 0
  | .mdrainScratchpad k mt sa sb fa ea eb cl ec => eMx 0x04 k mt 0 0 (ftyCode fa) 0 sa sb ea eb ec cl 0 0
  | .mdrainGeneric k mt sa sb fa ea eb cl ec => eMx 0x04 k mt 0 0 (ftyCode fa) 0 sa sb ea eb ec cl 0 1
  | .mldaccScratchpad k mt sa sb => eMx 0x05 k mt 0 0 0 0 sa sb 0 0 0 false 0 0
  | .mldaccGeneric k mt sa sb => eMx 0x05 k mt 0 0 0 0 sa sb 0 0 0 false 0 1
  | .mrcfg ga sa sb => eMx 0x06 false 0 ga 0 0 0 sa sb 0 0 0 false 0 0
  | .mrpush ga sa => eMx 0x07 false 0 ga 0 0 0 sa 0 0 0 0 false 0 0
  | .mrpop ga => eMx 0x08 false 0 ga 0 0 0 0 0 0 0 0 false 0 0
  | .mkat n => eMx 0x09 false 0 0 0 0 0 0 0 0 0 0 false 0 n.toNat
  | .mkcmp n const => (eMx 0x0A false 0 0 0 0 0 0 0 0 0 0 false 0 n.toNat).map fun y => { y with const := some const.toNat }
  | .mwait mask => eMx 0x0B false 0 0 0 0 0 0 0 0 0 0 false mask.toNat 0
  | .spld k w d a off => eC0 0x01 k d.toNat a.toNat w.toNat off.toNat
  | .spst k w d a off => eC0 0x02 k d.toNat a.toNat w.toNat off.toNat
  | .splds k d a off => eC0 0x03 k d.toNat a.toNat 0 off.toNat
  | .spldp k w d a p off => eC0 0x04 k d.toNat a.toNat w.toNat (off.toNat + 256 * p.toNat)
  | .spstp k w d a p off => eC0 0x05 k d.toNat a.toNat w.toNat (off.toNat + 256 * p.toNat)
  | .skld d a off => eC0 0x06 false d.toNat a.toNat 0 off.toNat
  | .skst d a off => eC0 0x07 false d.toNat a.toNat 0 off.toNat
  | .spfill k a off => eC0 0x08 k 0 a.toNat 0 off.toNat
  | .spmap n d a => eC0 0x09 false d.toNat a.toNat 0 n.toNat
  | .spsyncAll => eC0 0x0A false 0 0 0 8
  | .spsyncOne n => eC0 0x0A false 0 0 0 n.toNat
  | .spadd k t w d a off => eC0 0x0B k d.toNat a.toNat w.toNat (off.toNat + 1024 * spaCode t)
  | .cpy k t a => eC1 0x01 k t a 0 0 0 0 0 0 0 0
  | .cpyr k t a g => eC1 0x02 k t a 0 0 0 0 0 0 (8 + g.toNat) 0
  | .gath k t a => eC1 0x03 k t a 0 0 0 0 0 0 0 0
  | .scat k t a => eC1 0x04 k t a 0 0 0 0 0 0 0 0
  | .rld k sx w t a d off => eC1 0x08 k t a 0 0 d w.toNat 0 (b2n sx) 0 off.toNat
  | .rst k w t a b off => eC1 0x09 k t a b 0 0 w.toNat 0 0 0 off.toNat
  | .rldt k w a d off => eC1 0x0A k 0 a 0 0 d w.toNat 0 0 0 off.toNat
  | .amo k op wide t a b c d off => eC1 0x10 k t a b c d (2 + b2n wide) (amoCode op) (amoTy op wide) 0 off.toNat
  | .amoRsc k t a b c d off => eC1 0x10 k t a b c d 0 10 0 0 off.toNat
  | .skamo k t a b off => eC1 0x11 false t a b 0 0 0 0 (skCode k) 0 off.toNat
  | .cld t a b d off => eC1 0x14 false t a b 0 d 0 0 0 0 off.toNat
  | .cst t a b c d off => eC1 0x15 false t a b c d 0 0 0 0 off.toNat
  | .crcn op t a b d off => eC1 0x16 false t a b 0 d 0 op.toNat 0 0 off.toNat
  | .mcast idx t a b => eC1 0x18 false t a b 0 0 0 0 0 0 idx.toNat
  | .coll t a => eC1 0x19 false t a 0 0 0 0 0 0 0 0
  | .pfetch k a off => eC1 0x1C k 0 a 0 0 0 0 0 0 0 off.toNat
  | .qfence => eC1 0x1D false 0 0 0 0 0 0 0 0 0 0
  | _ => none

/-- The PRES bit of a family, V standing in V0. -/
def famBit : Fam → Nat
  | .s => 5 | .v => 4 | .m => 2 | .c0 => 1 | .c1 => 0

/-- The bytes of a bundle that holds one syllable: a header of kind 0, or of kind 2 for MKCMP, with REP, STOP and TMASK zero. -/
def sylBundle (y : Syl) : List Byte :=
  leBytes ((if y.const = none then 0 else 2) * 2 ^ 28 + 2 ^ (22 + famBit y.fam)) 4 ++ leBytes y.word (sylBytes y.fam) ++
    (match y.ext with | some e => leBytes e 4 | none => []) ++ (match y.const with | some c => leBytes c 8 | none => [])

/-- The words of a well-formed instruction, as the bytes of the bundle that holds it alone. Events have no encoding. -/
def encode (i : Instr) : List Byte :=
  match i with
  | .pureRepeat rep stop => leBytes (2 ^ 28 + rep.toNat * 2 ^ 11 + b2n stop * 2 ^ 10) 4
  | .brk low => leBytes (3 * 2 ^ 28 + low.toNat) 4
  | i => match syllable i with
    | some y => sylBundle y
    | none => []

/-- The word of an operation's syllable, as EDATA receives it (R493). -/
def sylWord (i : Instr) : Nat :=
  match syllable i with
  | some y => y.word
  | none => 0

/-- The one operation a bundle holds. -/
def soleOp : Except Reject Bundle → Option Instr
  | .ok b => match b.ops with
    | [o] => some o.op
    | _ => none
  | .error _ => none

/-- The bytes of an instruction whose first `nbits` bits are `w` and whose later bits are zero, up to the longest bundle. -/
def tableBytes (nbits w : Nat) : List Byte := leBytes (w % 2 ^ nbits) 44

/-- The instruction the decoder reads from a bundle whose bits are `w`. -/
def decodeTableWord (nbits w : Nat) : Option Instr := soleOp (decodeBundle (tableBytes nbits w))

end Sys2Proof
end

