-- ==== Sys2Proof/Machine/Access.lean ====
section
/-!
DEFINITION. The one home of every piece of state: readers and writers of contexts, cores, crews, queues, groups and registers.
The hard-wired registers s0 and p0 (R144, R178, R317) are handled here alone.
-/

namespace Sys2Proof.Machine

/-! ## Parts of the module -/

/-- The thread in context `c`. -/
def Module.ctx (m : Module) (c : Nat) : Thread := Tab.get Thread.idle m.cx.ctxs c

/-- Puts a thread in context `c`. -/
def Module.setCtx (m : Module) (c : Nat) (t : Thread) : Module :=
  { m with cx := { m.cx with ctxs := Tab.set Thread.idle m.cx.ctxs c t } }

/-- Changes the thread in context `c`. -/
def Module.modCtx (m : Module) (c : Nat) (f : Thread → Thread) : Module := m.setCtx c (f (m.ctx c))

/-- The thread in focus. -/
def Module.th (m : Module) : Thread := m.ctx m.focus

/-- Changes the thread in focus. -/
def Module.modTh (m : Module) (f : Thread → Thread) : Module := m.modCtx m.focus f

/-- The core of a context (R199); of a saved context, the core it was on. -/
def coreOf (c : Nat) : Nat := c % 2048 / 2

/-- The bank of a context. -/
def bankOf (c : Nat) : Bool := c % 2 == 1

/-- The compute die of a core: 256 cores a die (R1). -/
def dieOfCore (k : Nat) : Nat := k / 256

/-- The cluster of a core: eight cores a cluster (R1). -/
def clusterOf (k : Nat) : Nat := k / 8

/-- Core `k`. -/
def Module.core (m : Module) (k : Nat) : Core := Tab.get Core.idle m.cx.cores k

/-- Changes core `k`. -/
def Module.modCore (m : Module) (k : Nat) (f : Core → Core) : Module :=
  { m with cx := { m.cx with cores := Tab.modify Core.idle m.cx.cores k f } }

/-- The context that is the primary of core `k` (R158). -/
def Module.primary (m : Module) (k : Nat) : Nat := 2 * k + b2n (m.core k).primary

/-- The context whose thread holds the core's scratchpad and issues (R199). -/
def Module.active (m : Module) (k : Nat) : Nat := 2 * k + b2n (m.core k).active

/-- Crew `h`. -/
def Module.crew (m : Module) (h : Nat) : Crew := Tab.get Crew.free m.cx.crews h

/-- Puts a crew. -/
def Module.setCrew (m : Module) (h : Nat) (c : Crew) : Module :=
  { m with cx := { m.cx with crews := Tab.set Crew.free m.cx.crews h c } }

/-- Gang `g`. -/
def Module.gang (m : Module) (g : Nat) : Gang := Tab.get Gang.none m.cx.gangs g

/-- Puts a gang. -/
def Module.setGang (m : Module) (g : Nat) (x : Gang) : Module :=
  { m with cx := { m.cx with gangs := Tab.set Gang.none m.cx.gangs g x } }

/-- Queue `q`. -/
def Module.queue (m : Module) (q : Nat) : Queue := Tab.get (Queue.resetOf q) m.fe.queues q

/-- Changes queue `q`. -/
def Module.modQueue (m : Module) (q : Nat) (f : Queue → Queue) : Module :=
  { m with fe := { m.fe with queues := Tab.modify (Queue.resetOf q) m.fe.queues q f } }

/-- Group slot `g`. -/
def Module.group (m : Module) (g : Nat) : Group := Tab.get Group.reset m.groups g

/-- Changes group slot `g`. -/
def Module.modGroup (m : Module) (g : Nat) (f : Group → Group) : Module :=
  { m with groups := Tab.modify Group.reset m.groups g f }

/-- Station `n`. -/
def Module.station (m : Module) (n : Nat) : Station := Tab.get Station.reset m.fb.stations n

/-- Changes station `n`. -/
def Module.modStation (m : Module) (n : Nat) (f : Station → Station) : Module :=
  { m with fb := { m.fb with stations := Tab.modify Station.reset m.fb.stations n f } }

/-- The module's DEVID (R31): bits [9:0] of the register. -/
def Module.devid (m : Module) : Nat := fld m.fb.devid.toNat 0 10

/-- The stretching of a die's ACLK, in tenths of a percent of the cycle rate (R18, R19). -/
def Module.slowOf (m : Module) (die : Nat) : Nat := Nat.min 1000 (Nat.max m.silo.stretch (Tab.get 0 m.silo.dieSlow die))

/-- The frozen cycles that stretching inserts evenly into `n` cycles, added to those of before, in thousandths (R16, R18). -/
def Module.debtAfter (m : Module) (n : Nat) : Tab Nat :=
  if m.silo.stretch = 0 ∧ m.silo.dieSlow = [] then m.clk.debt
  else (range' 0 4).foldl (fun t d => Tab.modify 0 t d (· + n * m.slowOf d)) m.clk.debt

/-- Passes `n` cycles of the ungated ACLK (R15; log entry 2). -/
def Module.pass (m : Module) (n : Nat) : Module := { m with clk := { m.clk with cycle := m.clk.cycle + n, debt := m.debtAfter n } }

/-- Cycles that the cores of a die have had, those of stretching left out (R16). -/
def Module.dieClock (m : Module) (die : Nat) : Nat := m.clk.cycle - Tab.get 0 m.clk.debt die / 1000

/-- Cycles that a core has had, frozen ones left out (R16). -/
def Module.coreClock (m : Module) (k : Nat) : Nat :=
  (if (m.core k).frozen then (m.core k).frozenAt else m.dieClock (dieOfCore k)) - (m.core k).lost

/-- Freezes a core's ACLK (R16). -/
def Module.freeze (m : Module) (k : Nat) : Module :=
  m.modCore k fun c => if c.frozen then c else { c with frozen := true, frozenAt := m.dieClock (dieOfCore k) }

/-- A core's ACLK goes on (R16). -/
def Module.thaw (m : Module) (k : Nat) : Module :=
  m.modCore k fun c => if c.frozen then { c with frozen := false, frozenAt := 0, lost := c.lost + (m.dieClock (dieOfCore k) - c.frozenAt) } else c

/-- Whether the core of a context is frozen: a freeze holds the whole core (R16). -/
def Module.clockHeld (m : Module) (cx : Nat) : Bool := decide (cx < 2048) && (m.core (coreOf cx)).frozen

/-- Reference-clock ticks since the last cold reset: 100 MHz against 850 MHz (R15, R124). -/
def Module.ticks (m : Module) : Nat := m.clk.cycle * 2 / 17

/-- Whether a power fault or a thermal stop holds the module or a part of it (R18, R19). -/
def Module.halted (m : Module) : Bool := m.silo.powerFault || m.silo.dieStop.any fun e => e.2

/-- Whether the threads of a die are stopped in place (R157). -/
def Module.dieHalted (m : Module) (die : Nat) : Bool := m.silo.powerFault || Tab.get false m.silo.dieStop die

/-- Takes the next free byte (log entry 4). -/
def Module.freeBytes (m : Module) (n : Nat) : List Byte × Module :=
  ((range' m.clk.free n).map Config.freeByte, { m with clk := { m.clk with free := m.clk.free + n } })

/-- Changes every context that is listed. -/
def Module.mapCtxs (m : Module) (f : Nat → Thread → Thread) : Module := (m.cx.ctxs.map Prod.fst).foldl (fun m c => m.modCtx c (f c)) m

/-- Changes what every access of a thread waits for. -/
def Thread.pfMap (t : Thread) (f : PfWait → PfWait) : Thread :=
  { t with
    u := { t.u with pf := f t.u.pf }
    x := { t.x with sq := t.x.sq.map fun e => { e with pf := f e.pf }
                    c1q := t.x.c1q.map fun e => { e with pf := f e.pf }
                    mq := t.x.mq.map fun e => { e with pf := f e.pf } } }

/-- Changes what every memory command waits for. -/
def Module.memMap (m : Module) (f : PfWait → PfWait) : Module :=
  (m.fe.queues.map Prod.fst).foldl (fun m q => m.modQueue q fun x => { x with mems := x.mems.map fun c => { c with pf := f c.pf } }) m

/-! ## Parts of a thread -/

/-- Changes the register files. -/
def Thread.modR (t : Thread) (f : Regs → Regs) : Thread := { t with r := f t.r }
/-- Changes the sequencer. -/
def Thread.modU (t : Thread) (f : Sequencer → Sequencer) : Thread := { t with u := f t.u }
/-- Changes the queues. -/
def Thread.modX (t : Thread) (f : Queues → Queues) : Thread := { t with x := f t.x }
/-- Changes the region maps. -/
def Thread.modB (t : Thread) (f : RegionMaps → RegionMaps) : Thread := { t with b := f t.b }
/-- Changes the control registers. -/
def Thread.modC (t : Thread) (f : Csrs → Csrs) : Thread := { t with csr := f t.csr }

/-- Scalar register `n`; s0 reads zero (R144). -/
def Thread.rdS (t : Thread) (n : Nat) : Word64 := if n = 0 then 0 else Tab.get 0 t.r.s n
/-- Writes a scalar register; a write to s0 is discarded (R317). -/
def Thread.wrS (t : Thread) (n : Nat) (v : Word64) : Thread := if n = 0 then t else t.modR fun r => { r with s := Tab.set 0 r.s n v }
/-- Vector register `n`. -/
def Thread.rdV (t : Thread) (n : Nat) : VWord := Tab.get 0 t.r.v n
/-- Writes a vector register. -/
def Thread.wrV (t : Thread) (n : Nat) (v : VWord) : Thread := t.modR fun r => { r with v := Tab.set 0 r.v n v }
/-- Predicate register `n`; p0 reads all ones (R382). -/
def Thread.rdP (t : Thread) (n : Nat) : PWord := if n = 0 then BitVec.allOnes 128 else Tab.get 0 t.r.p n
/-- Writes a predicate register; p0 is a constant. -/
def Thread.wrP (t : Thread) (n : Nat) (v : PWord) : Thread := if n = 0 then t else t.modR fun r => { r with p := Tab.set 0 r.p n v }
/-- Sketch accumulator `n`, 4,096 bytes. -/
def Thread.rdQ (t : Thread) (n : Nat) : Tab Byte := Tab.get [] t.r.q n
/-- Writes a sketch accumulator. -/
def Thread.wrQ (t : Thread) (n : Nat) (v : Tab Byte) : Thread := t.modR fun r => { r with q := Tab.set [] r.q n v }
/-- Scale register `n`. -/
def Thread.rdE (t : Thread) (n : Nat) : Word32 := Tab.get 0 t.r.e n
/-- Writes a scale register. -/
def Thread.wrE (t : Thread) (n : Nat) (v : Word32) : Thread := t.modR fun r => { r with e := Tab.set 0 r.e n v }
/-- Accumulator tile `n`: 9,216 FP32 elements, row-major (R144). -/
def Thread.tile (t : Thread) (n : Nat) : Tab Word32 := Tab.get [] t.r.tiles n
/-- Writes an accumulator tile. -/
def Thread.setTile (t : Thread) (n : Nat) (v : Tab Word32) : Thread := t.modR fun r => { r with tiles := Tab.set [] r.tiles n v }
/-- Ring `n`. -/
def Thread.ring (t : Thread) (n : Nat) : Ring := Tab.get Ring.empty t.r.rings n
/-- Writes a ring. -/
def Thread.setRing (t : Thread) (n : Nat) (v : Ring) : Thread := t.modR fun r => { r with rings := Tab.set Ring.empty r.rings n v }

/-- Writes a register of any file. -/
def Thread.write (t : Thread) (r : Reg) (v : VWord) : Thread :=
  match r with
  | .s n => t.wrS n (v.setWidth 64)
  | .v n => t.wrV n v
  | .p n => t.wrP n (v.setWidth 128)
  | .q _ => t
  | .e n => t.wrE n (v.setWidth 32)

/-- Makes a register pending; s0 never is (R187, R188). -/
def Thread.addPend (t : Thread) (n : Nat) : Thread :=
  if n = 0 then t else t.modU fun u => { u with pend := if u.pend.contains n then u.pend else n :: u.pend }

/-- Clears a pending bit. -/
def Thread.dropPend (t : Thread) (n : Nat) : Thread := t.modU fun u => { u with pend := u.pend.filter (· != n) }

/-- Completes a load: the destination is written and released (R187). -/
def Thread.complete (t : Thread) (n : Nat) (v : Word64) : Thread := (t.wrS n v).dropPend n

/-- The level of the thread: bit 5 of ESTAT (R476). -/
def Thread.system (t : Thread) : Bool := bit t.csr.estat.toNat 5
/-- Whether a trap frame is held: ESTAT.TRAPPED. -/
def Thread.trapped (t : Thread) : Bool := bit t.csr.estat.toNat 4

/-- Decrements every landing entry, and lands those that reach zero, in the order of their slots and, within a slot, of
their issue (R181, R182). -/
def Thread.landDue (t : Thread) : Thread :=
  let dec := t.u.land.map fun e => { e with rem := e.rem - 1 }
  let due := sortBy (fun a b : Landing => decide (a.slot ≤ b.slot)) (dec.filter fun e => e.rem == 0)
  let t1 := t.modU fun u => { u with land := dec.filter fun e => e.rem != 0 }
  due.foldl (fun t e => if e.fault.isSome then t else e.writes.foldl (fun t w => t.write w.1 w.2) t) t1

/-! ## The scratchpad (R235) -/

/-- VADD on two patterns of a format, with FINOV `ov` (R385, R441). -/
def fAddBits (f : FP) (ov a b : Nat) : Nat := finish f .rne ov ((decodeFP f a).add (decodeFP f b))

/-- A 32-bit sum. -/
def addI32Word (x y : Nat) : Nat := (x + y) % 2 ^ 32

/-- VADD.f32 on a word with the table read at issue. -/
def addF32Word (tbl : BitVec 128) (x y : Nat) : Nat := fAddBits fpF32 (finov tbl 0) x y

/-- VADD.bf16 on each half of a word. -/
def addBf16Word (tbl : BitVec 128) (x y : Nat) : Nat :=
  fAddBits fpBF16 (finov tbl 1) (fld x 0 16) (fld y 0 16) + 2 ^ 16 * fAddBits fpBF16 (finov tbl 1) (fld x 16 16) (fld y 16 16)

/-- Updates each 4-byte word of a byte string with the words listed (R441, R466). -/
def mapWords (f : Nat → Nat → Nat) : List Byte → List Word32 → List Byte
  | bs, [] => bs
  | bs, w :: ws => leBytes (f (leNat (bs.take 4)) w.toNat) 4 ++ mapWords f (bs.drop 4) ws

/-- Bytes of the scratchpad as every unit but C0 reads them. -/
def Thread.spBytes (t : Thread) (o n : Nat) : List Byte := Tab.bytes t.r.sp o n

/-- Bytes of the scratchpad as a C0 load reads them: without the C0 stores of the last two bundle issues (R235). -/
def Thread.c0Bytes (t : Thread) (o n : Nat) : List Byte :=
  (range' o n).map fun a =>
    match firstWhere (fun e : Nat × Byte => e.1 == a) (t.r.c0.flatMap fun x => x.old) with
    | some e => e.2
    | none => Tab.get 0 t.r.sp a

/-- A C0 store at its bank: the bytes it replaces stay in view of the C0 loads of the next two bundle issues. -/
def Thread.c0Put (t : Thread) (o : Nat) (bs : List (Option Byte)) : Thread :=
  let touched := ((range' o bs.length).zip bs).filter fun e => e.2.isSome
  t.modR fun r => { r with sp := Tab.putSome r.sp o bs, c0 := r.c0 ++ [⟨touched.map fun e => (e.1, Tab.get 0 r.sp e.1), 0, false⟩] }

/-- A write by any other unit: every C0 load from then on sees it (R235). -/
def Thread.spPut (t : Thread) (o : Nat) (bs : List Byte) : Thread :=
  let keep := fun e : Nat × Byte => !(decide (o ≤ e.1) && decide (e.1 < o + bs.length))
  let seen := List.map fun x : C0Store => { x with old := x.old.filter keep }
  (t.modR fun r => { r with sp := Tab.putBytes r.sp o bs, c0 := seen r.c0 }).modU fun u =>
    { u with frame := u.frame.map fun f => { f with c0 := seen f.c0 } }

/-- One bundle issue ages every C0 store; one of age 3 is seen from then on (R235). -/
def Thread.ageC0 (t : Thread) : Thread :=
  t.modR fun r => { r with c0 := (r.c0.map fun x => { x with age := x.age + 1 }).filter fun x => decide (x.age < 3) }

/-- Every C0 store is seen: when the thread ends or leaves its core (R235). -/
def Thread.flushC0 (t : Thread) : Thread :=
  (t.modR fun r => { r with c0 := [] }).modU fun u => { u with frame := u.frame.map fun f => { f with c0 := [] } }

/-- The C0 stores of earlier bundles are seen, those of the bundle that issues not yet: at QFENCE (R235). -/
def Thread.fenceC0 (t : Thread) : Thread :=
  (t.modR fun r => { r with c0 := r.c0.filter fun x => x.age == 0 }).modU fun u => { u with frame := u.frame.map fun f => { f with c0 := [] } }

/-- What a bundle issue does before its operations read: due entries land, and C0 stores age (R181, R235). -/
def Thread.advance (t : Thread) : Thread := t.landDue.ageC0

/-! ## Ring registers (R410, R411, R414) -/

/-- Entries of a ring. -/
def Ring.n (r : Ring) : Nat := fld r.cfg.toNat 40 4 + 1
/-- Entry size in bytes. -/
def Ring.esz (r : Ring) : Nat := fld r.cfg.toNat 24 13 * 128
/-- Scratchpad offset of entry 0. -/
def Ring.base (r : Ring) : Nat := fld r.cfg.toNat 7 13 * 128
/-- Whether the ring may be filled by remote pushes. -/
def Ring.remote (r : Ring) : Bool := bit r.layout.toNat 7
/-- The span code of the layout word. -/
def Ring.span (r : Ring) : Nat := fld r.layout.toNat 4 3
/-- The only format code the ring may hold; 0 for any. -/
def Ring.fmt (r : Ring) : Nat := fld r.layout.toNat 0 4
/-- Valid entries. -/
def Ring.valid (r : Ring) : Nat := (r.tail + 2 * r.n - r.head) % (2 * r.n)
/-- Entries reserved by fills in flight. -/
def Ring.reserved (r : Ring) : Nat := (r.rsv + 2 * r.n - r.tail) % (2 * r.n)
/-- Slots that are neither valid nor reserved. -/
def Ring.free (r : Ring) : Nat := r.n - r.valid - r.reserved
/-- The slot a count designates. -/
def Ring.slot (r : Ring) (c : Nat) : Nat := c % r.n
/-- Scratchpad offset of a slot. -/
def Ring.entry (r : Ring) (slot : Nat) : Nat := r.base + slot * r.esz

/-- Reserves the next slot with a span tag: the slot and the ring. -/
def Ring.reserve (r : Ring) (tag : Nat) : Nat × Ring :=
  let s := r.slot r.rsv
  (s, { r with rsv := (r.rsv + 1) % (2 * r.n), tags := Tab.set 0 r.tags s tag, filled := Tab.set false r.filled s false,
               poisoned := Tab.set false r.poisoned s false })

/-- Advances TAIL past every slot whose fill has completed. -/
def Ring.advanceTail : Nat → Ring → Ring
  | 0, r => r
  | k + 1, r =>
    if r.tail != r.rsv && Tab.get false r.filled (r.slot r.tail) then Ring.advanceTail k { r with tail := (r.tail + 1) % (2 * r.n) } else r

/-- A fill completes, poisoned or not (R414, R451). -/
def Ring.fillDone (r : Ring) (slot : Nat) (bad : Bool) : Ring :=
  Ring.advanceTail 16 { r with filled := Tab.set false r.filled slot true, poisoned := Tab.set false r.poisoned slot bad }

/-- Pops the head entry (R416). -/
def Ring.pop (r : Ring) : Ring := { r with head := (r.head + 1) % (2 * r.n) }

/-- Whether the head entry is poisoned. -/
def Ring.headBad (r : Ring) : Bool := Tab.get false r.poisoned (r.slot r.head)

/-! ## The state: what operations read and write -/

/-- What the operations of a bundle read: the module as the bundle began to issue, with the landings of that issue performed
(R176, R181); outside a bundle, the module as it stands. -/
def State.src (s : State) : Module :=
  match s.pre with
  | none => s.now
  | some m => m.modTh Thread.advance

/-- The module a precise fault or a held bundle returns to. -/
def State.back (s : State) : Module := s.pre.getD s.now

/-- Changes the module. -/
def State.on (s : State) (f : Module → Module) : State := { s with now := f s.now }

/-- Changes the thread in focus. -/
def State.upd (s : State) (f : Thread → Thread) : State := s.on fun m => m.modTh f

/-- Reads a scalar register at issue. -/
def State.rdS (s : State) (r : RegNo) : Word64 := s.src.th.rdS r.toNat
/-- Reads a vector register at issue. -/
def State.rdV (s : State) (r : RegNo) : VWord := s.src.th.rdV r.toNat
/-- Reads a predicate register at issue. -/
def State.rdP (s : State) (r : BitVec 4) : PWord := s.src.th.rdP r.toNat
/-- Reads a sketch accumulator at issue. -/
def State.rdQ (s : State) (r : BitVec 2) : Tab Byte := s.src.th.rdQ r.toNat
/-- Reads a scale register at issue. -/
def State.rdE (s : State) (r : BitVec 4) : Word32 := s.src.th.rdE r.toNat
/-- Writes a scalar register. -/
def State.wrS (s : State) (r : RegNo) (v : Word64) : State := s.upd fun t => t.wrS r.toNat v
/-- Writes a vector register. -/
def State.wrV (s : State) (r : RegNo) (v : VWord) : State := s.upd fun t => t.wrV r.toNat v
/-- Writes a predicate register. -/
def State.wrP (s : State) (r : BitVec 4) (v : PWord) : State := s.upd fun t => t.wrP r.toNat v
/-- Writes a sketch accumulator. -/
def State.wrQ (s : State) (r : BitVec 2) (v : Tab Byte) : State := s.upd fun t => t.wrQ r.toNat v

end Sys2Proof.Machine
end

