-- ==== Sys2Proof/Machine/Walk.lean ====
section
/-!
DEFINITION. Physical memory as bytes, the table walk, the translation units, and page-fault records: rules R206, R207, R216 to
R221 and R228.
-/

namespace Sys2Proof.Machine

/-! ## Physical addresses -/

/-- Whether a physical address is HBM (R206). -/
def isHbm (pa : Nat) : Bool := decide (pa < 2 ^ 40)

/-- Whether a physical address lies in the device register space (R206). -/
def isDevReg (pa : Nat) : Bool := bit pa 51

/-- The compute die whose HBM holds a physical address (R206, R207). -/
def homeDie (pa : Nat) : Nat := fld pa 38 2

/-- The home slice of a physical address within its die (R207). -/
def homeSlice (pa : Nat) : Nat := fld pa 7 6 ^^^ fld pa 13 6 ^^^ fld pa 19 6

/-- The pair the helper `home_of` returns (R207, R328). -/
def homeOf (pa : Nat) : Nat × Nat := (homeDie pa, homeSlice pa)

/-- The HBM stack of a physical address (R207). -/
def stackOf (pa : Nat) : Nat := 4 * homeDie pa + fld (homeSlice pa) 4 2

/-- Bytes of HBM as they stand. -/
def Module.peek (m : Module) (pa n : Nat) : List Byte := Tab.bytes m.mm.mem pa n

/-- A little-endian number in HBM. -/
def Module.peekN (m : Module) (pa n : Nat) : Nat := leNat (m.peek pa n)

/-- Writes bytes of HBM as they stand. -/
def Module.poke (m : Module) (pa : Nat) (bs : List Byte) : Module :=
  { m with mm := { m.mm with mem := Tab.putBytes m.mm.mem pa bs } }

/-- Whether any half-line of a range is poisoned (R232). -/
def Module.poisoned (m : Module) (pa n : Nat) : Bool :=
  m.mm.poison.any fun h => decide (h * 64 < pa + n) && decide (pa < h * 64 + 64)

/-- The half-lines a range touches, ascending. -/
def halfLines (pa n : Nat) : List Nat := if n = 0 then [] else range' (pa / 64) ((pa + n - 1) / 64 - pa / 64 + 1)

/-- Marks a half-line poisoned. -/
def Module.addPoison (m : Module) (h : Nat) : Module :=
  { m with mm := { m.mm with poison := if m.mm.poison.contains h then m.mm.poison else h :: m.mm.poison } }

/-- Clears the poison of the half-lines a write covers whole (R232). -/
def Module.clearPoison (m : Module) (pa n : Nat) : Module :=
  { m with mm := { m.mm with poison := m.mm.poison.filter fun h => !(decide (pa ≤ h * 64) && decide (h * 64 + 64 ≤ pa + n)) } }

/-! ## Half-lines: host holds, registrations and the L1s (R57, R211 to R215) -/

/-- Cuts a physical range at half-lines: offset from the start, address, length. -/
def linePieces : Nat → Nat → Nat → Nat → List (Nat × Nat × Nat)
  | 0, _, _, _ => []
  | fuel + 1, off, pa, n =>
    if n = 0 then []
    else
      let k := Nat.min n (64 - pa % 64)
      (off, pa, k) :: linePieces fuel (off + k) (pa + k) (n - k)

/-- The half-line pieces of a range. -/
def halfPieces (pa n : Nat) : List (Nat × Nat × Nat) := linePieces (n / 64 + 2) 0 pa n

/-- The host's hold on a half-line. -/
def Module.held (m : Module) (h : Nat) : HostHold := Tab.get .I m.mm.hostHold h

/-- Asks for a snoop of a half-line (R56). -/
def Module.askSnoop (m : Module) (h : Nat) : Module :=
  { m with mm := { m.mm with snoops := if m.mm.snoops.contains h then m.mm.snoops else m.mm.snoops ++ [h] } }

/-- The core whose L1 holds a line: of a fused cluster, the one that bits [9:7] of the address name (R213). -/
def Module.l1Of (m : Module) (core pa : Nat) : Nat := if m.cx.fused.contains (clusterOf core) then 8 * clusterOf core + fld pa 7 3 else core

/-- The registrant that a core's write names: 1 + the core, or 1,025 + the cluster where its L1s are fused (R212, R213). -/
def Module.registrantOf (m : Module) (core : Nat) : Nat :=
  if m.cx.fused.contains (clusterOf core) then 1025 + clusterOf core else 1 + core

/-- The core whose L1 holds a half-line for a registrant. -/
def registrantCore (r h : Nat) : Nat := if r > 1024 then 8 * (r - 1025) + fld h 1 3 else r - 1

/-- What an L1 wrote of a half-line has gone back to the home: it is dirty no more (R212). -/
def Module.l1Clean (m : Module) (k h : Nat) : Module :=
  m.modCore k fun c => { c with l1 := c.l1.map fun x =>
    if x.line = h / 2 then { x with dirty := x.dirty.filter fun w => w / 16 != h % 2 } else x }

/-- Names the registrant of a half-line; 0 takes the registration away. What the one before has written goes back to the home (R212). -/
def Module.register (m : Module) (h r : Nat) : Module :=
  let old := Tab.get 0 m.mm.registrant h
  let m1 := if old = 0 ∨ old = r then m else m.l1Clean (registrantCore old h) h
  { m1 with mm := { m1.mm with registrant := Tab.set 0 m1.mm.registrant h r } }

/-- Takes a line out of an L1: its dirty words go back to the home, and their registrations are dropped (R212). -/
def Module.l1Evict (m : Module) (k line : Nat) : Module :=
  let m1 := m.modCore k fun c => { c with l1 := c.l1.filter fun x => x.line != line }
  { m1 with mm := { m1.mm with registrant := m1.mm.registrant.filter fun e => !(e.1 / 2 == line && registrantCore e.2 e.1 == k) } }

/-- Empties an L1: dirty words go back to the home, registrations are dropped, and the L1 invalidates itself (R213). -/
def Module.l1Flush (m : Module) (k : Nat) : Module :=
  let m1 := m.modCore k fun c => { c with l1 := [], ro := [] }
  { m1 with mm := { m1.mm with registrant := m1.mm.registrant.filter fun e => registrantCore e.2 e.1 != k } }

/-- The set of a line in an L1 of 128 sets and 8 ways (R211; log entry 65). -/
def Module.l1Set (m : Module) (k line : Nat) : Nat := (if m.cx.fused.contains (clusterOf k) then line / 8 else line) % 128

/-- The line of an L1 that holds an address. -/
def Module.l1Line (m : Module) (k pa : Nat) : Option L1Line := firstWhere (fun x : L1Line => x.line == pa / 128) (m.core k).l1

/-- The byte of a line at an address, none where its word is not valid. -/
def L1Line.byte (x : L1Line) (pa : Nat) : Option Byte := (Tab.get none x.words (fld pa 2 5)).map fun w => BitVec.ofNat 8 (w.toNat >>> (8 * (pa % 4)))

/-- The words of a line that a range touches take the newest bytes; they are dirty where the core has written them (R211, R212). A set that is full
loses its oldest line first (log entry 65). -/
def Module.l1Keep (m : Module) (k pa n : Nat) (written : Bool) : Module :=
  let ws := if n = 0 then [] else range' (pa / 4) ((pa + n - 1) / 4 - pa / 4 + 1)
  let old := (m.l1Line k pa).getD ⟨pa / 128, [], []⟩
  let new : L1Line := { old with
    words := ws.foldl (fun t w => Tab.set none t (w % 32) (some (BitVec.ofNat 32 (m.peekN (4 * w) 4)))) old.words
    dirty := if written then (ws.map (· % 32)).filter (fun w => !old.dirty.contains w) ++ old.dirty else old.dirty }
  let others := (m.core k).l1.filter fun x => x.line != pa / 128
  let ways := others.filter fun x => m.l1Set k x.line == m.l1Set k (pa / 128)
  let m1 := match nth? 7 ways with
    | some x => m.l1Evict k x.line
    | none => m
  m1.modCore k fun c => { c with l1 := new :: c.l1.filter fun x => x.line != pa / 128 }

/-- The words of a line that a range touches are valid no more: the home has given newer ones to the core (R212, R233). -/
def Module.l1Drop (m : Module) (k pa n : Nat) : Module :=
  match m.l1Line k pa with
  | none => m
  | some _ =>
    let hit := fun w : Nat => decide (pa / 4 ≤ w) && decide (4 * w < pa + n)
    m.modCore k fun c => { c with l1 := c.l1.map fun x =>
      if x.line = pa / 128 then { x with words := Tab.drop (fun w => hit (32 * x.line + w)) x.words, dirty := x.dirty.filter fun w => !hit (32 * x.line + w) }
      else x }

/-- The cores whose L1s one core uses: its own, or those of its cluster where they are fused (R213). -/
def Module.l1Cores (m : Module) (k : Nat) : List Nat := if m.cx.fused.contains (clusterOf k) then range' (8 * clusterOf k) 8 else [k]

/-- An acquire: the L1 keeps no word that it has not registered, and no remote line (R212, R214, R240). -/
def Module.acquire (m : Module) (k : Nat) : Module :=
  (m.l1Cores k).foldl (fun m k => m.modCore k fun c => { c with
    l1 := (c.l1.filter fun x => !x.dirty.isEmpty).map fun x => { x with words := Tab.drop (fun w => !x.dirty.contains w) x.words }
    ro := [], roSeen := 2 ^ 15 + m.fb.reqNext }) m

/-! ## The walk -/

/-- What kind of use an access makes of its page (R220). -/
inductive Use where
  | read | write | fetch
  deriving DecidableEq, Repr

/-- A leaf found by a walk: its two words, its size in bytes and the physical address of its entry. -/
structure Leaf where
  w0 : Nat
  w1 : Nat
  size : Nat
  ptr : Nat
  deriving DecidableEq, Repr

/-- The levels of the table: low bit and width of the index, the leaf size, and the alignment of the next table (R217). -/
def walkLevels : List (Nat × Nat × Nat × Nat) :=
  [(35, 17, 2 ^ 35, 1024), (29, 6, 2 ^ 29, 4096), (21, 8, 2 ^ 21, 512), (16, 5, 2 ^ 16, 0)]

/-- Whether a leaf entry is well formed (R219, R220). -/
def leafOk (w0 w1 size : Nat) : Bool :=
  let oa := fld w0 16 36 * 2 ^ 16
  let user := bit w0 5
  let w := bit w0 3
  let r := bit w0 2
  let ver := bit w0 60
  let lcl := fld w0 54 2
  fld w0 8 8 == 0 && fld w0 0 2 == 0 && fld w1 52 11 == 0 && fld w1 0 12 == 0 && oa % size == 0 && (isHbm oa || isDevReg oa) &&
    !(isDevReg oa && user) && !(w && !r) && !(ver && lcl != 0) && !(lcl == 1 && fld w0 52 2 != 1) && !(ver && !bit w1 63)

/-- Whether an entry that points to the next level is well formed (R218, R220). `align` is 0 at level 3. -/
def nextOk (w0 w1 align : Nat) : Bool :=
  align != 0 && fld w0 52 10 == 0 && fld w0 0 9 == 0 && w1 == 0 && (fld w0 9 43 * 512) % align == 0 && isHbm (fld w0 9 43 * 512)

/-- What ends a walk, a translation or an access of one of the module's own units: a cause (R220); a half-line that the host holds, whose snoop is
awaited (R215); or the end of a migration, for which writes stall (R231). -/
inductive Miss where
  | cause (c : Cause)
  | snoop (h : Nat)
  | wait
  deriving DecidableEq, Repr

/-- The cause of a miss that is one; anything else ends by itself. -/
def Miss.isCause (x : Miss) : Option Cause :=
  match x with
  | .cause c => some c
  | .snoop _ => none
  | .wait => none

/-- A home read of a table entry: a half-line that the host may have modified is snooped first, a poisoned one ends the walk (R215, R217). -/
def Module.tableRead (m : Module) (p n : Nat) : Except Miss Nat :=
  if m.held (p / 64) = .M then .error (.snoop (p / 64))
  else if m.poisoned p n then .error (.cause Cause.walkPoison)
  else .ok (m.peekN p n)

/-- Reads one level after another (R217). -/
def walkFrom (m : Module) (va : Nat) : List (Nat × Nat × Nat × Nat) → Nat → Except Miss Leaf
  | [], _ => .error (.cause Cause.tableFormat)
  | (lo, w, size, align) :: rest, base =>
    let p := base + 16 * fld va lo w
    match m.tableRead p 16 with
    | .error x => .error x
    | .ok e =>
      let w0 := e % 2 ^ 64
      let w1 := e / 2 ^ 64
      if !bit w0 63 then .error (.cause Cause.pageNotPresent)
      else if bit w0 62 then (if leafOk w0 w1 size then .ok ⟨w0, w1, size, p⟩ else .error (.cause Cause.tableFormat))
      else if nextOk w0 w1 align then walkFrom m va rest (fld w0 9 43 * 512)
      else .error (.cause Cause.tableFormat)

/-- The walk of a virtual address in an address space (R216, R217). -/
def walk (m : Module) (asid va : Nat) : Except Miss Leaf :=
  match m.tableRead (fld m.tr.atbase.toNat 19 33 * 2 ^ 19 + 8 * asid) 8 with
  | .error x => .error x
  | .ok e =>
    if !bit e 63 then .error (.cause Cause.pageNotPresent)
    else if fld e 52 11 != 0 || fld e 0 21 != 0 then .error (.cause Cause.tableFormat)
    else walkFrom m va walkLevels (fld e 21 31 * 2 ^ 21)

/-- Whether a leaf permits a use at a level (R220). -/
def permits (w0 : Nat) (use : Use) (user : Bool) : Bool :=
  (match use with | .read => bit w0 2 | .write => bit w0 3 | .fetch => bit w0 4) && (!user || bit w0 5)

/-- The first byte of an entry once a use is marked in it: A, and D for a write (R220). -/
def Module.marked (m : Module) (ptr : Nat) (use : Use) : Nat := (leNat (m.peek ptr 1) ||| 64) ||| (if use = .write then 128 else 0)

/-- Sets A, and D for a write, in the entry at its home by an atomic OR; an entry that the host holds is snooped first (R215, R220). -/
def Module.markUsed (m : Module) (ptr : Nat) (use : Use) : Except Miss Module :=
  if m.marked ptr use = leNat (m.peek ptr 1) then .ok m
  else if m.held (ptr / 64) ≠ .I then .error (.snoop (ptr / 64))
  else .ok ((m.poke ptr [BitVec.ofNat 8 (m.marked ptr use)]).register (ptr / 64) 0)

/-! ## The translation units (R221) -/

/-- Whether an entry translates an address of an address space. -/
def TlbEntry.holds (e : TlbEntry) (asid va : Nat) : Bool := e.asid == asid && decide (e.va ≤ va) && decide (va < e.va + e.size)

/-- The entry a die's second-level TLB holds for an address. -/
def tlbFind (die asid va : Nat) (l : List TlbEntry) : Option TlbEntry := firstWhere (fun e => e.die == die && e.holds asid va) l

/-- The entry that an access finds: in the first-level TLB of its cluster, else in its die's second-level TLB. -/
def Module.leafHeld (m : Module) (die : Nat) (cl : Option Nat) (asid va : Nat) : Option TlbEntry :=
  match cl.bind fun c => firstWhere (fun e : Nat × TlbEntry => e.1 == c && e.2.holds asid va) m.tr.tlb1 with
  | some e => some e.2
  | none => tlbFind die asid va m.tr.tlb

/-- The first `n` elements of a list that have a property stay, and all that do not have it. -/
def keepFirst {α : Type} (p : α → Bool) : Nat → List α → List α
  | _, [] => []
  | n, x :: l => if !p x then x :: keepFirst p n l else match n with
    | 0 => keepFirst p 0 l
    | n + 1 => x :: keepFirst p n l

/-- Puts an entry into the first-level TLB of a cluster, of 256 entries (R221; log entry 65). -/
def Module.tlb1Put (m : Module) (cl : Option Nat) (e : TlbEntry) : Module :=
  match cl with
  | none => m
  | some c =>
    let l := (c, e) :: m.tr.tlb1.filter fun x => !(x.1 == c && x.2.asid == e.asid && x.2.va == e.va)
    { m with tr := { m.tr with tlb1 := keepFirst (fun x => x.1 == c) 256 l } }

/-- Puts a leaf into a die's second-level TLB, of 4,096 entries (R221; log entry 65). -/
def Module.tlbPut (m : Module) (die asid va : Nat) (l : Leaf) : Module :=
  let page := va / l.size * l.size
  let e : TlbEntry := ⟨die, asid, page, l.size, BitVec.ofNat 64 l.w0, BitVec.ofNat 64 l.w1, l.ptr⟩
  let t := e :: m.tr.tlb.filter fun e => !(e.die == die && e.asid == asid && e.va == page)
  { m with tr := { m.tr with tlb := keepFirst (fun e => e.die == die) 4096 t } }

/-- Notes in the TLBs that D of an entry has been set. -/
def Module.tlbDirty (m : Module) (e : TlbEntry) : Module :=
  let set := fun x : TlbEntry => if x = e then { x with w0 := x.w0 ||| 128 } else x
  { m with tr := { m.tr with tlb := m.tr.tlb.map set, tlb1 := m.tr.tlb1.map fun x => (x.1, set x.2) } }

/-- A translation: the physical address, and the leaf it came by. -/
structure Phys where
  pa : Nat
  leaf : Leaf
  base : Nat
  deriving DecidableEq, Repr

/-- Whether the page is VERSIONED (R219). -/
def Phys.ver (p : Phys) : Bool := bit p.leaf.w0 60

/-- The physical address a leaf gives a virtual address. -/
def leafPa (w0 size va : Nat) : Nat := fld w0 16 36 * 2 ^ 16 + va % size

/-- A translation through an entry that a TLB holds: its permissions, and D at the first write through it (R219, R220). -/
def Module.translateHit (m : Module) (cl : Option Nat) (e : TlbEntry) (va : Nat) (use : Use) (user : Bool) : Except Miss (Phys × Module) :=
  let w0 := e.w0.toNat
  let ph : Phys := ⟨leafPa w0 e.size va, ⟨w0, e.w1.toNat, e.size, e.at_⟩, fld w0 16 36 * 2 ^ 16⟩
  let m1 := if cl.isNone || (m.tr.tlb1.any fun x => some x.1 == cl && x.2 == e) then m else m.tlb1Put cl e
  if !permits w0 use user then .error (.cause Cause.pagePerm)
  else if use = .write && !bit w0 7 then match m1.markUsed e.at_ use with
    | .error x => .error x
    | .ok m2 => .ok (ph, m2.tlbDirty e)
  else .ok (ph, m1)

/-- Translates an address for a use, through the first-level TLB of a cluster where the access is a core's: the entry held, else a walk; the leaf's
permissions; A and D (R219 to R221). -/
def translate (m : Module) (die : Nat) (cl : Option Nat) (asid va : Nat) (use : Use) (user : Bool) : Except Miss (Phys × Module) :=
  match m.leafHeld die cl asid va with
  | some e => m.translateHit cl e va use user
  | none =>
    match walk m asid va with
    | .error c => .error c
    | .ok l =>
      if !permits l.w0 use user then .error (.cause Cause.pagePerm)
      else match m.markUsed l.ptr use with
        | .error x => .error x
        | .ok m1 =>
          let l1 : Leaf := { l with w0 := l.w0 ||| 64 ||| (if use = .write then 128 else 0) }
          let m2 := m1.tlbPut die asid va l1
          .ok (⟨leafPa l.w0 l.size va, l, fld l.w0 16 36 * 2 ^ 16⟩, match m2.tr.tlb.head? with
            | some e => m2.tlb1Put cl e
            | none => m2)

/-- Cuts a range into pieces that do not cross a 64 KiB page: offset from the start, address, length. -/
def pieces : Nat → Nat → Nat → Nat → List (Nat × Nat × Nat)
  | 0, _, _, _ => []
  | fuel + 1, off, va, n =>
    if n = 0 then []
    else
      let k := Nat.min n (65536 - va % 65536)
      (off, va, k) :: pieces fuel (off + k) (va + k) (n - k)

/-- The pieces of a range of any length. -/
def pagePieces (va n : Nat) : List (Nat × Nat × Nat) := pieces (n / 65536 + 2) 0 va n

/-- The page that is migrated: the one that MIGVA named when the migration started. -/
def Module.migPage (m : Module) : Nat := fld m.tr.migRun.1.toNat 16 36 * 65536

/-- The size of the page being migrated: that of its leaf. -/
def Module.migSize (m : Module) : Nat :=
  match walk m (fld m.tr.migctl.toNat 0 16) m.migPage with
  | .ok l => l.size
  | .error _ => 65536

/-- Whether writes to a virtual address stall because its page is being migrated (R231): the page that MIGCTL and MIGVA name while BUSY
is 1. -/
def Module.migrating (m : Module) (asid va : Nat) : Bool :=
  bit m.tr.migctl.toNat 63 && fld m.tr.migctl.toNat 0 16 == asid && va / m.migSize == m.migPage / m.migSize

/-- Whether a physical address lies in the source frame of the migration that runs. -/
def Module.migratingFrame (m : Module) (pa : Nat) : Bool :=
  bit m.tr.migctl.toNat 63 && match walk m (fld m.tr.migctl.toNat 0 16) m.migPage with
    | .ok l => fld l.w0 16 36 * 65536 / l.size == pa / l.size
    | .error _ => false

/-- Reads bytes at a virtual address for one of the module's own units. -/
def Module.readV (m : Module) (die asid va n : Nat) : Except Miss (List Byte × Module) :=
  (pagePieces va n).foldl (fun acc p => match acc with
    | .error c => .error c
    | .ok r => match translate r.2 die none asid p.2.1 .read false with
      | .error c => .error c
      | .ok (ph, m1) => (halfPieces ph.pa p.2.2).foldl (fun acc q => match acc with
        | .error c => .error c
        | .ok r =>
          if r.2.held (q.2.1 / 64) = .M then .error (.snoop (q.2.1 / 64))
          else if r.2.mm.poison.contains (q.2.1 / 64) then .error (.cause Cause.memPoison)
          else .ok (r.1 ++ r.2.peek q.2.1 q.2.2, r.2)) (.ok (r.1, m1))) (.ok ([], m))

/-- Writes bytes at a virtual address for one of the module's own units (R215, R231, R232). -/
def Module.writeV (m : Module) (die asid va : Nat) (bs : List Byte) : Except Miss Module :=
  (pagePieces va bs.length).foldl (fun acc p => match acc with
    | .error c => .error c
    | .ok m => if m.migrating asid p.2.1 then .error .wait else match translate m die none asid p.2.1 .write false with
      | .error c => .error c
      | .ok (ph, m1) => (halfPieces ph.pa p.2.2).foldl (fun acc q => match acc with
        | .error c => .error c
        | .ok m =>
          let h := q.2.1 / 64
          if m.held h ≠ .I then .error (.snoop h)
          else if m.mm.poison.contains h && decide (q.2.2 < 64) then .error (.cause Cause.memPoison)
          else .ok (((m.poke q.2.1 ((bs.drop (p.1 + q.1)).take q.2.2)).clearPoison q.2.1 q.2.2).register h 0)) (.ok m1)) (.ok m)

/-- A write of one of the module's own units: where it must wait for a snoop or for a migration, it waits behind those that wait already; one whose
page gives a fault is lost (log entry 66). -/
def Module.sysPut (m : Module) (die asid va : Nat) (bs : List Byte) : Module :=
  let queued := fun m : Module => { m with mm := { m.mm with late := m.mm.late ++ [(die, asid, va, bs)] } }
  if !m.mm.late.isEmpty then queued m
  else match m.writeV die asid va bs with
    | .ok m1 => m1
    | .error (.snoop h) => queued (m.askSnoop h)
    | .error .wait => queued m
    | .error (.cause _) => m

/-- Performs the writes that wait, as far as they may now go. -/
def Module.flushLate (m : Module) : Module :=
  m.mm.late.foldl (fun m e => m.sysPut e.1 e.2.1 e.2.2.1 e.2.2.2) { m with mm := { m.mm with late := [] } }

/-! ## Notices and page-fault records -/

/-- The 32 bytes of a notice (R124): class, cause, index, bytes 4 to 7, ticks, detail. -/
def noticeBytes (m : Module) (cls idx : Nat) (c : Cause) (b4 : Nat) (detail : List Byte) : List Byte :=
  [BitVec.ofNat 8 cls, BitVec.ofNat 8 c.toNat] ++ leBytes idx 2 ++ leBytes b4 4 ++ leBytes m.ticks 8 ++ padBytes detail 16

/-- Appends a notice to the ring (R124). A full ring drops it and sets OVF; while the ring is not in service nothing is written. One whose ring page
cannot be translated is lost, and TAIL passes over its slot (log entry 66). -/
def Module.notice (m : Module) (cls idx : Nat) (c : Cause) (b4 : Nat) (detail : List Byte) : Module :=
  let cfg := m.fe.nrcfg.toNat
  let tail := fld m.fe.nrptr.toNat 32 32
  let head := fld m.fe.nrptr.toNat 0 32
  let n := 2 ^ fld cfg 4 4
  if !bit cfg 0 then m
  else if (tail + 2 ^ 32 - head) % 2 ^ 32 ≥ n then
    { m with fe := { m.fe with nrcfg := m.fe.nrcfg ||| 8, dropped := m.fe.dropped + 1 } }
  else
    let m1 := m.sysPut 0 (fld cfg 8 16) (fld cfg 24 40 * 4096 + 32 * (tail % n)) (noticeBytes m cls idx c b4 detail)
    { m1 with fe := { m1.fe with nrptr := BitVec.ofNat 64 (((tail + 1) % 2 ^ 32) * 2 ^ 32 + head) } }

/-- Writes the page-fault records of a die that have not reached the ring, oldest first, while it has room (R228). -/
def Module.flushPf (m : Module) (r : PfRec) : Module :=
  let cfg := (Tab.get 0 m.tr.pfqcfg r.die).toNat
  let ptr := (Tab.get 0 m.tr.pfqptr r.die).toNat
  let n := 2 ^ fld cfg 4 4
  let tail := fld ptr 32 32
  if r.inRing || !bit cfg 0 || decide ((tail + 2 ^ 32 - fld ptr 0 32) % 2 ^ 32 ≥ n) then m
  else
    let bytes := leBytes r.id 2 ++ [BitVec.ofNat 8 r.kind, BitVec.ofNat 8 r.cause.toNat] ++ leBytes r.asid 2 ++ leBytes r.core 2 ++
      leBytes r.va 8 ++ List.replicate 16 0
    let m1 := m.sysPut r.die (fld cfg 8 16) (fld cfg 24 40 * 4096 + 32 * (tail % n)) bytes
    { m1 with tr := { m1.tr with
        pfqptr := Tab.set 0 m1.tr.pfqptr r.die (BitVec.ofNat 64 (((tail + 1) % 2 ^ 32) * 2 ^ 32 + fld ptr 0 32)),
        pfrecs := m1.tr.pfrecs.map fun x => if x.id = r.id then { x with inRing := true } else x } }

/-- The kinds of page-fault record (R228). -/
inductive PfKind where
  | read | write | fetch | home | fill | writeback | migration
  deriving DecidableEq, Repr

/-- The kind byte of a record. -/
def pfKindCode : PfKind → Nat
  | .read => 0 | .write => 1 | .fetch => 2 | .home => 3 | .fill => 4 | .writeback => 5 | .migration => 6

/-- The record that an access waits on: the one open for its page on its die, or a new one (R221, R228). -/
def Module.pageFault (m : Module) (die asid core va : Nat) (kind : PfKind) : Nat × Module :=
  match firstWhere (fun r : PfRec => r.die == die && r.asid == asid && r.va / 65536 == va / 65536) m.tr.pfrecs with
  | some r => (r.id, m)
  | none =>
    let r : PfRec := ⟨m.tr.pfNext % 65536, pfKindCode kind, Cause.pageNotPresent, asid, core, die, va, false⟩
    let m1 := { m with tr := { m.tr with pfrecs := m.tr.pfrecs ++ [r], pfNext := m.tr.pfNext + 1 } }
    (r.id, m1.flushPf r)

end Sys2Proof.Machine
end

