-- ==== Sys2Proof/Machine/Flags.lean ====
section
/-!
DEFINITION. Every status word the machine computes: token words (R186, R332), CAUSE (R477), ESTAT at trap entry and return
(R476, R481, R482), CBSTAT (R371), round status words (R487), and the overflow table (R268).
-/

namespace Sys2Proof.Machine

/-- A token's status word (R186, R332): with STATE 00 the low 32 bits are zero. -/
def tokenWord (st n : Nat) (c : Cause) (det : BitVec 25) : Word64 :=
  BitVec.ofNat 64 (st % 4 * 2 ^ 62 + n % 2 ^ 30 * 2 ^ 32 + if st % 4 = 0 then 0 else det.toNat * 128 + c.toNat)

/-- The CAUSE register at trap entry (R477). -/
def causeWord (c : Cause) (det : BitVec 25) : Word64 := BitVec.ofNat 64 (det.toNat * 128 + c.toNat)

/-- Whether a delivery is one that PRECISE records: P, L or A (R481). -/
def Delivery.precise : Delivery → Bool
  | .P => true | .A => true | .L => true | .I => false

/-- ESTAT after trap entry (R481): PLEVEL takes LEVEL, PIE takes IE, PRECISE as the delivery is, TRAPPED 1, LEVEL 1, IE 0; SSTEP
stays. -/
def estatEnter (e : Word64) (precise : Bool) : Word64 :=
  BitVec.ofNat 64 (b2n (bit e.toNat 7) * 128 + 32 + 16 + b2n precise * 8 + b2n (bit e.toNat 5) * 4 + b2n (bit e.toNat 0) * 2)

/-- ESTAT after ERET (R482): LEVEL takes PLEVEL, IE takes PIE, TRAPPED 0; the other fields stay. -/
def estatLeave (e : Word64) : Word64 :=
  BitVec.ofNat 64 (b2n (bit e.toNat 7) * 128 + b2n (bit e.toNat 2) * 32 + b2n (bit e.toNat 3) * 8 + b2n (bit e.toNat 2) * 4 +
    b2n (bit e.toNat 1) * 2 + b2n (bit e.toNat 1))

/-- CBSTAT when a wait ends by completion of a phase (R371). -/
def cbstatWord (poison stale : Bool) (c : Cause) (phase : BitVec 32) : Word64 :=
  BitVec.ofNat 64 (b2n poison * 2 ^ 63 + b2n stale * 2 ^ 62 + c.toNat * 2 ^ 32 + phase.toNat)

/-- A round status word (R487). -/
def roundWord (state : Nat) (refused suspect revoked degraded : Bool) (c : Cause) (round : Nat) : Word64 :=
  BitVec.ofNat 64 (state % 8 * 2 ^ 61 + b2n refused * 2 ^ 60 + b2n suspect * 2 ^ 59 + b2n revoked * 2 ^ 58 + b2n degraded * 2 ^ 57 +
    c.toNat * 2 ^ 48 + round % 2 ^ 48)

end Sys2Proof.Machine
end

