-- ==== Sys2Proof/Machine/Home.lean ====
section
/-!
DEFINITION. Accesses at their homes: protected lines and the journal (R76 to R85, R92), host half-lines (R215), poison (R232),
registrations (R212), versioned cells (R250 to R260), and global reads and writes.
-/

namespace Sys2Proof.Machine

/-! ## Who makes an access, and what can stop it -/

/-- Who makes an access: the die that translates, the address space, the core, the level, whether it comes from a thread's S, C1 or M
queue (R258), whether it goes through the L1 of the core (R211), whether it is the aligned 8-byte LD or ST that may reach the device register
space (R471), and the command queue of that thread's launch. -/
structure Acc where
  die : Nat
  asid : Nat
  core : Nat
  user : Bool
  thread : Bool
  l1 : Bool
  dev : Bool
  queue : Option Nat
  deriving DecidableEq, Repr

/-- What stops an access: a fault with its cause and place, which is its address modulo 2^64 (`faultPlace`); a fault after some bytes of it were delivered, with the module as they leave it (R34,
R35); a page that Meadow must map (R228), for a region fill or not; such a page of the address space of the imports (R35); a half-line the host holds,
whose snoop is awaited (R56); a block of a region map to be filled (R225); or something that another event brings about. -/
inductive Stop where
  | fault (c : Cause) (addr : Nat)
  | part (c : Cause) (addr : Nat) (count : Nat) (m : Module)
  | imported (va : Nat)
  | page (va : Nat) (fill : Bool)
  | snoop (h : Nat)
  | fill (cx block : Nat)
  | wait
  deriving DecidableEq, Repr

/-- The cluster through whose first-level TLB an access goes, where it is a core's (R221). -/
def Acc.cluster (a : Acc) : Option Nat := if a.l1 then some (clusterOf a.core) else none

/-- What ends a translation, as what stops the access: only an absent page waits for Meadow. -/
def stopOf (x : Miss) (va : Nat) : Stop :=
  match x with
  | .cause c => if c = Cause.pageNotPresent then .page va false else .fault c va
  | .snoop h => .snoop h
  | .wait => .wait

/-- Runs a list of steps that may stop. -/
def foldStop {α β : Type} (f : β → α → Except Stop β) : List α → β → Except Stop β
  | [], b => .ok b
  | a :: l, b => match f b a with
    | .ok b' => foldStop f l b'
    | .error e => .error e

/-! ## Coding groups: configuration -/

/-- GID (R68). -/
def Group.gid (g : Group) : Nat := fld g.cfg.toNat 48 16
/-- K: data members. -/
def Group.k (g : Group) : Nat := fld g.cfg.toNat 44 4
/-- M: parity members. -/
def Group.m (g : Group) : Nat := fld g.cfg.toNat 41 3
/-- The address space of regions and journal. -/
def Group.asid (g : Group) : Nat := fld g.cfg.toNat 16 16
/-- HBEAT in cycles; 0 acts as 1. -/
def Group.hbeat (g : Group) : Nat := 16384 * Nat.max 1 (fld g.cfg.toNat 32 8)
/-- GTLIM in cycles; 0 acts as 1. -/
def Group.gtlim (g : Group) : Nat := 4096 * Nat.max 1 (fld g.cfg.toNat 0 16)
/-- Whether this module is a data member. -/
def Group.isData (g : Group) : Bool := decide (g.self < g.k)
/-- Whether a region is in force. -/
def Group.regionValid (g : Group) (r : Nat) : Bool := bit (Tab.get 0 g.greg0 r).toNat 63
/-- Whether a region is not yet established: INIT (R76). -/
def Group.regionInit (g : Group) (r : Nat) : Bool := bit (Tab.get 0 g.greg0 r).toNat 62
/-- First virtual address of a region. -/
def Group.regionBase (g : Group) (r : Nat) : Nat := fld (Tab.get 0 g.greg0 r).toNat 6 46 * 64
/-- LINES of a region. -/
def Group.regionLines (g : Group) (r : Nat) : Nat := fld (Tab.get 0 g.greg1 r).toNat 0 30

/-- The name of a protected line: region and line index. -/
def lineName (r l : Nat) : Nat := r * 2 ^ 30 + l
/-- The region of a line's name. -/
def nameRegion (x : Nat) : Nat := x / 2 ^ 30
/-- The line index of a line's name. -/
def nameLine (x : Nat) : Nat := x % 2 ^ 30

/-- The protection map: the line that a half-line of HBM holds, by half-line number (R78). -/
def Group.lineAt (g : Group) (h : Nat) : Option Nat := match Tab.get 0 g.pmap h with | 0 => none | n + 1 => some n

/-- The half-line of HBM that holds a line (R78). -/
def Group.homeOfLine (g : Group) (name : Nat) : Option Nat := (firstWhere (fun e : Nat × Nat => e.2 == name + 1) g.pmap).map (·.1)

/-! ## The journal (R83 to R85) -/

/-- Blocks of the journal: bits [31:0] of GJSIZE. -/
def Group.jblocks (g : Group) : Nat := fld g.jsize.toNat 0 32

/-- Virtual address of journal block `b`. -/
def Group.blockVa (g : Group) (b : Nat) : Nat := fld g.jbase.toNat 16 36 * 65536 + b * 65536

/-- Entries of a block. -/
def blockEntries : Nat := 818

/-- The lowest block in no chain, the head of the free list; block 0 holds the header. -/
def Group.freeBlock (g : Group) : Option Nat :=
  firstWhere (fun b => !(g.chainB.contains b) && !(g.retB.contains b)) (range' 1 (g.chainB.length + g.retB.length + 1)) |>.bind fun b =>
    if b < g.jblocks then some b else none

/-- The free list: the blocks in no chain, in ascending order (log entry 45). -/
def Group.freeBlocks (g : Group) : List Nat := (range' 1 (g.jblocks - 1)).filter fun b => !(g.chainB.contains b) && !(g.retB.contains b)

/-- Blocks in use, the header's among them. -/
def Group.blocksUsed (g : Group) : Nat := 1 + g.chainB.length + g.retB.length

/-- The journal header (R83). -/
def Group.headerBytes (g : Group) : List Byte :=
  leBytes g.gid 2 ++ leBytes g.round 6 ++ leBytes ((g.retained.map (·.1)).getD 0) 6 ++ leBytes 0 2 ++ leBytes (g.chainB.headD 0) 4 ++
    leBytes (g.retB.headD 0) 4 ++ leBytes (g.freeBlock.getD 0) 4 ++ leBytes g.blocksUsed 4 ++ leBytes 0 32

/-- A block's header: round number, next block and entries; its other bytes are reserved and written as zero (R7, R83). -/
def blockHeader (round next n : Nat) : List Byte := leBytes round 6 ++ leBytes 0 2 ++ leBytes next 4 ++ leBytes n 2 ++ leBytes 0 50

/-- An entry of 80 bytes (R83). -/
def entryBytes (round : Nat) (e : JEntry) : List Byte :=
  leBytes round 6 ++ leBytes e.region 1 ++ leBytes (1 + 2 * b2n e.init + 4 * b2n e.cell + 8 * b2n e.poison) 1 ++ leBytes e.offset 8 ++
    leBytes e.data.toNat 64

/-- Writes bytes of the journal; its pages are mapped by Meadow (R83). -/
def Module.journalPut (m : Module) (g : Group) (va : Nat) (bs : List Byte) : Module := m.sysPut 0 g.asid va bs

/-- Writes the journal's header image. -/
def Module.journalHeader (m : Module) (slot : Nat) : Module := let g := m.group slot; m.journalPut g (g.blockVa 0) g.headerBytes

/-- Writes the journal's header and the links of its free list, after blocks have joined that list (R83). -/
def Module.journalLinks (m : Module) (slot : Nat) : Module :=
  let g := m.group slot
  let l := g.freeBlocks
  (l.zip (l.drop 1 ++ [0])).foldl (fun m e => m.journalPut g (g.blockVa e.1) (blockHeader 0 e.2 0)) (m.journalHeader slot)

/-- Writes the image of entry `i` of the current chain, with its block's header. -/
def Module.journalEntry (m : Module) (slot i : Nat) : Module :=
  let g := m.group slot
  match nth? (i / blockEntries) g.chainB, nth? i g.chain with
  | some b, some e =>
    let n := Nat.min blockEntries (g.chain.length - i / blockEntries * blockEntries)
    let hdr := blockHeader g.round ((nth? (i / blockEntries + 1) g.chainB).getD 0) n
    (m.journalPut g (g.blockVa b) hdr).journalPut g (g.blockVa b + 64 + 80 * (i % blockEntries)) (entryBytes g.round e)
  | _, _ => m

/-- Appends an entry to the current chain, taking a block where the last is full; none where no block is free (R85). -/
def Module.journalAppend (m : Module) (slot : Nat) (e : JEntry) : Option Module :=
  let g := m.group slot
  let put := fun bl : List Nat =>
    let i := g.chain.length
    let m1 := m.modGroup slot fun x => { x with chain := x.chain ++ [e], chainB := bl }
    let m2 := if i % blockEntries = 0 && i != 0 then m1.journalEntry slot (i - 1) else m1
    (m2.journalEntry slot i).journalHeader slot
  if g.chain.length % blockEntries = 0 then g.freeBlock.map fun b => put (g.chainB ++ [b]) else some (put g.chainB)

/-! ## Protected writes (R80, R84, R92, R93, R105) -/

/-- The pre-image of a line: the first sibling of a cell, or the bytes of the line (R84, R98). -/
structure PreImage where
  bytes : List Byte
  cell : Bool
  deriving DecidableEq, Repr

/-- The check and journalling of a protected write in one slot. -/
def Module.protectIn (m : Module) (slot h : Nat) (pre : PreImage) : Except Cause Module :=
  let g := m.group slot
  if !g.valid then .ok m
  else match g.lineAt h with
    | none => .ok m
    | some name =>
      if g.fenced then .error Cause.groupFenced
      else if !g.isData then .error Cause.groupRegion
      else if g.lost then .ok m
      else if g.state ≠ 0 then .error Cause.roundClosed
      else if m.mm.poison.contains h then .error Cause.memPoison
      else if g.written.contains name then .ok m
      else
        match m.journalAppend slot ⟨nameRegion name, 64 * nameLine name, false, pre.cell, false, BitVec.ofNat 512 (leNat pre.bytes)⟩ with
        | none => .error Cause.journalFull
        | some m1 => .ok (m1.modGroup slot fun x => { x with written := name :: x.written })

/-- Notes in the replay record of a queue that a launch of its stretch wrote a protected line of a group, or executed a round instruction
for it (R101). -/
def Module.noteGroup (m : Module) (q : Option Nat) (slot : Nat) : Module :=
  match q with
  | none => m
  | some n => m.modQueue n fun x =>
    { x with record := { x.record with groups := if x.record.groups.contains slot then x.record.groups else slot :: x.record.groups } }

/-- The place of a fault in what stops a write: its address, and above the 64 bits of it one more than the slot whose journal was full, where that is
the cause. -/
def faultPlace (slot : Nat) (c : Cause) : Nat := if c = Cause.journalFull then 2 ^ 64 * (slot + 1) else 0

/-- The check and journalling of a protected write of an agent, in every slot; an error tells its cause and its place, as above. -/
def Module.protectWrite (m : Module) (q : Option Nat) (h : Nat) (pre : PreImage) : Except (Cause × Nat) Module :=
  (range' 0 8).foldl (fun acc slot => match acc with
    | .ok m =>
      let g := m.group slot
      match m.protectIn slot h pre with
      | .ok m1 => .ok (if g.valid && (g.lineAt h).isSome then m1.noteGroup q slot else m1)
      | .error c => .error (c, faultPlace slot c)
    | .error e => .error e) (.ok m)

/-- Makes the messages held unanswered the next events, to be handled in the state the group now has (R90, R92). -/
def Module.unhold (m : Module) (slot : Nat) : Module :=
  let g := m.group slot
  let evs := (g.prepHeld ++ g.held).map fun q => Move.event (if q.kind = 0x10 then Instr.roundDelta q else Instr.prepare q)
  { m.modGroup slot (fun x => { x with prepHeld := [], held := [] }) with agenda := evs ++ m.agenda }

/-- The first NO reason of the round stands (R90). -/
def Group.noReasonIs (g : Group) (c : Cause) : Group := { g with noReason := if g.noReason.isSome then g.noReason else some c }

/-- A write that found no free journal block, as its place tells, leaves JOURNAL_FULL as that slot's NO reason (R90). -/
def Module.noteFull (m : Module) (c : Cause) (place : Nat) : Module :=
  if c = Cause.journalFull && decide (2 ^ 64 ≤ place) then
    let slot := place / 2 ^ 64 - 1
    (m.modGroup slot fun g => g.noReasonIs c).unhold slot
  else m

/-! ## Cells (R250 to R257) -/

/-- Metadata of a sibling (R253). -/
structure CMeta where
  ver : Nat
  base : Nat
  wid : Nat
  wctr : Nat
  cover : Nat
  deriving DecidableEq, Repr

/-- A sibling: its slot, its value, its metadata, and the record that holds it; slot 0 needs none. -/
structure Sibling where
  slot : Nat
  value : List Byte
  info : CMeta
  loc : Nat
  deriving DecidableEq, Repr

/-- A cell: its clock, FOLDED, the count of its folds, and its siblings in slot order. -/
structure Cell where
  clock : Nat
  folded : Bool
  folds : Nat
  sibs : List Sibling
  deriving DecidableEq, Repr

/-- Metadata of zeros. -/
def CMeta.zero : CMeta := ⟨0, 0, 0, 0, 0⟩

/-- Metadata from its bytes. -/
def metaOf (b : List Byte) : CMeta :=
  ⟨leNat (b.take 5), leNat ((b.drop 5).take 5), leNat ((b.drop 10).take 5), leNat ((b.drop 15).take 3), leNat ((b.drop 18).take 1) % 16⟩

/-- Metadata as bytes, 24 of them. -/
def CMeta.bytes (x : CMeta) : List Byte :=
  leBytes x.ver 5 ++ leBytes x.base 5 ++ leBytes x.wid 5 ++ leBytes x.wctr 3 ++ leBytes x.cover 1 ++ leBytes 0 5

/-- Where a cell lies: its physical address and the page it belongs to. -/
structure CellAt where
  pa : Nat
  page : Phys
  deriving DecidableEq, Repr

/-- Physical address of the page's sheaf overflow area (R219). -/
def CellAt.ovf (c : CellAt) : Nat := fld c.page.leaf.w1 12 40 * 4096
/-- The cell's header (R253). -/
def CellAt.header (c : CellAt) : Nat := c.ovf + 64 * ((c.pa - c.page.base) / 64)
/-- The merge operator of the page (R219). -/
def CellAt.mop (c : CellAt) : Nat := fld c.page.leaf.w0 56 4
/-- Spill slots of the page (R253). -/
def CellAt.spillSlots (c : CellAt) : Nat := Nat.min (c.page.leaf.size / 2) (4 * 2 ^ 20) / 128

/-- Bytes of a record named by a locator: bit 15 tells the spill region from the home slice's part of the sheaf store (R253). -/
def Module.recordBytes (m : Module) (c : CellAt) (loc : Nat) : List Byte :=
  if bit loc 15 then m.peek (c.ovf + c.page.leaf.size + 128 * (loc % 2 ^ 15)) 128
  else Tab.bytes m.mm.sheaf ((64 * homeDie c.pa + homeSlice c.pa) * 2 ^ 18 + 128 * (loc % 2 ^ 11)) 128

/-- Writes a record named by a locator. -/
def Module.recordPut (m : Module) (c : CellAt) (loc : Nat) (bs : List Byte) : Module :=
  if bit loc 15 then m.poke (c.ovf + c.page.leaf.size + 128 * (loc % 2 ^ 15)) bs
  else 
    let a := (64 * homeDie c.pa + homeSlice c.pa) * 2 ^ 18 + 128 * (loc % 2 ^ 11)
    { m with mm := { m.mm with sheaf := Tab.putBytes m.mm.sheaf a bs } }

/-- Whether a record is in use: USED (R253). -/
def Module.recordUsed (m : Module) (c : CellAt) (loc : Nat) : Bool := bit (leNat (((m.recordBytes c loc).drop 88).take 8)) 63

/-- The first free record: of the sheaf store, else of the spill region (R253). -/
def Module.freeRecord (m : Module) (c : CellAt) : Option Nat :=
  match firstWhere (fun l => !m.recordUsed c l) (range' 0 2048) with
  | some l => some l
  | none => firstWhere (fun l => !m.recordUsed c l) (range' 32768 c.spillSlots)

/-- Frees a record. -/
def Module.freeLoc (m : Module) (c : CellAt) (loc : Nat) : Module := m.recordPut c loc (List.replicate 128 0)

/-- Reads a cell. A header with PRESENT 0 stands for one sibling in slot 0 with metadata of zeros (R253). -/
def Module.cell (m : Module) (c : CellAt) : Cell :=
  let h := m.peek c.header 64
  let p := leNat ((h.drop 5).take 1)
  let present := if p % 16 = 0 then 1 else p % 16
  { clock := leNat (h.take 5), folded := bit p 4, folds := leNat ((h.drop 6).take 2),
    sibs := (bitsOf present 4).map fun i =>
      if i = 0 then ⟨0, m.peek (c.pa / 64 * 64) 64, if p % 16 = 0 then CMeta.zero else metaOf ((h.drop 8).take 24), 0⟩
      else
        let loc := leNat ((h.drop (32 + 2 * (i - 1))).take 2)
        let r := m.recordBytes c loc
        ⟨i, r.take 64, metaOf ((r.drop 64).take 24), loc⟩ }

/-- What FOLDED becomes when the siblings change: whether some sibling is the result of a fold. -/
def anyFold (l : List Sibling) : Bool := l.any fun s => s.info.cover != 0

/-- A cell with other siblings. -/
def Cell.withSibs (x : Cell) (l : List Sibling) : Cell := { x with folded := anyFold l, sibs := l }

/-- PRESENT as a mask of slots. -/
def Cell.present (x : Cell) : Nat := natSum (x.sibs.map fun s => 2 ^ s.slot)

/-- Writes a cell back: its header, the value of slot 0, and the records of its other siblings. -/
def Module.putCell (m : Module) (c : CellAt) (x : Cell) : Module :=
  let s0 := firstWhere (fun s : Sibling => s.slot == 0) x.sibs
  let loc := fun i => ((firstWhere (fun s : Sibling => s.slot == i) x.sibs).map (·.loc)).getD 0
  let hdr := leBytes x.clock 5 ++ leBytes (x.present + 16 * b2n x.folded) 1 ++ leBytes x.folds 2 ++
    ((s0.map (·.info)).getD CMeta.zero).bytes ++ leBytes (loc 1) 2 ++ leBytes (loc 2) 2 ++ leBytes (loc 3) 2 ++ List.replicate 26 0
  let m1 := m.poke c.header hdr
  x.sibs.foldl (fun m s =>
    if s.slot = 0 then m.poke (c.pa / 64 * 64) s.value
    else m.recordPut c s.loc (s.value ++ s.info.bytes ++ leBytes (2 ^ 63 + c.pa / 64 * 64) 8 ++ List.replicate 32 0)) m1

/-- Dot order: ascending WID, WCTR, VER (R255). -/
def dotOrder (l : List Sibling) : List Sibling :=
  sortBy (fun a b => decide (a.info.wid < b.info.wid) || (a.info.wid == b.info.wid &&
    (decide (a.info.wctr < b.info.wctr) || (a.info.wctr == b.info.wctr && decide (a.info.ver ≤ b.info.ver))))) l

/-- The first value in dot order, which a plain read sees (R258). -/
def Cell.first (x : Cell) : List Byte := ((dotOrder x.sibs).head?.map (·.value)).getD []

/-- Applies an operation to lanes of `e` bits of two values. -/
def lanes2 (e : Nat) (f : Nat → Nat → Nat) (x y : List Byte) : List Byte :=
  let a := leNat x
  let b := leNat y
  leBytes (joinLanes e ((range' 0 (512 / e)).map fun j => f (laneOf a e j) (laneOf b e j) % 2 ^ e)) 64

/-- merge(o, x, y) of R254, x the earlier value. Codes from 14 on are FIRST and LAST; code 0 merges nothing. -/
def cellMerge (o : Nat) (x y : List Byte) : List Byte :=
  let f32 := fun (g : FVal → FVal → FVal) (a b : Nat) => finish fpF32 .rne 1 (g (ofF32 a) (ofF32 b))
  match o with
  | 1 => lanes2 32 (f32 FVal.add) x y
  | 2 => lanes2 32 (f32 FVal.max) x y
  | 3 => lanes2 32 (f32 FVal.min) x y
  | 4 => lanes2 16 (fAddBits fpBF16 1) x y
  | 5 => lanes2 32 (· + ·) x y
  | 6 => lanes2 64 (· + ·) x y
  | 7 => lanes2 32 (fun a b => if toSigned a 32 < toSigned b 32 then b else a) x y
  | 8 => lanes2 32 (fun a b => if toSigned b 32 < toSigned a 32 then b else a) x y
  | 9 => lanes2 32 Nat.max x y
  | 10 => lanes2 32 Nat.min x y
  | 11 => lanes2 64 (· ||| ·) x y
  | 12 => lanes2 64 (· &&& ·) x y
  | 13 => lanes2 64 (· ^^^ ·) x y
  | 15 => y
  | _ => x

/-- A stamp (R252). -/
def stampWord (folded : Bool) (count seen clock : Nat) : Word64 :=
  BitVec.ofNat 64 (b2n folded * 2 ^ 47 + count % 8 * 2 ^ 44 + seen % 16 * 2 ^ 40 + clock % 2 ^ 40)

/-- The greatest clock. -/
def clockMax : Nat := 2 ^ 40 - 1

/-- cell_load (R256): the stamp and the values in dot order. -/
def Cell.load (x : Cell) : Word64 × List (List Byte) :=
  (stampWord x.folded x.sibs.length x.present x.clock, (dotOrder x.sibs).map (·.value))

/-- Whether a stamp shows that the writer had read a sibling (R256). -/
def covered (st : Nat) (s : Sibling) : Bool :=
  let seen := fld st 40 4
  let clock := fld st 0 40
  (bit seen s.slot && decide (s.info.ver ≤ clock)) ||
    (s.info.cover != 0 && s.info.cover &&& (15 - seen) == 0 && decide (s.info.base ≤ clock))

/-- The result of a cell store: the stamp, whether it folded under ADD_F32 or ADD_BF16 or another operator, and the module. -/
structure StoreResult where
  stamp : Word64
  fold : Bool
  m : Module
  deriving DecidableEq, Repr

/-- Puts a sibling in its slot, keeping slot order. -/
def putSib (l : List Sibling) (s : Sibling) : List Sibling :=
  (l.filter fun x => decide (x.slot < s.slot)) ++ [s] ++ l.filter fun x => decide (s.slot < x.slot)

/-- cell_store (R256), after the checks of the access. -/
def Module.cellStore (m : Module) (c : CellAt) (st : Nat) (val : List Byte) (wid wctr : Nat) : Except Cause StoreResult :=
  let x := m.cell c
  if fld st 48 16 ≠ 0 || decide (fld st 0 40 > x.clock) then .error Cause.cellStamp
  else match firstWhere (fun s : Sibling => s.value == val && s.info.wid == wid && s.info.wctr == wctr) x.sibs with
    | some s => .ok ⟨stampWord x.folded x.sibs.length (2 ^ s.slot) x.clock, false, m⟩
    | none =>
      let keep := x.sibs.filter fun s => !covered st s
      let freed := (x.sibs.filter fun s => covered st s && s.slot != 0).map (·.loc)
      let m1 := freed.foldl (fun m l => m.freeLoc c l) m
      let slot := firstWhere (fun i => !keep.any fun s => s.slot == i) (range' 0 4)
      let fold := match slot with
        | none => true
        | some i => i != 0 && (m1.freeRecord c).isNone
      if fold && (decide (keep.length < 2) || c.mop == 0) then .error Cause.sheafFull
      else if x.clock + 1 + b2n fold > clockMax then .error Cause.cellClock
      else if fold then
        match dotOrder keep with
        | a :: b :: _ =>
          let lo := if a.slot < b.slot then a else b
          let hi := if a.slot < b.slot then b else a
          let v := cellMerge c.mop a.value b.value
          let mt : CMeta := ⟨x.clock + 1, Nat.max a.info.ver b.info.ver, a.info.wid, a.info.wctr, 2 ^ a.slot + 2 ^ b.slot⟩
          let rest := keep.filter fun s => s.slot != lo.slot && s.slot != hi.slot
          let m2 := m1.freeLoc c hi.loc
          let loc := (m2.freeRecord c).getD 0
          let y := ({ x with clock := x.clock + 2, folds := Nat.min (x.folds + 1) 65535 } : Cell).withSibs
            (putSib (putSib rest { lo with value := v, info := mt }) ⟨hi.slot, val, ⟨x.clock + 2, 0, wid, wctr, 0⟩, loc⟩)
          .ok ⟨stampWord y.folded y.sibs.length (2 ^ hi.slot) y.clock, true, m2.putCell c y⟩
        | _ => .error Cause.sheafFull
      else
        let i := slot.getD 0
        let loc := if i = 0 then 0 else (m1.freeRecord c).getD 0
        let y := ({ x with clock := x.clock + 1 } : Cell).withSibs (putSib keep ⟨i, val, ⟨x.clock + 1, 0, wid, wctr, 0⟩, loc⟩)
        .ok ⟨stampWord y.folded y.sibs.length (2 ^ i) y.clock, false, m1.putCell c y⟩

/-- A cell brought to one sibling in slot 0 with a value and a writer, its clock one later and at most the greatest (R257). -/
def Module.cellCollapse (m : Module) (c : CellAt) (x : Cell) (val : List Byte) (wid wctr : Nat) : Module :=
  let clk := Nat.min (x.clock + 1) clockMax
  let m1 := (x.sibs.filter fun s => s.slot != 0).foldl (fun m s => m.freeLoc c s.loc) m
  m1.putCell c (({ x with clock := clk } : Cell).withSibs [⟨0, val, ⟨clk, 0, wid, wctr, 0⟩, 0⟩])

/-- cell_reconcile (R257): the stamp, the value and the module. -/
def Module.cellReconcile (m : Module) (c : CellAt) (rop wid wctr : Nat) : Except Cause (Word64 × List Byte × Module) :=
  let x := m.cell c
  let o := if rop = 0 then c.mop else rop
  match dotOrder x.sibs with
  | [] => .error Cause.cellPage
  | [s] => .ok (stampWord x.folded 1 0 x.clock, s.value, m)
  | s :: rest =>
    if o = 0 then .error Cause.siblingsPresent
    else if x.clock = clockMax then .error Cause.cellClock
    else
      let v := rest.foldl (fun acc t => cellMerge o acc t.value) s.value
      .ok (stampWord false 1 0 (x.clock + 1), v, m.cellCollapse c x v wid wctr)

/-- Bytes laid over a value from an offset. -/
def overlay (v : List Byte) (off : Nat) (bs : List Byte) : List Byte := v.take off ++ bs ++ v.drop (off + bs.length)

/-- A plain write to a cell (R258). -/
def Module.cellPlain (m : Module) (c : CellAt) (thread : Bool) (bs : List Byte) : Except Cause Module :=
  let x := m.cell c
  match dotOrder x.sibs with
  | [] => .ok m
  | [s] =>
    let clk := Nat.min (x.clock + 1) clockMax
    let s1 := { s with value := overlay s.value (c.pa % 64) bs, info := { s.info with ver := clk, base := 0, cover := 0 } }
    .ok (m.putCell c (({ x with clock := clk } : Cell).withSibs [s1]))
  | s :: _ =>
    if thread then .error Cause.siblingsPresent
    else if x.clock = clockMax then
      let s1 := { s with value := overlay s.value (c.pa % 64) bs, info := { s.info with ver := clockMax } }
      .ok (m.putCell c (x.withSibs (putSib (x.sibs.filter fun t => t.slot != s.slot) s1)))
    else match m.cellStore c 0 (overlay s.value (c.pa % 64) bs) 0 0 with
      | .ok r => .ok r.m
      | .error e => .error e

/-! ## Plain accesses at the home -/

/-- The half-lines that hold a cell beside its own: its header, and the spill slots of its siblings (R253). -/
def Module.cellHalves (m : Module) (c : CellAt) : List Nat :=
  c.header / 64 :: ((m.cell c).sibs.filter fun s => s.slot != 0 && bit s.loc 15).flatMap fun s =>
    halfLines (c.ovf + c.page.leaf.size + 128 * (s.loc % 2 ^ 15)) 128

/-- What stops an operation on a cell at what holds it: a half-line that the host holds, or a poisoned one (R215, R232). -/
def Module.cellStop (m : Module) (c : CellAt) (write : Bool) (va : Nat) : Option Stop :=
  let hs := m.cellHalves c
  match firstWhere (fun h => if write then m.held h != .I else m.held h == .M) hs with
  | some h => some (.snoop h)
  | none => if hs.any fun h => m.mm.poison.contains h then some (.fault Cause.memPoison va) else none

/-- What stops a read within one half-line at its home: what the host holds in M is snooped, poison faults (R215, R232). -/
def Module.readStop (m : Module) (p : Phys) (va pa : Nat) : Option Stop :=
  if m.held (pa / 64) = .M then some (.snoop (pa / 64))
  else if m.mm.poison.contains (pa / 64) then some (.fault Cause.memPoison va)
  else if p.ver then m.cellStop ⟨pa, p⟩ false va
  else none

/-- The bytes within one half-line as its home has them: of a cell, those of the first sibling in dot order (R258). Memory holds the newest bytes of
registered words too: what a registrant has written is read from it (R212). -/
def Module.homeBytes (m : Module) (p : Phys) (pa n : Nat) : List Byte :=
  if p.ver then ((m.cell ⟨pa, p⟩).first.drop (pa % 64)).take n else m.peek pa n

/-- Reads within one half-line at its home. -/
def Module.readHome (m : Module) (p : Phys) (va pa n : Nat) : Except Stop (List Byte) :=
  match m.readStop p va pa with
  | some st => .error st
  | none => .ok (m.homeBytes p pa n)

/-- Whether a page's lines may stand in an L1: neither VERSIONED nor of PLACE 11 (R211, R250). -/
def Phys.cached (p : Phys) : Bool := !p.ver && fld p.leaf.w0 52 2 != 3

/-- A core reads within one half-line through its L1: a valid word that is not the newest may answer, which the model leaves free, until an acquire
(R212; log entry 65); otherwise the L1 keeps what the home gives. -/
def Module.l1Read (m : Module) (k pa n : Nat) : List Byte × Module :=
  let new := m.peek pa n
  let old := match m.l1Line k pa with
    | none => new
    | some x => ((range' pa n).zip new).map fun e => (x.byte e.1).getD e.2
  if old = new then (new, m.l1Keep k pa n false)
  else
    let (fb, m1) := m.freeBytes 1
    if leNat fb % 2 = 1 then (old, m1) else (new, m1.l1Keep k pa n false)

/-- Reads within one half-line (R211, R212, R215, R232, R258). -/
def Module.readLine (m : Module) (a : Acc) (p : Phys) (va pa n : Nat) : Except Stop (List Byte × Module) :=
  match m.readHome p va pa n with
  | .error st => .error st
  | .ok bs => .ok (if a.l1 && p.cached then m.l1Read (m.l1Of a.core pa) pa n else (bs, m))

/-- Whether a half-line is a protected line of a data member (R105): a full write does not clear its poison. -/
def Module.protectedLine (m : Module) (h : Nat) : Bool :=
  (range' 0 8).any fun s => let g := m.group s; g.valid && (g.lineAt h).isSome

/-- What stops a write within one half-line: a migration, a host hold, or poison that the write does not cover (R105, R215, R231, R232). A cell of
several siblings takes no full write that would clear it: that is a fault or a blind store. -/
def Module.writeStop (m : Module) (a : Acc) (p : Phys) (va pa n : Nat) : Option Stop :=
  let h := pa / 64
  if m.migrating a.asid va then some .wait
  else if m.held h ≠ .I then some (.snoop h)
  else if m.mm.poison.contains h && (decide (n < 64) || m.protectedLine h || (p.ver && (!a.thread && (m.cell ⟨pa, p⟩).sibs.length != 1))) then
    some (.fault Cause.memPoison va)
  else if p.ver then m.cellStop ⟨pa, p⟩ true va
  else none

/-- Writes within one half-line at its home, whose registrant is then the one named, none for 0 (R84, R212, R232, R258). -/
def Module.writeHome (m : Module) (a : Acc) (p : Phys) (va pa : Nat) (bs : List Byte) (reg : Nat) : Except Stop Module :=
  match m.writeStop a p va pa bs.length with
  | some st => .error st
  | none =>
    let h := pa / 64
    let c : CellAt := ⟨pa, p⟩
    match m.protectWrite a.queue h (if p.ver then ⟨(m.cell c).first, true⟩ else ⟨m.peek (h * 64) 64, false⟩) with
    | .error e => .error (.fault e.1 (va + e.2))
    | .ok m1 =>
      if p.ver then match m1.cellPlain c a.thread bs with
        | .ok m2 => .ok (m2.clearPoison pa bs.length)
        | .error e => .error (.fault e va)
      else .ok (((m1.poke pa bs).clearPoison pa bs.length).register h reg)

/-- Writes within one half-line: a core's write stays in its L1 and is registered (R211, R212). -/
def Module.writeLine (m : Module) (a : Acc) (p : Phys) (va pa : Nat) (bs : List Byte) : Except Stop Module :=
  if a.l1 && p.cached then
    match m.writeHome a p va pa bs (m.registrantOf a.core) with
    | .error st => .error st
    | .ok m1 => .ok (m1.l1Keep (m.l1Of a.core pa) pa bs.length true)
  else m.writeHome a p va pa bs 0

/-- Reads global virtual bytes. A device register answers with a free value (log entry 19). -/
def Module.readG (m : Module) (a : Acc) (va n : Nat) : Except Stop (List Byte × Module) :=
  foldStop (fun st p => match translate st.2 a.die a.cluster a.asid p.2.1 .read a.user with
    | .error e => .error (stopOf e p.2.1)
    | .ok (ph, m1) =>
      if isDevReg ph.pa then
        if a.dev then let (bs, m2) := m1.freeBytes p.2.2; .ok (st.1 ++ bs, m2) else .error (.fault Cause.devregAccess p.2.1)
      else
        foldStop (fun s q => match s.2.readLine a ph (p.2.1 + q.1) q.2.1 q.2.2 with
          | .error e => .error e
          | .ok r => .ok (s.1 ++ r.1, r.2)) (halfPieces ph.pa p.2.2) (st.1, m1)) (pagePieces va n) ([], m)

/-- Writes global virtual bytes. What a device register does with a write the spec does not say (log entry 19). -/
def Module.writeG (m : Module) (a : Acc) (va : Nat) (bs : List Byte) : Except Stop Module :=
  foldStop (fun m p => match translate m a.die a.cluster a.asid p.2.1 .write a.user with
    | .error e => .error (stopOf e p.2.1)
    | .ok (ph, m1) =>
      if isDevReg ph.pa then (if a.dev then .ok m1 else .error (.fault Cause.devregAccess p.2.1))
      else
        foldStop (fun m q => m.writeLine a ph (p.2.1 + q.1) q.2.1 ((bs.drop (p.1 + q.1)).take q.2.2)) (halfPieces ph.pa p.2.2) m1)
    (pagePieces va bs.length) m

/-- Makes a home operation ready on a range that lies within one page: translates, snoops what the host holds in any way, refuses poison, and recalls
registered words; the core's L1 keeps none of the range, of which the operation gives it newer values (R212, R215, R232). -/
def Module.homeReady (m : Module) (a : Acc) (va n : Nat) (use : Use) : Except Stop (Phys × Module) :=
  match translate m a.die a.cluster a.asid va use a.user with
  | .error e => .error (stopOf e va)
  | .ok (ph, m1) =>
    if isDevReg ph.pa then .error (.fault Cause.devregAccess va)
    else if use = .write && m.migrating a.asid va then .error .wait
    else
      let hs := halfLines ph.pa n
      match firstWhere (fun h => m1.held h != .I) hs with
      | some h => .error (.snoop h)
      | none =>
        match firstWhere (fun h => m1.mm.poison.contains h) hs with
        | some _ => .error (.fault Cause.memPoison va)
        | none =>
          let m2 := hs.foldl (fun m h => m.register h 0) m1
          .ok (ph, if a.l1 then (halfPieces ph.pa n).foldl (fun m q => m.l1Drop (m.l1Of a.core q.2.1) q.2.1 q.2.2) m2 else m2)

/-- The cause with which Meadow's answer, or a snoop that is never answered, completes an access (R60, R228). -/
def PfWait.cause : PfWait → Option Cause
  | .nomap => Option.some Cause.pageNotPresent
  | .deny => Option.some Cause.pagePerm
  | .poison => Option.some Cause.memPoison
  | .none => Option.none
  | .waiting _ => Option.none
  | .snoop _ => Option.none

/-- What a stopped access asks of the rest of the module, and what it then waits for: a page-fault record, a snoop, or a region fill. -/
def Module.askStop (m : Module) (a : Acc) (kind : PfKind) : Stop → PfWait × Module
  | .page va f => let (id, m1) := m.pageFault a.die a.asid a.core va (if f then PfKind.fill else kind); (.waiting id, m1)
  | .imported va => let (id, m1) := m.pageFault 0 (fld m.fb.impasid.toNat 0 16) 0 va kind; (.waiting id, m1)
  | .snoop h => (.snoop h, m.askSnoop h)
  | .fill cx b => (.none, m.modCtx cx fun t => t.modB fun x => { x with fills := if x.fills.contains b then x.fills else x.fills ++ [b] })
  | .fault _ _ => (.none, m)
  | .part _ _ _ _ => (.none, m)
  | .wait => (.none, m)

end Sys2Proof.Machine
end

