-- ==== Sys2Proof/Machine/Ops.lean ====
section
/-!
DEFINITION. The named operations every meaning is built from: taking a trap and returning from one (R479 to R482), holding a
bundle, tokens (R332), landings (R331), and the queues' entries.
-/

namespace Sys2Proof.Machine

/-! ## Stopping a queue, ending a launch -/

/-- Stops a queue with a cause (R119). -/
def Module.stopQueue (m : Module) (q : Nat) (c : Cause) : Module := m.modQueue q fun x => { x with stopped := true, cause := c }

/-- Disarms the C1 operation of a thread: its token is written once every issue has completed (R193). -/
def Thread.disarmC1 (t : Thread) : Thread :=
  match t.u.armC1 with
  | none => t
  | some a =>
    if a.token = 0 then t.modU fun u => { u with armC1 := none }
    else if a.outstanding = 0 then
      let t1 := t.modU fun u => { u with armC1 := none }
      match a.first with
        | none => t1.complete a.token (tokenWord 0 a.count 0 0)
        | some (_, st, c, d) => t1.complete a.token (tokenWord st a.count c d)
    else t.modU fun u => { u with armC1 := none, closing := a :: u.closing }

/-- Disarms every sticky operation (R193). -/
def Thread.disarmAll (t : Thread) : Thread := (t.modU fun u => { u with armM := none, armC0 := none }).disarmC1

/-- Ends a launch with a cause (R479): the thread issues nothing more, its queue stops, a notice is posted, and a held post is
dropped (R484). -/
def Module.endLaunch (m : Module) (cx : Nat) (c nested : Cause) (epc datum : Word64) : Module :=
  let t := m.ctx cx
  let m1 := m.setCtx cx (({ t with status := .stopped }).disarmAll.modU fun u => { u with held := [], frame := none, roundHold := none })
  let m2 := (m1.modCore (coreOf cx) fun k => { k with post := false }).stopQueue t.queue c
  m2.notice 1 t.queue c (fld t.csr.tid.toNat 0 10 + nested.toNat * 65536) (leBytes epc.toNat 8 ++ leBytes datum.toNat 8)

/-! ## Taking a trap -/

/-- The part of the sequencer that trap entry saves (R481). -/
def Thread.saveFrame (t : Thread) : Frame :=
  { rep := t.u.rep, loops := t.u.loops, armM := t.u.armM, armC0 := t.u.armC0, armC1 := t.u.armC1, mask := t.u.mask,
    land := t.u.land, held := t.u.held, c0 := t.r.c0, crewWait := t.u.crewWait,
    halting := decide (t.status = .halting), epc := t.pc }

/-- The sequencer at a handler's first bundle: masks clear, no loop level active, nothing armed, no landing entry (R481). -/
def Sequencer.enter (u : Sequencer) (f : Frame) : Sequencer :=
  { u with rep := none, loops := [], armM := none, armC0 := none, armC1 := none, mask := [], land := [], held := [], crewWait := none, cwait := none,
           pf := .none, returning := false, crewFault := none, frame := some f, waitFrom := none, stepped := false, roundHold := none, poll := .none }

/-- Takes a trap on the thread of context `cx` (R481). EPC is the thread's program counter: the header of the faulting bundle
for deliveries P and L, the next bundle to issue at a boundary for A and I (R480). -/
def Module.takeTrap (m : Module) (cx : Nat) (τ : Trap) : Module :=
  let t := m.ctx cx
  if t.trapped then m.endLaunch cx Cause.trapNested τ.cause t.pc τ.datum
  else if !bit t.csr.tvec.toNat 63 then m.endLaunch cx τ.cause 0 t.pc τ.datum
  else m.setCtx cx
    { t with
      status := if t.status = .halting then .running else t.status
      pc := BitVec.ofNat 64 (fld t.csr.tvec.toNat 2 50 * 4)
      next := none
      r := { t.r with c0 := t.r.c0.map fun x => { x with framed := true } }
      u := t.u.enter t.saveFrame
      csr := { t.csr with epc := t.pc, cause := causeWord τ.cause τ.detail, edata := τ.datum,
                          estat := estatEnter t.csr.estat τ.delivery.precise } }

/-- Returns from a trap (R482), the handler's landings done: the frame, the level, IE and TRAPPED; issue continues at EPC. The
remaining repeat count is kept, and a thread that was draining for HALT goes on draining, only where EPC holds what trap entry
gave it. -/
def Thread.returnTrap (t : Thread) : Thread :=
  match t.u.frame with
  | none => { t with next := some t.csr.epc, csr := { t.csr with estat := estatLeave t.csr.estat } }
  | some f =>
    let t1 := t.disarmC1
    { t1 with
      status := if f.halting && t.csr.epc = f.epc then .halting else t1.status
      next := some t.csr.epc
      r := { t1.r with c0 := f.c0 ++ t1.r.c0.filter fun x => !x.framed }
      u := { t1.u with rep := if t.csr.epc = f.epc then f.rep else none, loops := f.loops, armM := f.armM, armC0 := f.armC0,
                       armC1 := f.armC1, mask := f.mask, land := f.land, held := t1.u.held ++ f.held, crewWait := f.crewWait,
                       frame := none, waitFrom := none, returning := false, stepped := false, sstop := false }
      csr := { t.csr with estat := estatLeave t.csr.estat } }

/-- Raises a precise fault at the bundle: the bundle issues no operation, and the trap is taken (R319, R480). -/
def State.raise (s : State) (τ : Trap) : State := ⟨s.back.takeTrap s.back.focus τ, none⟩

/-- A precise fault with its EDATA. -/
def State.fault (s : State) (c : Cause) (datum : Word64) : State := s.raise ⟨c, 0, datum, .P⟩

/-- A precise fault whose EDATA is the syllable of the operation that raises it (R493). -/
def State.faultSyl (s : State) (c : Cause) (i : Instr) : State := s.fault c (BitVec.ofNat 64 (sylWord i))

/-- A precise fault whose EDATA is the header of the bundle (R493). -/
def State.faultHdr (s : State) (c : Cause) : State := s.fault c (s.back.th.u.ir.header.setWidth 64)

/-- Holds the bundle: nothing of it issues, and a cycle passes (R191). -/
def State.hold (s : State) (f : Thread → Thread) : State := ⟨(s.back.modTh f).pass 1, none⟩

/-- Holds the bundle with a change of the module that is not withdrawn, such as a request made. -/
def State.holdM (s : State) (f : Module → Module) : State := ⟨(f s.back).pass 1, none⟩

/-! ## Causes known after issue -/

/-- Holds a cause until the boundary at which it is taken (R504): a cause of interrupted code that becomes known while the
handler runs waits for ERET (R481). `user` is the level at which the operation issued. -/
def Thread.hold (t : Thread) (user : Bool) (τ : Trap) : Thread :=
  match t.u.frame with
  | some f =>
    if user && t.trapped then t.modU fun u => { u with frame := some { f with held := f.held ++ [τ] } }
    else t.modU fun u => { u with held := u.held ++ [τ] }
  | none => t.modU fun u => { u with held := u.held ++ [τ] }

/-- An imprecise cause (delivery I). -/
def imprecise (c : Cause) (det : BitVec 25) (datum : Word64) : Trap := ⟨c, det, datum, .I⟩

/-! ## Tokens -/

/-- Makes a token pending at issue (R186); s0 leaves the operation untracked (R188). -/
def Thread.token (t : Thread) (n : Nat) : Thread := t.addPend n

/-- Completes a tracked operation (R332). -/
def Thread.tokenWrite (t : Thread) (n st count : Nat) (c : Cause) (det : BitVec 25) : Thread :=
  if n = 0 then t else t.complete n (tokenWord st count c det)

/-- One issue of an armed C1 operation has come to its end (R193). -/
def Armed.collect (a : Armed) (serial st count : Nat) (c : Cause) (det : BitVec 25) : Armed :=
  { a with outstanding := a.outstanding - 1, count := a.count + count,
           first := if st = 0 then a.first else match a.first with
             | none => some (serial, st, c, det)
             | some f => if serial < f.1 then some (serial, st, c, det) else some f }

/-- Writes the tokens of disarmed operations whose issues have all completed (R193). -/
def Thread.closeArmed (t : Thread) : Thread :=
  (t.u.closing.filter fun a => a.outstanding == 0).foldl
    (fun t a => match a.first with
      | none => t.tokenWrite a.token 0 a.count 0 0
      | some (_, st, c, d) => t.tokenWrite a.token st a.count c d)
    (t.modU fun u => { u with closing := u.closing.filter fun a => a.outstanding != 0 })

/-- Reports the end of one issue to the armed operation that carries a token, in place or disarmed, in the thread or in its
trap frame (R193). -/
def Thread.collectArmed (t : Thread) (token serial st count : Nat) (c : Cause) (det : BitVec 25) : Thread :=
  let mine := fun a : Armed => a.token == token && decide (a.since ≤ serial)
  let g := fun a : Armed => if mine a then a.collect serial st count c det else a
  if (t.u.closing.any fun a => a.token == token) then (t.modU fun u => { u with closing := u.closing.map g }).closeArmed
  else
    let t1 := t.modU fun u => { u with armC1 := u.armC1.map g, frame := u.frame.map fun f => { f with armC1 := f.armC1.map g } }
    if st = 0 then t1
    else match t1.u.armC1 with
      | some a => if mine a then t1.disarmC1 else t1
      | none => match t1.u.frame.bind fun f => f.armC1 with
        | none => t1
        | some a =>
          if mine a then
            (t1.modU fun u => { u with closing := if a.token = 0 then u.closing else a :: u.closing,
                                       frame := u.frame.map fun f => { f with armC1 := none } }).closeArmed
          else t1

/-- Reports the end of a C1 operation: to the armed operation it is an issue of, or through its token, or, untracked and faulted,
as an imprecise trap (R188, R193, R333). A fault of an issue disarms. -/
def Thread.report (t : Thread) (e : C1Entry) (st count : Nat) (c : Cause) (det : BitVec 25) : Thread :=
  let t1 := if e.armed then t.collectArmed e.token e.serial st count c det else t.tokenWrite e.token st count c det
  if e.token = 0 && (st = 1 || st = 2) then t1.hold e.user (imprecise c det e.addr) else t1

/-! ## Landings, queue entries -/

/-- Takes a landing entry (R331). -/
def Thread.land (t : Thread) (e : Landing) : Thread := t.modU fun u => { u with land := u.land ++ [e] }

/-- A long-class scalar result of the S slot. -/
def State.landS (s : State) (slot : Nat) (r : RegNo) (v : Word64) (k : Nat) : State :=
  s.upd fun t => t.land ⟨if r = 0 then [] else [(.s r.toNat, v.setWidth 1024)], k, slot, none, none, false⟩

/-- The next serial number, which orders queue entries by issue. -/
def Thread.tick (t : Thread) : Nat × Thread := (t.u.serial, t.modU fun u => { u with serial := u.serial + 1 })

/-- Enters an S-queue entry. -/
def Thread.enterS (t : Thread) (e : SEntry) : Thread := t.modX fun x => { x with sq := x.sq ++ [e] }

/-- Enters a C1-queue entry. -/
def Thread.enterC1 (t : Thread) (e : C1Entry) : Thread := t.modX fun x => { x with c1q := x.c1q ++ [e] }

/-- Enters an M-queue entry. -/
def Thread.enterM (t : Thread) (e : MEntry) : Thread := t.modX fun x => { x with mq := x.mq ++ [e] }

/-- A plain C1-queue entry of a thread. -/
def Thread.c1Entry (t : Thread) (k : C1Kind) (addr : Word64) (token serial : Nat) (armed : Bool) : C1Entry :=
  { kind := k, addr := addr, token := token, user := !t.system, phase := .queued, serial := serial, bound := none, reads := [],
    writes := [], desc := [], known := false, slot := none, pf := .none, armed := armed, value := none, next := 0, count := 0, buf := none,
    acks := [], ordered := false }

/-- A plain M-queue entry of a thread. -/
def Thread.mEntry (t : Thread) (k : MKind) (addr : Word64) (token : Nat) : MEntry :=
  { kind := k, addr := addr, token := token, user := !t.system, header := t.pc, serial := t.u.serial, heldOn := [], rows := 0,
    pf := .none, ovtab := t.csr.ovt, remote := none, buf := none, since := none, re := false }

/-- Sets a tile's busy bit once more (R189): the bit is set while the tile stands in the list. -/
def Thread.setBusy (t : Thread) (mt : Nat) : Thread := t.modU fun u => { u with busy := mt :: u.busy }

/-- One operation on a tile has retired. -/
def Thread.clearBusy (t : Thread) (mt : Nat) : Thread := t.modU fun u => { u with busy := u.busy.erase mt }

end Sys2Proof.Machine
end

