-- ==== Sys2Proof/Machine/Operands.lean ====
section
/-!
DEFINITION. The operand forms: which registers each operation reads and writes and in which class (R180, R322 to R327), the
token it names, the queue it enters, and the addresses its fields form (R312, R315, R316).
-/

namespace Sys2Proof.Machine

/-- Result classes (R180). -/
inductive Cls where
  | none | short | long | pend
  deriving DecidableEq, Repr

/-- What run-dependence detection and the scoreboard see of an operation (R322): registers read, registers written, the class of
the result, and the scalar register named as token. -/
structure Opnd where
  reads : List Reg
  writes : List Reg
  cls : Cls
  token : Nat
  deriving DecidableEq, Repr

/-- A scalar register as operand. -/
def xs (r : RegNo) : Reg := .s r.toNat
/-- A vector register as operand. -/
def xv (r : RegNo) : Reg := .v r.toNat
/-- A predicate register as operand. -/
def xp (p : BitVec 4) : Reg := .p p.toNat
/-- A sketch accumulator as operand. -/
def xq (q : BitVec 2) : Reg := .q q.toNat
/-- A scale register as operand. -/
def xe (e : BitVec 4) : Reg := .e e.toNat

/-- A short-class result. -/
def oShort (w r : List Reg) : Opnd := ⟨r, w, .short, 0⟩
/-- A long-class result. -/
def oLong (w r : List Reg) : Opnd := ⟨r, w, .long, 0⟩
/-- No register result. -/
def oNone (r : List Reg) (t : Nat) : Opnd := ⟨r, [], .none, t⟩
/-- A pending destination with a token. -/
def oPend (d : RegNo) (r : List Reg) (t : Nat) : Opnd := ⟨r, [xs d], .pend, t⟩

/-- A short vector result under a predicate: a predicated operation reads its destination too (R322, R382). -/
def oVec (d : RegNo) (p : BitVec 4) (r : List Reg) : Opnd :=
  oShort [xv d] (if p = 0 then xp p :: r else xp p :: xv d :: r)

/-- A long vector result under a predicate. -/
def oVecL (d : RegNo) (p : BitVec 4) (r : List Reg) : Opnd :=
  oLong [xv d] (if p = 0 then xp p :: r else xp p :: xv d :: r)

/-- The data register of a C0 operation: s[D] for W 00, else v[D] (R315). -/
def xd (w : BitVec 2) (d : RegNo) : Reg := if w = 0 then xs d else xv d

/-- The registers of a drain: address, scales, and clamp bounds when CL is 1 (R314, R325). -/
def oDrain (sa sb : RegNo) (ea eb : BitVec 4) (cl : Bool) (ec : BitVec 4) : Opnd :=
  oNone ([xs sa, xe ea, xe eb] ++ if cl then [xe ec, .e (ec.toNat + 1)] else []) sb.toNat

/-- The operands of an operation (R322 to R327). Events have none. -/
def operands : Instr → Opnd
  | .nop => oNone [] 0
  | .add d a b => oShort [xs d] [xs a, xs b]
  | .addi d a _ => oShort [xs d] [xs a]
  | .sub d a b => oShort [xs d] [xs a, xs b]
  | .mul d a b => oShort [xs d] [xs a, xs b]
  | .mulh _ d a b => oShort [xs d] [xs a, xs b]
  | .div _ d a b => oLong [xs d] [xs a, xs b]
  | .rem _ d a b => oLong [xs d] [xs a, xs b]
  | .and d a b => oShort [xs d] [xs a, xs b]
  | .or d a b => oShort [xs d] [xs a, xs b]
  | .xor d a b => oShort [xs d] [xs a, xs b]
  | .andn d a b => oShort [xs d] [xs a, xs b]
  | .shlReg d a b => oShort [xs d] [xs a, xs b]
  | .shlImm d a _ => oShort [xs d] [xs a]
  | .shrReg d a b => oShort [xs d] [xs a, xs b]
  | .shrImm d a _ => oShort [xs d] [xs a]
  | .shaReg d a b => oShort [xs d] [xs a, xs b]
  | .shaImm d a _ => oShort [xs d] [xs a]
  | .rotlReg d a b => oShort [xs d] [xs a, xs b]
  | .rotlImm d a _ => oShort [xs d] [xs a]
  | .clz d a => oShort [xs d] [xs a]
  | .ctz d a => oShort [xs d] [xs a]
  | .popc d a => oShort [xs d] [xs a]
  | .min _ d a b => oShort [xs d] [xs a, xs b]
  | .max _ d a b => oShort [xs d] [xs a, xs b]
  | .cmp _ d a b => oShort [xs d] [xs a, xs b]
  | .sel d a b c => oShort [xs d] [xs a, xs b, xs c]
  | .li d _ => oShort [xs d] []
  | .mov d a => oShort [xs d] [xs a]
  | .sext _ d a => oShort [xs d] [xs a]
  | .zext _ d a => oShort [xs d] [xs a]
  | .bfx d a _ _ => oShort [xs d] [xs a]
  | .bfi d a _ _ => oShort [xs d] [xs a, xs d]
  | .lea d a b _ => oShort [xs d] [xs a, xs b]
  | .cvta d a b _ => oShort [xs d] [xs a, xs b]
  | .isap d a _ => oShort [xs d] [xs a]
  | .ld _ _ d a _ => oPend d [xs a] 0
  | .st _ d a _ => oNone [xs a, xs d] 0
  | .br _ => oNone [] 0
  | .brcEq a _ => oNone [xs a] 0
  | .brcNe a _ => oNone [xs a] 0
  | .call a _ => oShort [xs a] []
  | .ret a => oNone [xs a] 0
  | .jr a => oNone [xs a] 0
  | .loopImm _ _ => oNone [] 0
  | .loopReg _ a => oNone [xs a] 0
  | .lexit => oNone [] 0
  | .join d a => oShort [xs d] [xs a]
  | .leave a => oNone [xs a] 0
  | .cbar a => oNone [xs a] 0
  | .carr d a => oShort [xs d] [xs a]
  | .cwait a b => oNone [xs a, xs b] 0
  | .waitf _ _ a b => oNone [xs a, xs b] 0
  | .waitt a => oNone [xs a] 0
  | .csrr d _ => oShort [xs d] []
  | .csrw _ a => oNone [xs a] 0
  | .csrx d _ a => oShort [xs d] [xs a]
  | .ovtld a b => oNone [xs a, xs b] 0
  | .ropen d a b => oShort [xs d] [xs a, xs b]
  | .rprep d a => oShort [xs d] [xs a]
  | .rcmt d a => oShort [xs d] [xs a]
  | .rstat d a b => oShort [xs d] [xs a, xs b]
  | .rrevoke d a b => oShort [xs d] [xs a, xs b]
  | .protr d a b _ => oShort [xs d] [xs a, xs b]
  | .vadd _ _ d a b p => oVec d p [xv a, xv b]
  | .vsub _ _ d a b p => oVec d p [xv a, xv b]
  | .vmul _ _ d a b p => oVec d p [xv a, xv b]
  | .vfma _ _ d a b c p => oVec d p [xv a, xv b, xv c]
  | .vfms _ _ d a b c p => oVec d p [xv a, xv b, xv c]
  | .vmin _ _ d a b p => oVec d p [xv a, xv b]
  | .vmax _ _ d a b p => oVec d p [xv a, xv b]
  | .vabs _ _ d a p => oVec d p [xv a]
  | .vneg _ _ d a p => oVec d p [xv a]
  | .vrnd _ _ _ d a p => oVec d p [xv a]
  | .vcmp _ _ _ d a b p => oShort [xp d] [xp p, xv a, xv b]
  | .vsel _ _ d a b p => oVec d p [xv a, xv b]
  | .pand d a b => oShort [xp d] [xp a, xp b]
  | .por d a b => oShort [xp d] [xp a, xp b]
  | .pxor d a b => oShort [xp d] [xp a, xp b]
  | .pnot d a => oShort [xp d] [xp a]
  | .pcnt d a => oShort [xs d] [xp a]
  | .viadd _ _ _ d a b p => oVec d p [xv a, xv b]
  | .visub _ _ _ d a b p => oVec d p [xv a, xv b]
  | .vimul _ _ _ d a b p => oVec d p [xv a, xv b]
  | .vimad _ _ _ d a b c p => oVec d p [xv a, xv b, xv c]
  | .vshl _ _ d a b p => oVec d p [xv a, xv b]
  | .vshr _ _ d a b p => oVec d p [xv a, xv b]
  | .vsha _ _ d a b p => oVec d p [xv a, xv b]
  | .vand _ _ d a b p => oVec d p [xv a, xv b]
  | .vor _ _ d a b p => oVec d p [xv a, xv b]
  | .vxor _ _ d a b p => oVec d p [xv a, xv b]
  | .vimin _ _ d a b p => oVec d p [xv a, xv b]
  | .vimax _ _ d a b p => oVec d p [xv a, xv b]
  | .vexp2 _ _ d a p => oVecL d p [xv a]
  | .vlog2 _ _ d a p => oVecL d p [xv a]
  | .vrcp _ _ d a p => oVecL d p [xv a]
  | .vrsq _ _ d a p => oVecL d p [xv a]
  | .vtanh _ _ d a p => oVecL d p [xv a]
  | .vcvt _ _ _ _ d a p => oVec d p [xv a]
  | .vpacksx _ _ _ _ _ d a p => oVec d p [xv a]
  | .vunpk _ _ _ d a => oShort [xv d] [xv a]
  | .vperm _ _ d a b => oShort [xv d] [xv a, xv b]
  | .vbcast _ _ d a p => oVec d p [xs a]
  | .vmovsExtract _ _ d a _ => oShort [xs d] [xv a]
  | .vmovsInsert _ _ d a _ => oShort [xv d] [xs a, xv d]
  | .vmovv _ d a p => oVec d p [xv a]
  | .viota _ _ d a p => oVec d p [xs a]
  | .vreds _ _ _ d a p => oShort [xs d] [xp p, xv a]
  | .skqin _ _ d a p => oShort [xq d] [xq d, xv a, xp p]
  | .skhin _ _ d a p => oShort [xq d] [xq d, xv a, xp p]
  | .skdin _ _ d a p => oShort [xq d] [xq d, xv a, xp p]
  | .skmrg d a => oShort [xq d] [xq d, xq a]
  | .skqry d a b => oLong [xs d] [xq a, xs b]
  | .skrnk d a b => oLong [xs d] [xq a, xs b]
  | .skest d c a b => oLong [xs d, xs c] [xq a, xs b]
  | .sktop d c a b => oLong [xs d, xs c] [xq a, xs b]
  | .skclr _ d => oShort [xq d] []
  | .mmag _ _ _ _ _ _ _ sa => oNone [xs sa] 0
  | .mdrainScratchpad _ _ sa sb _ ea eb cl ec => oDrain sa sb ea eb cl ec
  | .mdrainGeneric _ _ sa sb _ ea eb cl ec => oDrain sa sb ea eb cl ec
  | .mldaccScratchpad _ _ sa sb => oNone [xs sa] sb.toNat
  | .mldaccGeneric _ _ sa sb => oNone [xs sa] sb.toNat
  | .mrcfg _ sa sb => oNone [xs sa, xs sb] 0
  | .mrpush _ sa => oNone [xs sa] 0
  | .spld _ w d a _ => oShort [xd w d] [xs a]
  | .spst _ w d a _ => oNone [xs a, xd w d] 0
  | .splds _ d a _ => oLong [xe d] [xs a]
  | .spldp _ _ d a p _ => oShort [xv d] [xs a, xv d, xp p]
  | .spstp _ _ d a p _ => oNone [xs a, xv d, xp p] 0
  | .skld d a _ => oShort [xq d] [xs a]
  | .skst d a _ => oNone [xs a, xq d] 0
  | .spfill _ a _ => oNone [xs a] 0
  | .spmap _ d a => oNone [xs d, xs a] 0
  | .spadd _ _ w d a _ => oNone [xs a, xd w d] 0
  | .cpy _ t a => oNone [xs a] t.toNat
  | .cpyr _ t a _ => oNone [xs a] t.toNat
  | .gath _ t a => oNone [xs a] t.toNat
  | .scat _ t a => oNone [xs a] t.toNat
  | .rld _ _ _ t a d _ => oPend d [xs a] t.toNat
  | .rst _ _ t a b _ => oNone [xs a, xs b] t.toNat
  | .rldt _ _ a d _ => oLong [xs d] [xs a]
  | .amo _ op _ t a b c d _ => oPend d ([xs a, xs b] ++ if op = .cas then [xs c] else []) t.toNat
  | .amoRsc _ t a b c d _ => oPend d [xs a, xs b, xs c] t.toNat
  | .skamo _ t a b _ => oNone [xs a, xs b] t.toNat
  | .cld t a b d _ => oPend d [xs a, xs b] t.toNat
  | .cst t a b c d _ => oPend d [xs a, xs b, xs c] t.toNat
  | .crcn _ t a b d _ => oPend d [xs a, xs b] t.toNat
  | .mcast _ t a b => oNone [xs a, xs b] t.toNat
  | .coll t a => oNone [xs a] t.toNat
  | .pfetch _ a _ => oNone [xs a] 0
  | _ => oNone [] 0

/-- Whether a register is one that is never checked: s0 and p0 are constants (R178). -/
def Reg.free : Reg → Bool
  | .s n => n == 0
  | .p n => n == 0
  | .v _ => false
  | .q _ => false
  | .e _ => false

/-- Which queues an operation enters at issue: S, C1 and M (R190, R240, R249). PFETCH and RLDT are done at issue, so that they need a free
entry and do not keep it. -/
def queuesOf : Instr → Bool × Bool × Bool
  | .ld _ _ _ _ _ => (true, false, false)
  | .st _ _ _ _ => (true, false, false)
  | .trig => (true, true, true)
  | .cbar _ => (true, true, true)
  | .carr _ _ => (true, true, true)
  | .cwait _ _ => (true, true, true)
  | .fence _ _ => (true, true, true)
  | .mma _ _ _ _ _ _ _ => (false, false, true)
  | .mmag _ _ _ _ _ _ _ _ => (false, false, true)
  | .mzero _ => (false, false, true)
  | .mdrainScratchpad _ _ _ _ _ _ _ _ _ => (false, false, true)
  | .mdrainGeneric _ _ _ _ _ _ _ _ _ => (false, false, true)
  | .mldaccScratchpad _ _ _ _ => (false, false, true)
  | .mldaccGeneric _ _ _ _ => (false, false, true)
  | .mrcfg _ _ _ => (false, false, true)
  | .mrpush _ _ => (false, false, true)
  | .mrpop _ => (false, false, true)
  | .mkat _ => (false, false, true)
  | .mkcmp _ _ => (false, false, true)
  | .cpy _ _ _ => (false, true, false)
  | .cpyr _ _ _ _ => (false, true, false)
  | .gath _ _ _ => (false, true, false)
  | .scat _ _ _ => (false, true, false)
  | .rld _ _ _ _ _ _ _ => (false, true, false)
  | .rst _ _ _ _ _ _ => (false, true, false)
  | .amo _ _ _ _ _ _ _ _ _ => (false, true, false)
  | .amoRsc _ _ _ _ _ _ _ => (false, true, false)
  | .skamo _ _ _ _ _ => (false, true, false)
  | .cld _ _ _ _ _ => (false, true, false)
  | .cst _ _ _ _ _ _ => (false, true, false)
  | .crcn _ _ _ _ _ _ => (false, true, false)
  | .mcast _ _ _ _ => (false, true, false)
  | .coll _ _ => (false, true, false)
  | .qfence => (false, true, false)
  | .rldt _ _ _ _ _ => (false, true, false)
  | .pfetch _ _ _ => (false, true, false)
  | _ => (false, false, false)

/-- Whether an operation carries K (R192). -/
def stickyOf : Instr → Bool
  | .mma k _ _ _ _ _ _ => k
  | .mmag k _ _ _ _ _ _ _ => k
  | .mdrainScratchpad k _ _ _ _ _ _ _ _ => k
  | .mdrainGeneric k _ _ _ _ _ _ _ _ => k
  | .mldaccScratchpad k _ _ _ => k
  | .mldaccGeneric k _ _ _ => k
  | .spld k _ _ _ _ => k
  | .spst k _ _ _ _ => k
  | .splds k _ _ _ => k
  | .spldp k _ _ _ _ _ => k
  | .spstp k _ _ _ _ _ => k
  | .spfill k _ _ => k
  | .spadd k _ _ _ _ _ => k
  | .cpy k _ _ => k
  | .cpyr k _ _ _ => k
  | .gath k _ _ => k
  | .scat k _ _ => k
  | .rld k _ _ _ _ _ _ => k
  | .rst k _ _ _ _ _ => k
  | .rldt k _ _ _ _ => k
  | .amo k _ _ _ _ _ _ _ _ => k
  | .amoRsc k _ _ _ _ _ _ => k
  | .pfetch k _ _ => k
  | _ => false

/-- The width in bytes of a C0 access (R315). -/
def c0Width (w : BitVec 2) : Nat := if w = 0 then 4 else 16 * 2 ^ w.toNat

/-- The scratchpad offset of a C0 operation before any step: base plus a signed offset in units of the width, modulo 2^20 (R315). -/
def c0Offset (base : Word64) (off : Int) (unit : Nat) : Nat := ofInt (base.toNat + off * unit) 20

/-- The generic address of a C1 operation: base plus a signed byte offset (R316). -/
def c1Address (base : Word64) (off : BitVec 13) : Word64 := base + BitVec.ofInt 64 off.toInt

/-- The generic address of LD or ST: base plus the offset of R312 in units of the width (R358). -/
def sAddress (base : Word64) (off : ExtImm 9) (w : BitVec 2) : Word64 := base + BitVec.ofInt 64 (immValue off * 2 ^ w.toNat)

/-- A branch target: the bundle's own address plus a signed offset in words (R361). -/
def branchTarget (pc : Word64) (off : ExtImm 17) : Word64 := pc + BitVec.ofInt 64 (immValue off * 4)

end Sys2Proof.Machine
end

