-- ==== Sys2Proof/Machine/Scalar.lean ====
section
/-!
DEFINITION. Scalar arithmetic, comparison, moves, address arithmetic, and the scalar loads and stores: rules R346 to R359.
-/

namespace Sys2Proof.Machine

/-- What a meaning answers. -/
abbrev Out := Host.Outcome State Fault Refusal

/-! ## Shared arithmetic -/

/-- Lesser of two words, signed or natural (R348). -/
def minWord (nat : Bool) (a b : Word64) : Word64 := if (if nat then a.ult b else a.slt b) then a else b

/-- Greater of two words, signed or natural (R348). -/
def maxWord (nat : Bool) (a b : Word64) : Word64 := if (if nat then a.ult b else a.slt b) then b else a

/-- The high 64 bits of a product (R348). -/
def mulHigh (nat : Bool) (a b : Word64) : Word64 :=
  if nat then BitVec.ofNat 64 (a.toNat * b.toNat / 2 ^ 64) else BitVec.ofInt 64 (a.toInt * b.toInt / 2 ^ 64)

/-- Quotient and remainder with the two special cases of R349. -/
def divRem (nat : Bool) (a b : Word64) : Word64 × Word64 :=
  if b = 0 then (BitVec.allOnes 64, a)
  else if nat then (BitVec.ofNat 64 (a.toNat / b.toNat), BitVec.ofNat 64 (a.toNat % b.toNat))
  else if a.toInt = -2 ^ 63 && b.toInt = -1 then (a, 0)
  else (BitVec.ofInt 64 (a.toInt.tdiv b.toInt), BitVec.ofInt 64 (a.toInt.tmod b.toInt))

/-- Left shift; 64 or more gives 0 (R350). -/
def shl (a : Word64) (c : Nat) : Word64 := if c ≥ 64 then 0 else a <<< c

/-- Logical right shift; 64 or more gives 0 (R350). -/
def shr (a : Word64) (c : Nat) : Word64 := if c ≥ 64 then 0 else a >>> c

/-- Arithmetic right shift; 64 or more gives 64 copies of the sign (R350). -/
def sha (a : Word64) (c : Nat) : Word64 := if c ≥ 64 then (if a.msb then BitVec.allOnes 64 else 0) else a.sshiftRight c

/-- Rotation left by `c` modulo 64 (R350). -/
def rotl (a : Word64) (c : Nat) : Word64 := a.rotateLeft (c % 64)

/-- Leading zeros of an `n`-bit value, counted from its top bit (R348). -/
def clzNat (x : Nat) : Nat → Nat
  | 0 => 0
  | n + 1 => if bit x n then 0 else 1 + clzNat x n

/-- Trailing zeros of a value among `n` bits (R348). -/
def ctzNat (x : Nat) : Nat → Nat
  | 0 => 0
  | n + 1 => if x % 2 = 1 then 0 else 1 + ctzNat (x / 2) n

/-- Whether a condition holds of two words (R318, R351). -/
def condHolds (c : Cond) (a b : Word64) : Bool :=
  match c with
  | .eq => a == b
  | .ne => a != b
  | .lt => a.slt b
  | .le => a.sle b
  | .nlt => a.ult b
  | .nle => a.ule b

/-! ## Region maps as CVTA reads them (R224, R356) -/

/-- Whether a region-map entry is valid. -/
def mapValid (w : Word64 × Word64) : Bool := bit w.1.toNat 63
/-- Whether its dirty blocks are written back: WB. -/
def mapWb (w : Word64 × Word64) : Bool := bit w.1.toNat 62
/-- First virtual address of the global range. -/
def mapGva (w : Word64 × Word64) : Nat := fld w.1.toNat 12 40 * 4096
/-- Length in blocks of 4 KiB. -/
def mapBlocks (w : Word64 × Word64) : Nat := fld w.2.toNat 32 9
/-- First scratchpad block. -/
def mapSp (w : Word64 × Word64) : Nat := fld w.2.toNat 16 8

/-- Region-map entry `n`. -/
def Thread.map (t : Thread) (n : Nat) : Word64 × Word64 := Tab.get (0, 0) t.b.maps n

/-- The valid entry whose window holds a scratchpad offset. -/
def Thread.mapOfOffset (t : Thread) (o : Nat) : Option (Nat × Word64 × Word64) :=
  firstWhere (fun e : Nat × Word64 × Word64 => mapValid e.2 && decide (mapSp e.2 ≤ o / 4096) &&
    decide (o / 4096 < mapSp e.2 + mapBlocks e.2)) t.b.maps

/-- The valid entry whose global range holds a virtual address. -/
def Thread.mapOfVa (t : Thread) (va : Nat) : Option (Nat × Word64 × Word64) :=
  firstWhere (fun e : Nat × Word64 × Word64 => mapValid e.2 && decide (mapGva e.2 ≤ va) &&
    decide (va < mapGva e.2 + mapBlocks e.2 * 4096)) t.b.maps

/-- The global address a region map gives a scratchpad offset. -/
def mapToVa (w : Word64 × Word64) (o : Nat) : Nat := mapGva w + (o - mapSp w * 4096)

/-- The value CVTA gives for an input it cannot convert. -/
def cvtaFail : Word64 := BitVec.allOnes 64

/-- The value of CVTA (R356). -/
def cvtaValue (t : Thread) (core : Nat) (a b : Word64) (dir : Nat) : Word64 :=
  let x := a.toNat
  let ap := fld x 60 4
  match dir with
  | 0 =>
    if ap = 0 && fld x 52 8 = 0 then match t.mapOfVa (fld x 0 52) with
      | some (_, w) => BitVec.ofNat 64 (2 ^ 60 + mapSp w * 4096 + (fld x 0 52 - mapGva w))
      | none => cvtaFail
    else cvtaFail
  | 1 =>
    if ap = 1 && fld x 20 40 = 0 then match t.mapOfOffset (fld x 0 20) with
      | some (_, w) => BitVec.ofNat 64 (mapToVa w (fld x 0 20))
      | none => cvtaFail
    else cvtaFail
  | 2 => if ap = 1 && fld x 20 40 = 0 && b.toNat < 8 then BitVec.ofNat 64 (2 ^ 61 + b.toNat * 2 ^ 20 + fld x 0 20) else cvtaFail
  | _ => if ap = 2 && fld x 23 37 = 0 && fld x 20 3 = core % 8 then BitVec.ofNat 64 (2 ^ 60 + fld x 0 20) else cvtaFail

/-- Whether the bits that an aperture requires to be zero are zero (R203). -/
def apertureZero (x ap : Nat) : Bool :=
  match ap with
  | 0 => fld x 52 8 == 0
  | 1 => fld x 20 40 == 0
  | 2 => fld x 23 37 == 0
  | 3 => fld x 58 2 == 0
  | 4 => fld x 42 18 == 0
  | _ => false

/-! ## Meanings: arithmetic and logic (R348) -/

/-- NOP: does nothing beyond being issued (R320). -/
def execNop (s : State) : Out := .next s

/-- ADD (R348). -/
def execAdd (d a b : RegNo) (s : State) : Out := .next (s.wrS d (s.rdS a + s.rdS b))

/-- ADDI (R348). -/
def execAddi (d a : RegNo) (imm : ExtImm 12) (s : State) : Out := .next (s.wrS d (s.rdS a + BitVec.ofInt 64 (immValue imm)))

/-- SUB (R348). -/
def execSub (d a b : RegNo) (s : State) : Out := .next (s.wrS d (s.rdS a - s.rdS b))

/-- MUL: low 64 bits (R348). -/
def execMul (d a b : RegNo) (s : State) : Out := .next (s.wrS d (s.rdS a * s.rdS b))

/-- MULH (R348). -/
def execMulh (nat : Bool) (d a b : RegNo) (s : State) : Out := .next (s.wrS d (mulHigh nat (s.rdS a) (s.rdS b)))

/-- DIV: long class, landing count 24 (R349). -/
def execDiv (nat : Bool) (d a b : RegNo) (s : State) : Out := .next (s.landS 0 d (divRem nat (s.rdS a) (s.rdS b)).1 24)

/-- REM: long class, landing count 24 (R349). -/
def execRem (nat : Bool) (d a b : RegNo) (s : State) : Out := .next (s.landS 0 d (divRem nat (s.rdS a) (s.rdS b)).2 24)

/-- AND (R348). -/
def execAnd (d a b : RegNo) (s : State) : Out := .next (s.wrS d (s.rdS a &&& s.rdS b))

/-- OR (R348). -/
def execOr (d a b : RegNo) (s : State) : Out := .next (s.wrS d (s.rdS a ||| s.rdS b))

/-- XOR (R348). -/
def execXor (d a b : RegNo) (s : State) : Out := .next (s.wrS d (s.rdS a ^^^ s.rdS b))

/-- ANDN (R348). -/
def execAndn (d a b : RegNo) (s : State) : Out := .next (s.wrS d (s.rdS a &&& ~~~ s.rdS b))

/-- SHL, register form (R350). -/
def execShlReg (d a b : RegNo) (s : State) : Out := .next (s.wrS d (shl (s.rdS a) (s.rdS b).toNat))

/-- SHL, immediate form (R350). -/
def execShlImm (d a : RegNo) (n : BitVec 6) (s : State) : Out := .next (s.wrS d (shl (s.rdS a) n.toNat))

/-- SHR, register form (R350). -/
def execShrReg (d a b : RegNo) (s : State) : Out := .next (s.wrS d (shr (s.rdS a) (s.rdS b).toNat))

/-- SHR, immediate form (R350). -/
def execShrImm (d a : RegNo) (n : BitVec 6) (s : State) : Out := .next (s.wrS d (shr (s.rdS a) n.toNat))

/-- SHA, register form (R350). -/
def execShaReg (d a b : RegNo) (s : State) : Out := .next (s.wrS d (sha (s.rdS a) (s.rdS b).toNat))

/-- SHA, immediate form (R350). -/
def execShaImm (d a : RegNo) (n : BitVec 6) (s : State) : Out := .next (s.wrS d (sha (s.rdS a) n.toNat))

/-- ROTL, register form (R350). -/
def execRotlReg (d a b : RegNo) (s : State) : Out := .next (s.wrS d (rotl (s.rdS a) (s.rdS b).toNat))

/-- ROTL, immediate form (R350). -/
def execRotlImm (d a : RegNo) (n : BitVec 6) (s : State) : Out := .next (s.wrS d (rotl (s.rdS a) n.toNat))

/-- CLZ (R348). -/
def execClz (d a : RegNo) (s : State) : Out := .next (s.wrS d (BitVec.ofNat 64 (clzNat (s.rdS a).toNat 64)))

/-- CTZ (R348). -/
def execCtz (d a : RegNo) (s : State) : Out := .next (s.wrS d (BitVec.ofNat 64 (ctzNat (s.rdS a).toNat 64)))

/-- POPC (R348). -/
def execPopc (d a : RegNo) (s : State) : Out := .next (s.wrS d (BitVec.ofNat 64 (popcount (s.rdS a).toNat 64)))

/-- MIN (R348). -/
def execMin (nat : Bool) (d a b : RegNo) (s : State) : Out := .next (s.wrS d (minWord nat (s.rdS a) (s.rdS b)))

/-- MAX (R348). -/
def execMax (nat : Bool) (d a b : RegNo) (s : State) : Out := .next (s.wrS d (maxWord nat (s.rdS a) (s.rdS b)))

/-- CMP (R351). -/
def execCmp (c : Cond) (d a b : RegNo) (s : State) : Out := .next (s.wrS d (if condHolds c (s.rdS a) (s.rdS b) then 1 else 0))

/-- SEL (R352). -/
def execSel (d a b c : RegNo) (s : State) : Out := .next (s.wrS d (if s.rdS c = 0 then s.rdS b else s.rdS a))

/-- LI (R353). -/
def execLi (d : RegNo) (imm : ExtImm 12) (s : State) : Out := .next (s.wrS d (BitVec.ofInt 64 (immValue imm)))

/-- MOV (R353). -/
def execMov (d a : RegNo) (s : State) : Out := .next (s.wrS d (s.rdS a))

/-- SEXT (R353). -/
def execSext (w : ExtWidth) (d a : RegNo) (s : State) : Out := .next (s.wrS d (sext64 (s.rdS a).toNat (extBits w)))

/-- ZEXT (R353). -/
def execZext (w : ExtWidth) (d a : RegNo) (s : State) : Out := .next (s.wrS d (zext64 (s.rdS a).toNat (extBits w)))

/-- BFX: `l` bits from position `p`; the field holds l − 1 (R354). -/
def execBfx (d a : RegNo) (p l : BitVec 6) (s : State) : Out :=
  .next (s.wrS d (BitVec.ofNat 64 (fld (s.rdS a).toNat p.toNat (l.toNat + 1))))

/-- BFI (R354). -/
def execBfi (d a : RegNo) (p l : BitVec 6) (s : State) : Out :=
  .next (s.wrS d (BitVec.ofNat 64 (putFld (s.rdS d).toNat p.toNat (l.toNat + 1) (s.rdS a).toNat)))

/-- LEA (R355). -/
def execLea (d a b : RegNo) (n : BitVec 2) (s : State) : Out := .next (s.wrS d (s.rdS a + (s.rdS b <<< n.toNat)))

/-- CVTA (R356). -/
def execCvta (d a b : RegNo) (dir : BitVec 2) (s : State) : Out :=
  .next (s.wrS d (cvtaValue s.src.th (coreOf s.src.focus) (s.rdS a) (s.rdS b) dir.toNat))

/-- ISAP (R357). -/
def execIsap (d a : RegNo) (ap : BitVec 4) (s : State) : Out :=
  .next (s.wrS d (if fld (s.rdS a).toNat 60 4 = ap.toNat && apertureZero (s.rdS a).toNat ap.toNat then 1 else 0))

/-- LD: enters the S queue and makes its destination pending (R359). -/
def execLd (sx : Bool) (w : BitVec 2) (d a : RegNo) (off : ExtImm 9) (s : State) : Out :=
  .next (s.upd fun t =>
    let (n, t) := t.tick
    (t.addPend d.toNat).enterS ⟨.load sx d.toNat, 2 ^ w.toNat, sAddress (s.rdS a) off w, .none, !s.src.th.system, none, n⟩)

/-- ST: enters the S queue with the low bytes of sD (R359). -/
def execSt (w : BitVec 2) (d a : RegNo) (off : ExtImm 9) (s : State) : Out :=
  .next (s.upd fun t =>
    let (n, t) := t.tick
    t.enterS ⟨.store (s.rdS d), 2 ^ w.toNat, sAddress (s.rdS a) off w, .none, !s.src.th.system, none, n⟩)

end Sys2Proof.Machine
end

