-- ==== Sys2Proof/Machine/Control.lean ====
section
/-!
DEFINITION. Branches, calls, hardware loops, triggers, HALT, WAITT and fences: rules R195, R196, R361 to R364, R373, R375, R377 to
R379.
-/

namespace Sys2Proof.Machine

/-! ## Code as the sequencer reads it -/

/-- First address of a loop body. -/
def Loop.first (l : Loop) : Nat := l.body.headD l.after

/-- Whether an address lies in a loop body. -/
def Loop.holds (l : Loop) (va : Nat) : Bool := decide (l.first ≤ va) && decide (va < l.after)

/-- Code bytes of one page: through translation with X, at the thread's level. A byte that the instruction cache holds is read from there, and
the others are read at their homes and kept there (R215, R321). The further issues of a repeated bundle are not translated again (R319). -/
def Module.codePiece (m : Module) (cx va n : Nat) : Except Stop (List Byte × Module) :=
  let t := m.ctx cx
  let kept := (range' va n).map fun a => Tab.get none t.u.icode a
  if t.u.rep.isSome && kept.all Option.isSome then .ok (kept.map fun e => e.getD 0, m)
  else if fld va 52 12 ≠ 0 then .error (.fault Cause.addrAperture va)
  else match translate m (dieOfCore (coreOf cx)) (some (clusterOf (coreOf cx))) t.asid va .fetch (!t.system) with
    | .error c => .error (stopOf c va)
    | .ok (ph, m1) =>
      if kept.all Option.isSome then .ok (kept.map fun e => e.getD 0, m1)
      else match foldStop (fun l q => match m1.readHome ph va q.2.1 q.2.2 with
          | .ok bs => .ok (l ++ bs)
          | .error e => .error e) (halfPieces ph.pa n) [] with
        | .error e => .error e
        | .ok new =>
          let bs := (kept.zip new).map fun e => e.1.getD e.2
          .ok (bs, m1.modCtx cx fun t => t.modU fun u =>
            { u with icode := ((range' va n).zip bs).foldl (fun c e => Tab.set none c e.1 (some e.2)) u.icode })

/-- Code bytes: those of an active loop body come from the loop buffer (R195), others are fetched. -/
def Module.codeBytes (m : Module) (cx va n : Nat) : Except Stop (List Byte × Module) :=
  match firstWhere (fun l : Loop => l.holds va) (m.ctx cx).u.loops with
  | some l => .ok (Tab.bytes l.code va n, m)
  | none =>
    foldStop (fun (acc : List Byte × Module) p => match acc.2.codePiece cx p.2.1 p.2.2 with
        | .error c => .error c
        | .ok (b, m1) => .ok (acc.1 ++ b, m1)) (pagePieces va n) ([], m)

/-- The addresses of a bundle that is repeating at an address, as the instruction cache holds it (R305). -/
def Thread.repeating (t : Thread) (pc : Nat) : Nat → Bool :=
  let word := fun a : Nat => leNat ((range' a 4).map fun b => (Tab.get none t.u.icode b).getD 0)
  let n := bundleLen (word pc) (word (pc + 4))
  fun a => decide (pc ≤ a) && decide (a < pc + n)

/-- An acquire invalidates the thread's instruction cache (R321), but for a bundle whose further issues are still to come, here or in the trap frame
(R319). -/
def Thread.dropCode (t : Thread) : Thread :=
  let here : Nat → Bool := if t.u.rep.isSome then t.repeating t.pc.toNat else fun _ => false
  let there : Nat → Bool := match t.u.frame with
    | some f => if f.rep.isSome then t.repeating f.epc.toNat else fun _ => false
    | none => fun _ => false
  t.modU fun u => { u with icode := Tab.drop (fun a => !(here a || there a)) u.icode }

/-- Length of the bundle at an address, from its header and S syllable (R305, R308). -/
def Module.bundleLenAt (m : Module) (cx va : Nat) : Except Stop (Nat × Module) :=
  match m.codeBytes cx va 4 with
  | .error e => .error e
  | .ok (hb, m1) =>
    let h := leNat hb
    if hdrKind h = 1 then .ok (4, m1)
    else match m1.codeBytes cx (va + 4) 4 with
      | .error e => .error e
      | .ok (sb, m2) => .ok (bundleLen h (leNat sb), m2)

/-- Addresses of `n` bundles from an address on, and the address after them. -/
def Module.scan (m : Module) (cx : Nat) : Nat → Nat → Except Stop (List Nat × Nat × Module)
  | 0, va => .ok ([], va, m)
  | n + 1, va => match m.bundleLenAt cx va with
    | .error e => .error e
    | .ok (k, m1) => match Module.scan m1 cx n (va + k) with
      | .error e => .error e
      | .ok (l, e, m2) => .ok (va :: l, e, m2)

/-- What LOOP captures of a body of `n` bundles: their addresses, the address after them, and their bytes (R195). A body that cannot be read stops
the LOOP as a fetch of its own would (log entry 18). -/
def Module.capture (m : Module) (cx n : Nat) : Except Stop (List Nat × Nat × Tab Byte × Module) :=
  let first := (m.ctx cx).u.ir.after.toNat
  match m.scan cx n first with
  | .error e => .error e
  | .ok (body, after, m1) => match m1.codeBytes cx first (after - first) with
    | .error e => .error e
    | .ok (bs, m2) => .ok (body, after, Tab.putBytes [] first bs, m2)

/-- How the sequencer of a context reads code. -/
def Module.codeAcc (m : Module) (cx : Nat) : Acc :=
  ⟨dieOfCore (coreOf cx), (m.ctx cx).asid, coreOf cx, !(m.ctx cx).system, false, false, false, none⟩

/-- Stops the thread at its bundle for what a read, a fill or code needs; a fault is precise, and so is the answer that there is no page (R198, R376). -/
def State.bundleStop (s : State) (a : Acc) (kind : PfKind) (st : Stop) : State :=
  match st with
  | .fault c x => s.fault c (BitVec.ofNat 64 x)
  | st => s.holdM fun m =>
      let (w, m1) := m.askStop a kind st
      m1.modTh fun t => t.modU fun u => { u with pf := w }

/-! ## Loop levels -/

/-- Steps every level whose body ends at an address, innermost first, as if its last bundle had issued and taken no branch
(R195, R364); answers the levels left and where issue continues. -/
def stepLoops : List Loop → Nat → List Loop × Nat
  | [], e => ([], e)
  | l :: ls, e =>
    if l.after = e then (if l.left ≤ 1 then stepLoops ls e else ({ l with left := l.left - 1 } :: ls, l.first)) else (l :: ls, e)

/-- Goes to an address after this bundle. -/
def State.goto (s : State) (a : Nat) : State := s.upd fun t => { t with next := some (BitVec.ofNat 64 a) }

/-- A taken BR, BRC or JR: inside a loop body its target must lie in the innermost body (R196). -/
def State.branch (s : State) (target : Word64) : State :=
  match s.src.th.u.loops with
  | [] => s.goto target.toNat
  | l :: _ => if l.holds target.toNat then s.goto target.toNat else s.fault Cause.loopBranch target

/-- A jump to a register value: bits [1:0] must be zero (R320, R362). -/
def State.jump (s : State) (target : Word64) : State :=
  if target.toNat % 4 = 0 then s.branch target else s.fault Cause.addrAlign target

/-- LOOP whose body has been captured: opens a level, or skips the body where the count is 0 (R195, R363). -/
def State.enterLoop (s : State) (count : Nat) (body : List Nat) (after : Nat) (code : Tab Byte) : State :=
  let t := s.src.th
  let nested := match t.u.loops with
    | [] => true
    | l :: _ => decide (after ≤ l.after)
  if t.u.loops.length ≥ 6 || !nested then s.faultHdr Cause.loopNest
  else if count = 0 then
    let (ls, a) := stepLoops t.u.loops after
    (s.upd fun t => t.modU fun u => { u with loops := ls }).goto a
  else s.upd fun t => t.modU fun u => { u with loops := ⟨body, after, count, code⟩ :: u.loops }

/-- The address of an absent page, and anything else as it is. -/
def Stop.pageAt : Stop → Option Nat
  | .page va _ => some va
  | .imported va => some va
  | .fault _ _ => none
  | .part _ _ _ _ => none
  | .snoop _ => none
  | .fill _ _ => none
  | .wait => none

/-- LOOP: captures its body and opens a level (R195, R363). Meadow services an absent page of the body before the bundle issues (R198). -/
def State.openLoop (s : State) (len count : Nat) : State :=
  match s.now.capture s.now.focus len with
  | .ok (body, after, code, m1) => (s.on fun _ => m1).enterLoop count body after code
  | .error st => match st.pageAt, s.back.th.u.pf.cause with
    | some va, some c => s.fault c (BitVec.ofNat 64 va)
    | _, _ => s.bundleStop (s.now.codeAcc s.now.focus) .fetch st

/-! ## Meanings -/

/-- BR (R361). -/
def execBr (off : ExtImm 17) (s : State) : Out := .next (s.branch (branchTarget s.src.th.pc off))

/-- BRC.eq: taken when sA is 0 (R361). -/
def execBrcEq (a : RegNo) (off : ExtImm 17) (s : State) : Out :=
  .next (if s.rdS a = 0 then s.branch (branchTarget s.src.th.pc off) else s)

/-- BRC.ne: taken when sA is not 0 (R361). -/
def execBrcNe (a : RegNo) (off : ExtImm 17) (s : State) : Out :=
  .next (if s.rdS a = 0 then s else s.branch (branchTarget s.src.th.pc off))

/-- CALL: the link register takes the address after this bundle (R361). -/
def execCall (a : RegNo) (off : ExtImm 17) (s : State) : Out :=
  let target := branchTarget s.src.th.pc off
  .next (if s.src.th.u.loops = [] then
      (if target.toNat % 4 = 0 then (s.wrS a s.src.th.u.ir.after).goto target.toNat else s.fault Cause.addrAlign target)
    else s.fault Cause.loopBranch target)

/-- RET: as JR, but never inside a loop body (R196, R361). -/
def execRet (a : RegNo) (s : State) : Out :=
  .next (if s.src.th.u.loops = [] || (s.rdS a).toNat % 4 != 0 then s.jump (s.rdS a) else s.fault Cause.loopBranch (s.rdS a))

/-- JR (R361). -/
def execJr (a : RegNo) (s : State) : Out := .next (s.jump (s.rdS a))

/-- LOOP with an immediate count (R363). -/
def execLoopImm (len : BitVec 6) (cnt : ExtImm 12) (s : State) : Out := .next (s.openLoop (len.toNat + 1) (immNatural cnt))

/-- LOOP with a count from a register (R363). -/
def execLoopReg (len : BitVec 6) (a : RegNo) (s : State) : Out := .next (s.openLoop (len.toNat + 1) (s.rdS a).toNat)

/-- LEXIT: leaves the innermost level (R195, R364). -/
def execLexit (s : State) : Out :=
  match s.src.th.u.loops with
  | [] => .next (s.faultHdr Cause.loopNest)
  | l :: ls =>
    let (ls', a) := stepLoops ls l.after
    .next ((s.upd fun t => t.modU fun u => { u with loops := ls' }).goto a)

/-- Enters one marker into each of the S, C1 and M queues (R240, R249). -/
def Thread.enterMarkers (t : Thread) (ks : SKind) (kc : C1Kind) (km : MKind) : Thread :=
  let (n, t) := t.tick
  ((t.enterS ⟨ks, 0, 0, .none, !t.system, none, n⟩).enterC1 (t.c1Entry kc 0 0 n false)).enterM { t.mEntry km 0 0 with serial := n }

/-- TRIG: the first enters the markers that count for the trigger, a later one plain release markers (R373). -/
def execTrig (s : State) : Out :=
  .next (s.upd fun t =>
    if t.u.trigged then t.enterMarkers (.marker .rel .device) (.marker .rel .device) (.marker .rel .device)
    else (t.modU fun u => { u with trigged := true }).enterMarkers .trigMark .trigMark .trigMark)

/-- HALT: the thread drains once its bundle has issued; the end of the issue disarms its sticky operations and discards its landings (R375). -/
def execHalt (s : State) : Out := .next (s.upd fun t => { t with status := .halting })

/-- The limit of WAITF and WAITT; 0 acts as 1 (R378). -/
def Thread.waitLimit (t : Thread) : Nat := Nat.max 1 (fld t.csr.waitlim.toNat 0 32)

/-- Whether a wait of the thread in a context has lasted WAITLIM cycles of its core (R15, R16, R378). -/
def Module.waitOver (m : Module) (cx : Nat) : Bool :=
  match (m.ctx cx).u.waitFrom with
  | none => false
  | some w => decide (w.1 + (m.ctx cx).waitLimit ≤ m.coreClock (coreOf cx))

/-- The wait of the focused thread begins, unless it has begun: the core's count of cycles, and the EDATA of its WAIT_STALL (R378). -/
def Module.waitBegins (m : Module) (datum : Word64) : Module :=
  m.modTh fun t => t.modU fun u => { u with waitFrom := some (u.waitFrom.getD (m.coreClock (coreOf m.focus), datum)) }

/-- Holds a waiting bundle with a change of the module, or raises WAIT_STALL when the limit is reached (R378). -/
def State.waitOnM (s : State) (datum : Word64) (f : Module → Module) : State :=
  if s.back.waitOver s.back.focus then s.fault Cause.waitStall datum else s.holdM fun m => (f m).waitBegins datum

/-- Goes on waiting at this bundle, or raises WAIT_STALL when the limit is reached (R378). -/
def State.waitOn (s : State) (datum : Word64) : State := s.waitOnM datum fun m => m

/-- WAITT: holds the bundle until sA is not pending (R377); the C1 operation that this bundle replaces is no longer armed (R193). -/
def execWaitt (a : RegNo) (s : State) : Out :=
  .next (if a = 0 then s
    else if s.now.th.u.armC1.any fun x => x.token == a.toNat then s.faultHdr Cause.tokenArmed
    else if s.now.th.u.pend.contains a.toNat then s.waitOn 0
    else s)

/-- FENCE: one marker in each queue (R240, R379). -/
def execFence (k : FenceKind) (sc : Scope) (s : State) : Out :=
  .next (s.upd fun t => t.enterMarkers (.marker k sc) (.marker k sc) (.marker k sc))

end Sys2Proof.Machine
end

