-- ==== Sys2Proof/Machine/Crew.lean ====
section
/-!
DEFINITION. Crews: membership, arrivals, phases, waits, unreachable phases and CBSTAT: rules R242 and R365 to R372. The release of an
arrival is a marker in the thread's queues; the phase completes when the release has been performed (log entry 20).
-/

namespace Sys2Proof.Machine

/-! ## Phases -/

/-- How far a phase lies ahead of the phase counter, modulo 2^32. -/
def Crew.ahead (c : Crew) (x : BitVec 32) : Nat := (x - c.phase).toNat

/-- Whether a phase is complete (R369). -/
def Crew.done (c : Crew) (x : BitVec 32) : Bool := decide (1 ≤ (c.phase - x).toNat) && decide ((c.phase - x).toNat ≤ 2 ^ 31)

/-- A member of a crew. -/
def Crew.member (c : Crew) (tid : Nat) : Option Member := firstWhere (fun e : Member => e.tid == tid) c.members

/-- The lowest incomplete phase at which a thread has not arrived (R366). -/
def Crew.nextOf (c : Crew) (tid : Nat) : BitVec 32 := ((c.member tid).map (·.nextPhase)).getD c.phase

/-- Whether every arrival that the current phase expects has been made (R366, R368). -/
def Crew.full (c : Crew) : Bool :=
  (!c.members.isEmpty || !c.bound.isEmpty) && c.members.all (fun e => e.nextPhase != c.phase) && !c.bound.contains c.phase &&
    c.releases.all fun e => e.2 != c.phase

/-- Completes phases while every expected arrival has been made. A member is at most two phases ahead, so four steps suffice. -/
def Crew.advance : Nat → Crew → Crew
  | 0, c => c
  | n + 1, c => if c.full then Crew.advance n { c with phase := c.phase + 1 } else c

/-- Keeps the poison marks of the last eight completed phases and of those still incomplete (R371). -/
def Crew.prune (c : Crew) : Crew := { c with poison := c.poison.filter fun e => !c.done e.1 || decide ((c.phase - e.1).toNat ≤ 8) }

/-- Settles a crew after a change: phases complete, and a crew without members is dissolved, its handle free once its bound jobs have
arrived (R368). -/
def Crew.settle (c : Crew) : Crew :=
  let c1 := (c.advance 4).prune
  if c1.members.isEmpty then (if c1.bound.isEmpty then Crew.free else { c1 with inForce := false, releases := [] }) else c1

/-- The thread of a launch with a TID, by its context. -/
def Module.ctxOfTid (m : Module) (launch tid : Nat) : Option Nat :=
  (firstWhere (fun e : Nat × Thread => e.2.status != .empty && e.2.launch == launch && fld e.2.csr.tid.toNat 0 10 == tid) m.cx.ctxs).map (·.1)

/-- The TID of a thread. -/
def Thread.tidN (t : Thread) : Nat := fld t.csr.tid.toNat 0 10

/-! ## Unreachable phases (R370) -/

/-- The phase of crew `h` that a thread is held on. -/
def Thread.heldOn (t : Thread) (h : Nat) : Option (BitVec 32) :=
  match t.u.crewWait, t.u.cwait with
  | some (g, x), _ => if g = h then some x else none
  | none, some (g, x) => if g = h then some x else none
  | none, none => none

/-- The threads held on phases of a crew: context, TID and phase. -/
def Module.heldIn (m : Module) (h : Nat) : List (Nat × Nat × BitVec 32) :=
  (m.cx.ctxs.filter fun e => e.2.status != .empty && e.2.launch == (m.crew h).launch).filterMap fun e =>
    (e.2.heldOn h).map fun x => (e.1, e.2.tidN, x)

/-- DETAIL of CREW_UNREACHABLE. -/
def unreachDetail (h : Nat) (y : BitVec 32) : BitVec 25 := BitVec.ofNat 25 (h % 1024 + y.toNat % 2 ^ 15 * 1024)

/-- EDATA of CREW_UNREACHABLE: handle and phase (R493). -/
def unreachDatum (h : Nat) (y : BitVec 32) : Word64 := BitVec.ofNat 64 (h % 1024 + y.toNat * 2 ^ 32)

/-- A thread takes CREW_UNREACHABLE: a CBAR at its boundary, its arrival kept; a CWAIT or a held arrival at its own bundle. -/
def Thread.unreach (t : Thread) (h : Nat) (y : BitVec 32) : Thread :=
  match t.u.crewWait with
  | some _ => t.modU fun u => { u with crewWait := none, held := ⟨Cause.crewUnreachable, unreachDetail h y, unreachDatum h y, .A⟩ :: u.held }
  | none => t.modU fun u => { u with cwait := none, crewFault := some (h, y) }

/-- The lowest unreachable phase of a crew: some member held on it or beyond has not arrived at it. -/
def Module.unreachable (m : Module) (h : Nat) : Option (BitVec 32) :=
  let c := m.crew h
  (m.heldIn h).foldl (fun acc e =>
    let y := c.nextOf e.2.1
    if !c.done e.2.2 && decide (c.ahead y ≤ c.ahead e.2.2) then match acc with
      | some z => if c.ahead y < c.ahead z then some y else some z
      | none => some y
    else acc) none

/-- The check of R370: every thread held on the unreachable phase or beyond takes the cause. -/
def Module.crewCheck (m : Module) (h : Nat) : Module :=
  match m.unreachable h with
  | none => m
  | some y =>
    let c := m.crew h
    ((m.heldIn h).filter fun e => !c.done e.2.2 && decide (c.ahead y ≤ c.ahead e.2.2)).foldl
      (fun m e => m.modCtx e.1 fun t => t.unreach h y) m

/-- Puts a crew after a change, settled. -/
def Module.putCrew (m : Module) (h : Nat) (c : Crew) : Module := m.setCrew h c.settle

/-! ## Operations -/

/-- Whether a handle value names a crew of the thread's launch in force (R365). -/
def Module.crewOk (m : Module) (cx : Nat) (v : Word64) (member : Bool) : Bool :=
  let c := m.crew (fld v.toNat 0 10)
  let t := m.ctx cx
  decide (v.toNat < 1024) && c.inForce && c.launch == t.launch && (!member || (c.member t.tidN).isSome)

/-- The lowest free handle. -/
def Module.freeCrew (m : Module) : Option Nat := firstWhere (fun h => decide (m.crew h = Crew.free)) (range' 0 1024)

/-- Creates a crew of some members at phase 0 on a handle (R146, R367). -/
def Module.newCrew (m : Module) (h launch : Nat) (tids : List Nat) : Module :=
  m.setCrew h { Crew.free with inForce := true, launch := launch, members := tids.map fun i => ⟨i, 0⟩ }

/-- A member's arrival: the phase, its release pending; none for a further arrival, which waits (R366). -/
def Module.crewArrive (m : Module) (h tid : Nat) : Option (BitVec 32 × Module) :=
  let c := m.crew h
  let x := c.nextOf tid
  if c.ahead x ≥ 2 then none
  else
    let ms := c.members.map fun e => if e.tid = tid then { e with nextPhase := e.nextPhase + 1 } else e
    some (x, m.putCrew h { c with members := ms, releases := c.releases ++ [(tid, x)] })

/-- The release of an arrival has been performed (R242). -/
def Module.crewReleased (m : Module) (h tid : Nat) (x : BitVec 32) : Module :=
  let c := m.crew h
  m.putCrew h { c with releases := c.releases.erase (tid, x) }

/-- Binds a job of a thread to a crew: the lowest incomplete phase at which the thread has not arrived expects one arrival more
(R420, R446). -/
def Module.crewBind (m : Module) (cx h : Nat) : BitVec 32 × Module :=
  let c := m.crew h
  let x := c.nextOf (m.ctx cx).tidN
  (x, m.putCrew h { c with bound := x :: c.bound })

/-- A bound job arrives, poisoned where it did not complete (R366, R446). -/
def Module.jobArrive (m : Module) (h : Nat) (x : BitVec 32) (c : Cause) : Module :=
  let w := m.crew h
  let marks := if c = 0 || w.poison.any (fun e => e.1 == x) then w.poison else (x, c) :: w.poison
  m.putCrew h { w with bound := w.bound.erase x, poison := marks }

/-! ## Gangs (R420 to R424) -/

/-- Whether a thread of a crew has arrived at a phase. -/
def Crew.arrivedAt (c : Crew) (tid : Nat) (x : BitVec 32) : Bool := c.done x || decide (c.ahead x < c.ahead (c.nextOf tid))

/-- How many M-queue entries stand before the first that is held on a phase of a crew or a later one (R421). -/
def sliceSpot (c : Crew) (h : Nat) (x : BitVec 32) : List MEntry → Nat
  | [] => 0
  | e :: l => if e.heldOn.any fun p => p.1 == h && !c.done p.2 && decide (c.ahead x ≤ c.ahead p.2) then 0 else 1 + sliceSpot c h x l

/-- A slice enters a partner's engine at its program-order point; the partner's tile is busy from then on (R421). -/
def Thread.enterSlice (t : Thread) (c : Crew) (h : Nat) (x : BitVec 32) (mt : Nat) (k : MKind) : Thread :=
  let i := sliceSpot c h x t.x.mq
  (t.setBusy mt).modX fun q => { q with mq := q.mq.take i ++ [{ t.mEntry k 0 0 with serial := t.u.serial }] ++ q.mq.drop i }

/-- The leader's gB entry is popped once every slice has read it or has faulted (R422). -/
def Module.gangRead (m : Module) (g : Nat) : Module :=
  let x := m.gang g
  if !x.gbRead && x.ran.length + x.finished.length = x.members.length then
    (m.setGang g { x with gbRead := true }).modCtx x.leader fun t =>
      let r := t.ring x.gb
      if r.valid = 0 then t else t.setRing x.gb r.pop
  else m

/-- The cause of the first slice fault in ascending number (R423). -/
def Gang.cause (x : Gang) : Cause :=
  (x.members.filterMap fun c => (firstWhere (fun f : Nat × Option Cause => f.1 == c) x.finished).bind (·.2)).headD 0

/-- A member's slice has retired or faulted; after the last one the MMAG arrives at its phase (R423). -/
def Module.sliceEnd (m : Module) (g cx : Nat) (c : Option Cause) : Module :=
  let x := m.gang g
  let y := { x with ran := x.ran.filter fun e => e.1 != cx, finished := x.finished ++ [(cx, c)] }
  let m1 := (m.setGang g y).gangRead g
  if y.finished.length = y.members.length then (m1.jobArrive x.crew x.phase y.cause).setGang g Gang.none else m1

/-- The slice of a partner enters when the partner has arrived at the gang's phase, and faults when the partner has left the crew or has
ended before that. While its core is in a bank switch the slice waits (R421, R423, R424). -/
def Module.sliceEnter (m : Module) (g r cx : Nat) : Module :=
  let x := m.gang g
  let c := m.crew x.crew
  let t := m.ctx cx
  let k := coreOf cx
  if x.members = [] || cx = x.leader || x.entered.contains cx then m
  else if t.status = .empty || t.status = .ended || t.launch != c.launch || (c.member t.tidN).isNone then
    (m.setGang g { x with entered := cx :: x.entered }).sliceEnd g cx (some Cause.crewUnreachable)
  else if c.arrivedAt t.tidN x.phase && m.active k = cx && !(m.core k).exchange then
    (m.setGang g { x with entered := cx :: x.entered }).modCtx cx fun t => t.enterSlice c x.crew x.phase x.mt (.slice x.leader g r)
  else m

/-- Every slice that may enter or must fault does so, gangs in the order of their issue. -/
def Module.gangSettle (m : Module) : Module :=
  (m.cx.gangs.map (·.1)).foldl (fun m g =>
    let ms := (m.gang g).members
    ((range' 0 ms.length).zip ms).foldl (fun m e => m.sliceEnter g e.1 e.2) m) m

/-! ## Leaving -/

/-- A thread leaves a crew: its arrivals at incomplete phases are withdrawn (R368). -/
def Module.crewLeave (m : Module) (h tid : Nat) : Module :=
  let c := m.crew h
  (m.putCrew h { c with members := c.members.filter (fun e => e.tid != tid), releases := c.releases.filter fun e => e.1 != tid }).gangSettle.crewCheck h

/-- A thread that ends leaves every crew of its launch (R372). -/
def Module.crewLeaveAll (m : Module) (launch tid : Nat) : Module :=
  ((m.cx.crews.filter fun e => e.2.inForce && e.2.launch == launch && (e.2.member tid).isSome).map (·.1)).foldl
    (fun m h => m.crewLeave h tid) m

/-- CBSTAT of a wait that has ended by completion of a phase (R371). -/
def Crew.status (c : Crew) (x : BitVec 32) : Word64 :=
  if (c.phase - x).toNat > 8 then cbstatWord false true 0 x
  else match firstWhere (fun e : BitVec 32 × Cause => e.1 == x) c.poison with
    | some e => cbstatWord true false e.2 x
    | none => cbstatWord false false 0 x

/-- Ends a thread's wait on a phase: CBSTAT, and the acquire, which drops the instruction cache too (R242, R321, R371). -/
def Module.waitEnds (m : Module) (cx h : Nat) (x : BitVec 32) : Module :=
  (m.modCtx cx fun t =>
      ((t.modC fun c => { c with cbstat := (m.crew h).status x }).modU fun u => { u with crewWait := none, cwait := none }).dropCode).acquire (coreOf cx)

/-- Holds a bundle on a phase of a crew, and checks that the phase can be reached (R370). -/
def State.crewHold (s : State) (h : Nat) (x : BitVec 32) : State :=
  s.holdM fun m => (m.modTh fun t => t.modU fun u => { u with cwait := some (h, x) }).crewCheck h

/-- CREW_HANDLE, with the handle (R493). -/
def State.handleFault (s : State) (v : Word64) : State := s.fault Cause.crewHandle v

/-- An operation on a crew of which the thread is a member: the handle's checks, and the unreachable phase a held bundle is to
fault with. -/
def State.onCrew (s : State) (v : Word64) (body : Nat → State) : State :=
  match s.back.th.u.crewFault with
  | some (h, y) =>
    let b := s.back.modTh fun t => t.modU fun u => { u with crewFault := none }
    (⟨b, some b⟩ : State).raise ⟨Cause.crewUnreachable, unreachDetail h y, unreachDatum h y, .P⟩
  | none => if s.now.crewOk s.now.focus v true then body v.toNat else s.handleFault v

/-- A release and an arrival (R242, R369); a further arrival is held, and records the wait that held it. -/
def State.arrive (s : State) (v : Word64) (body : Nat → BitVec 32 → State → State) : State :=
  s.onCrew v fun h =>
    let tid := s.now.th.tidN
    match s.now.crewArrive h tid with
    | none => s.crewHold h (s.now.crew h).phase
    | some (x, m1) =>
      let s1 := s.on fun _ => (m1.modTh fun t => t.enterMarkers (.crewMark h x) (.marker .rel .device) (.marker .rel .device))
      let s2 := match s.back.th.u.cwait with
        | some (_, y) => s1.on fun m => m.waitEnds m.focus h y
        | none => s1
      body h x (s2.on fun m => m.gangSettle.crewCheck h)

/-! ## Meanings -/

/-- JOIN (R367). -/
def execJoin (d a : RegNo) (s : State) : Out :=
  let v := s.rdS a
  let t := s.now.th
  .next (if v = BitVec.allOnes 64 then
      match s.now.freeCrew with
      | none => s.fault Cause.crewExhausted 0
      | some h => (s.on fun m => m.newCrew h t.launch [t.tidN]).wrS d (BitVec.ofNat 64 h)
    else if s.now.crewOk s.now.focus v false then
      let c := s.now.crew v.toNat
      let s1 := if (c.member t.tidN).isSome then s
        else s.on fun m => (m.setCrew v.toNat { c with members := c.members ++ [⟨t.tidN, c.phase⟩] }).crewCheck v.toNat
      s1.wrS d v
    else s.handleFault v)

/-- LEAVE (R368). -/
def execLeave (a : RegNo) (s : State) : Out :=
  .next (s.onCrew (s.rdS a) fun h => s.on fun m => m.crewLeave h m.th.tidN)

/-- CARR (R369). -/
def execCarr (d a : RegNo) (s : State) : Out :=
  .next (s.arrive (s.rdS a) fun _ x s => s.wrS d (x.setWidth 64))

/-- CBAR: its bundle issues, and the next one waits (R369). -/
def execCbar (a : RegNo) (s : State) : Out :=
  .next (s.arrive (s.rdS a) fun h x s => s.on fun m => (m.modTh fun t => t.modU fun u => { u with crewWait := some (h, x) }).crewCheck h)

/-- CWAIT (R369). -/
def execCwait (a b : RegNo) (s : State) : Out :=
  .next (s.onCrew (s.rdS a) fun h =>
    let x : BitVec 32 := (s.rdS b).setWidth 32
    if (s.now.crew h).done x then
      (s.on fun m => m.waitEnds m.focus h x).upd fun t =>
        t.enterMarkers (.marker .acq .device) (.marker .acq .device) (.marker .acq .device)
    else s.crewHold h x)

end Sys2Proof.Machine
end

