-- ==== Sys2Proof/Machine/Vector.lean ====
section
/-!
DEFINITION. The V slot: lanes, comparison, predicates, integer lanes, special functions, conversions, moves and reductions: rules R381 to
R401.
-/

namespace Sys2Proof.Machine

/-! ## Lanes under a predicate -/

/-- Whether lane `j` of `e` bits is active (R382). -/
def laneActive (p : PWord) (e j : Nat) : Bool := bit p.toNat (j * e / 8)

/-- The register word with the listed lanes of `e` bits and zero above them (R381). -/
def laneWord (e : Nat) (l : List Nat) : VWord := BitVec.ofNat 1024 (joinLanes e l)

/-- Lanes of `e` bits over `w` bits: a function of the lane where it is active, the old value elsewhere (R381, R382). -/
def mapLanes (w e : Nat) (p : PWord) (old : VWord) (f : Nat → Nat) : VWord :=
  laneWord e ((range' 0 (w / e)).map fun j => if laneActive p e j then f j else laneOf old.toNat e j)

/-- Writes a short-class lane result. -/
def State.wrLanes (s : State) (w e : Nat) (p : BitVec 4) (d : RegNo) (f : Nat → Nat) : State :=
  s.wrV d (mapLanes w e (s.rdP p) (s.rdV d) f)

/-! ## Floating lane arithmetic (R385, R386) -/

/-- A floating lane operation with its one rounding by RNE. -/
def State.fLanes (s : State) (w : Wid) (t : FTy) (d : RegNo) (p : BitVec 4) (f : (RegNo → FVal) → FVal) : State :=
  let fp := fpOf (ftyFmt t)
  let ov := finov s.src.th.csr.ovt (ftyCode t)
  s.wrLanes (widBits w) (ftyBits t) p d fun j => finish fp .rne ov (f fun r => decodeFP fp (laneOf (s.rdV r).toNat (ftyBits t) j))

/-- VADD (R385). -/
def execVadd (w : Wid) (t : FTy) (d a b : RegNo) (p : BitVec 4) (s : State) : Out :=
  .next (s.fLanes w t d p fun v => (v a).add (v b))

/-- VSUB (R385). -/
def execVsub (w : Wid) (t : FTy) (d a b : RegNo) (p : BitVec 4) (s : State) : Out :=
  .next (s.fLanes w t d p fun v => (v a).add (v b).negate)

/-- VMUL (R385). -/
def execVmul (w : Wid) (t : FTy) (d a b : RegNo) (p : BitVec 4) (s : State) : Out :=
  .next (s.fLanes w t d p fun v => (v a).mul (v b))

/-- VFMA: one rounding (R385). -/
def execVfma (w : Wid) (t : FTy) (d a b c : RegNo) (p : BitVec 4) (s : State) : Out :=
  .next (s.fLanes w t d p fun v => ((v a).mul (v b)).add (v c))

/-- VFMS: one rounding (R385). -/
def execVfms (w : Wid) (t : FTy) (d a b c : RegNo) (p : BitVec 4) (s : State) : Out :=
  .next (s.fLanes w t d p fun v => ((v a).mul (v b)).add (v c).negate)

/-- VMIN (R385). -/
def execVmin (w : Wid) (t : FTy) (d a b : RegNo) (p : BitVec 4) (s : State) : Out :=
  .next (s.fLanes w t d p fun v => (v a).min (v b))

/-- VMAX (R385). -/
def execVmax (w : Wid) (t : FTy) (d a b : RegNo) (p : BitVec 4) (s : State) : Out :=
  .next (s.fLanes w t d p fun v => (v a).max (v b))

/-- VABS (R385). -/
def execVabs (w : Wid) (t : FTy) (d a : RegNo) (p : BitVec 4) (s : State) : Out :=
  .next (s.fLanes w t d p fun v => (v a).abs)

/-- VNEG (R385). -/
def execVneg (w : Wid) (t : FTy) (d a : RegNo) (p : BitVec 4) (s : State) : Out :=
  .next (s.fLanes w t d p fun v => (v a).negate)

/-- VRND (R386). -/
def execVrnd (w : Wid) (t : FTy) (md : RMode) (d a : RegNo) (p : BitVec 4) (s : State) : Out :=
  .next (s.fLanes w t d p fun v => (v a).integral md)

/-! ## Comparison, selection, predicates (R387 to R389) -/

/-- A condition of VCMP on float values (R387). -/
def vcondFloat (c : VCond) (a b : FVal) : Bool :=
  let u := a.isNan || b.isNan
  match c with
  | .eq => !u && !a.lt b && !b.lt a
  | .ne => u || a.lt b || b.lt a
  | .lt => !u && a.lt b
  | .le => !u && !b.lt a
  | .uo => u
  | .ord => !u

/-- A condition of VCMP on integers; conditions 4 and 5 are never decoded with an integer type. -/
def vcondInt (c : VCond) (a b : Int) : Bool :=
  match c with
  | .eq => a == b
  | .ne => a != b
  | .lt => decide (a < b)
  | .le => decide (a ≤ b)
  | .uo => false
  | .ord => true

/-- A condition of VCMP on two lanes (R387). -/
def vcondLane (t : LaneTy) (c : VCond) (x y : Nat) : Bool :=
  match t with
  | .flt f => vcondFloat c (decodeFP (fpOf (ftyFmt f)) x) (decodeFP (fpOf (ftyFmt f)) y)
  | .int i => vcondInt c (laneInt i x) (laneInt i y)

/-- VCMP: the byte bits of each lane (R387). -/
def execVcmp (w : Wid) (t : LaneTy) (c : VCond) (d : BitVec 4) (a b : RegNo) (p : BitVec 4) (s : State) : Out :=
  let e := laneBits t
  let k := e / 8
  let x := (s.rdV a).toNat
  let y := (s.rdV b).toNat
  .next (s.wrP d (BitVec.ofNat 128 (joinLanes k ((range' 0 (widBits w / e)).map fun j =>
    if laneActive (s.rdP p) e j && vcondLane t c (laneOf x e j) (laneOf y e j) then 2 ^ k - 1 else 0))))

/-- VSEL: every lane is written, from vA where it is active and from vB where it is not (R388). -/
def execVsel (w : Wid) (t : ITy) (d a b : RegNo) (p : BitVec 4) (s : State) : Out :=
  .next (s.wrV d (mapLanes (widBits w) (ityBits t) (s.rdP p) (s.rdV b) (laneOf (s.rdV a).toNat (ityBits t))))

/-- PAND (R389). -/
def execPand (d a b : BitVec 4) (s : State) : Out := .next (s.wrP d (s.rdP a &&& s.rdP b))

/-- POR (R389). -/
def execPor (d a b : BitVec 4) (s : State) : Out := .next (s.wrP d (s.rdP a ||| s.rdP b))

/-- PXOR (R389). -/
def execPxor (d a b : BitVec 4) (s : State) : Out := .next (s.wrP d (s.rdP a ^^^ s.rdP b))

/-- PNOT (R389). -/
def execPnot (d a : BitVec 4) (s : State) : Out := .next (s.wrP d (~~~ s.rdP a))

/-- PCNT (R389). -/
def execPcnt (d : RegNo) (a : BitVec 4) (s : State) : Out := .next (s.wrS d (BitVec.ofNat 64 (popcount (s.rdP a).toNat 128)))

/-! ## Integer lanes (R390, R391) -/

/-- An exact integer result narrowed to its type: saturated, or its low bits (R390). -/
def narrow (t : ITy) (sat : Bool) (x : Int) : Nat := ofInt (if sat then clampInt x (ityMin t) (ityMax t) else x) (ityBits t)

/-- An integer lane operation on lanes read with their signedness. -/
def State.iLanes (s : State) (w : Wid) (t : ITy) (sat : Bool) (d : RegNo) (p : BitVec 4) (f : (RegNo → Int) → Int) : State :=
  s.wrLanes (widBits w) (ityBits t) p d fun j => narrow t sat (f fun r => laneInt t (laneOf (s.rdV r).toNat (ityBits t) j))

/-- A bit operation on lanes of a width. -/
def State.bLanes (s : State) (w : Wid) (t : ITy) (d a b : RegNo) (p : BitVec 4) (f : Nat → Nat → Nat) : State :=
  let e := ityBits t
  s.wrLanes (widBits w) e p d fun j => f (laneOf (s.rdV a).toNat e j) (laneOf (s.rdV b).toNat e j)

/-- VIADD (R390). -/
def execViadd (w : Wid) (t : ITy) (sat : Bool) (d a b : RegNo) (p : BitVec 4) (s : State) : Out :=
  .next (s.iLanes w t sat d p fun v => v a + v b)

/-- VISUB (R390). -/
def execVisub (w : Wid) (t : ITy) (sat : Bool) (d a b : RegNo) (p : BitVec 4) (s : State) : Out :=
  .next (s.iLanes w t sat d p fun v => v a - v b)

/-- VIMUL (R390). -/
def execVimul (w : Wid) (t : ITy) (sat : Bool) (d a b : RegNo) (p : BitVec 4) (s : State) : Out :=
  .next (s.iLanes w t sat d p fun v => v a * v b)

/-- VIMAD: wraps or saturates once (R390). -/
def execVimad (w : Wid) (t : ITy) (sat : Bool) (d a b c : RegNo) (p : BitVec 4) (s : State) : Out :=
  .next (s.iLanes w t sat d p fun v => v a * v b + v c)

/-- Left shift of an `e`-bit lane (R391). -/
def laneShl (e x c : Nat) : Nat := if c ≥ e then 0 else x * 2 ^ c % 2 ^ e

/-- Logical right shift of an `e`-bit lane (R391). -/
def laneShr (e x c : Nat) : Nat := if c ≥ e then 0 else x / 2 ^ c

/-- Arithmetic right shift of an `e`-bit lane (R391). -/
def laneSha (e x c : Nat) : Nat := ofInt (toSigned x e / (2 ^ (if c ≥ e then e else c) : Nat)) e

/-- VSHL (R391). -/
def execVshl (w : Wid) (t : ITy) (d a b : RegNo) (p : BitVec 4) (s : State) : Out := .next (s.bLanes w t d a b p (laneShl (ityBits t)))

/-- VSHR (R391). -/
def execVshr (w : Wid) (t : ITy) (d a b : RegNo) (p : BitVec 4) (s : State) : Out := .next (s.bLanes w t d a b p (laneShr (ityBits t)))

/-- VSHA (R391). -/
def execVsha (w : Wid) (t : ITy) (d a b : RegNo) (p : BitVec 4) (s : State) : Out := .next (s.bLanes w t d a b p (laneSha (ityBits t)))

/-- VAND (R390). -/
def execVand (w : Wid) (t : ITy) (d a b : RegNo) (p : BitVec 4) (s : State) : Out := .next (s.bLanes w t d a b p fun x y => x &&& y)

/-- VOR (R390). -/
def execVor (w : Wid) (t : ITy) (d a b : RegNo) (p : BitVec 4) (s : State) : Out := .next (s.bLanes w t d a b p fun x y => x ||| y)

/-- VXOR (R390). -/
def execVxor (w : Wid) (t : ITy) (d a b : RegNo) (p : BitVec 4) (s : State) : Out := .next (s.bLanes w t d a b p fun x y => x ^^^ y)

/-- VIMIN (R390). -/
def execVimin (w : Wid) (t : ITy) (d a b : RegNo) (p : BitVec 4) (s : State) : Out :=
  .next (s.iLanes w t false d p fun v => if v a ≤ v b then v a else v b)

/-- VIMAX (R390). -/
def execVimax (w : Wid) (t : ITy) (d a b : RegNo) (p : BitVec 4) (s : State) : Out :=
  .next (s.iLanes w t false d p fun v => if v a ≤ v b then v b else v a)

/-! ## Special functions (R392 to R394) -/

/-- The slot number of a V operation in the landing queue. V0 and V1 never land one register at one issue, since they would write it
in one run (R178, R182). -/
def vSlot : Nat := 1

/-- A special function: long class, landing count 8, merged with the old value at issue (R382, R394). -/
def State.special (s : State) (w : Wid) (t : FTy) (d a : RegNo) (p : BitVec 4) (f : FVal → FVal) : State :=
  let fp := fpOf (ftyFmt t)
  let ov := finov s.src.th.csr.ovt (ftyCode t)
  let v := mapLanes (widBits w) (ftyBits t) (s.rdP p) (s.rdV d) fun j =>
    finish fp .rne ov (f (decodeFP fp (laneOf (s.rdV a).toNat (ftyBits t) j)))
  s.upd fun th => th.land ⟨[(xv d, v)], 8, vSlot, none, none, false⟩

/-- VEXP2 (R392). -/
def execVexp2 (w : Wid) (t : FTy) (d a : RegNo) (p : BitVec 4) (s : State) : Out := .next (s.special w t d a p fExp2)

/-- VLOG2 (R392). -/
def execVlog2 (w : Wid) (t : FTy) (d a : RegNo) (p : BitVec 4) (s : State) : Out := .next (s.special w t d a p fLog2)

/-- VRCP (R392). -/
def execVrcp (w : Wid) (t : FTy) (d a : RegNo) (p : BitVec 4) (s : State) : Out := .next (s.special w t d a p fRcp)

/-- VRSQ (R392). -/
def execVrsq (w : Wid) (t : FTy) (d a : RegNo) (p : BitVec 4) (s : State) : Out := .next (s.special w t d a p fRsq)

/-- VTANH (R392). -/
def execVtanh (w : Wid) (t : FTy) (d a : RegNo) (p : BitVec 4) (s : State) : Out := .next (s.special w t d a p fTanh)

/-! ## Conversions (R395 to R399) -/

/-- Whether FMTCAP.CONV says a format is executed (R277, R399). -/
def Thread.convOk (t : Thread) (f : Fmt) : Bool := bit t.csr.fmtcap.toNat (16 + fmtCode f)

/-- A conversion lane by lane between lanes of `wr` and `ws` bits (R395). -/
def convLanes (w wr ws : Nat) (p : PWord) (old a : VWord) (f : Nat → Nat) : VWord :=
  let g := Nat.max wr ws
  laneWord wr ((range' 0 (w / g)).map fun j => if laneActive p g j then f (laneOf a.toNat ws j) else laneOf old.toNat wr j)

/-- The source lanes of a packing conversion, in blocks of 32; an inactive lane counts as +0 (R396, R397). -/
def packSource (w : Nat) (p : PWord) (s : Fmt) (a : VWord) : List (List FVal) :=
  let e := fmtBits s
  chunked 32 2 ((range' 0 (w / e)).map fun j => if laneActive p e j then decodeFP (fpOf s) (laneOf a.toNat e j) else .zero false)

/-- The MX register layout of packed blocks (R396). -/
def mxLayout (f : Fmt) (blocks : List (Nat × Nat)) : VWord :=
  BitVec.ofNat 1024 (joinLanes (8 * mxBytes f) (blocks.map (·.2)) + 2 ^ 960 * joinLanes 8 (blocks.map (·.1)))

/-- The value VCVT writes (R395, R396). -/
def cvtValue (w : Nat) (k : Cvt) (md : RMode) (tbl : BitVec 128) (p : PWord) (old a : VWord) : VWord :=
  match k with
  | .floatFloat r s =>
    if fmtMx r then mxLayout r ((packSource w p s a).map (mxPack r tbl md))
    else convLanes w (fmtBits r) (fmtBits s) p old a fun x => convertTo r tbl md (decodeFP (fpOf s) x)
  | .floatInt r s => convLanes w (ityBits r) (fmtBits s) p old a fun x => toInteger r md (decodeFP (fpOf s) x)
  | .intFloat r s => convLanes w (fmtBits r) (ityBits s) p old a fun x => convertTo r tbl md (ofInteger (laneInt s x))

/-- The formats a conversion names, which FMTCAP must hold, and the code whose FINOV SAT replaces. -/
def cvtFmts : Cvt → List Fmt
  | .floatFloat r s => [r, s]
  | .floatInt _ s => [s]
  | .intFloat r _ => [r]

/-- The overflow table a conversion reads at issue (R269, R395). -/
def cvtTable (k : Cvt) (sat : Bool) (tbl : BitVec 128) : BitVec 128 :=
  match k with
  | .floatFloat r _ => satTable sat tbl (fmtCode r)
  | .floatInt _ _ => tbl
  | .intFloat r _ => satTable sat tbl (fmtCode r)

/-- VCVT (R395, R396, R399). -/
def execVcvt (w : Wid) (k : Cvt) (md : RMode) (sat : Bool) (d a : RegNo) (p : BitVec 4) (s : State) : Out :=
  .next (if (cvtFmts k).all s.src.th.convOk then
      s.wrV d (cvtValue (widBits w) k md (cvtTable k sat s.src.th.csr.ovt) (s.rdP p) (s.rdV d) (s.rdV a))
    else s.faultSyl Cause.fmtAbsent (.vcvt w k md sat d a p))

/-- VPACKSX (R397, R399). -/
def execVpacksx (w : Wid) (r f : Fmt) (md : RMode) (sat : Bool) (d a : RegNo) (p : BitVec 4) (s : State) : Out :=
  .next (if s.src.th.convOk r && s.src.th.convOk f then
      s.wrV d (laneWord (8 * sxBytes r)
        ((packSource (widBits w) (s.rdP p) f (s.rdV a)).map (sxPack r (satTable sat s.src.th.csr.ovt (fmtCode r)) md)))
    else s.faultSyl Cause.fmtAbsent (.vpacksx w r f md sat d a p))

/-- Element `j` of a register in the MX or SX register layout (R396 to R398). -/
def blockLane (f : Fmt) (a j : Nat) : FVal :=
  if fmtMx f then mxValue f (fld a (960 + 8 * (j / 32)) 8) (laneOf (fld a (8 * mxBytes f * (j / 32)) (8 * mxBytes f)) (fmtBits f) (j % 32))
  else sxValue f (fld a (8 * sxBytes f * (j / 32)) (8 * sxBytes f)) (j % 32)

/-- VUNPK (R398, R399). -/
def execVunpk (w : Wid) (r f : Fmt) (d a : RegNo) (s : State) : Out :=
  .next (if s.src.th.convOk r && s.src.th.convOk f then
      s.wrV d (laneWord (fmtBits r) ((range' 0 (widBits w / fmtBits r)).map fun j =>
        convertTo r s.src.th.csr.ovt .rne (blockLane f (s.rdV a).toNat j)))
    else s.faultSyl Cause.fmtAbsent (.vunpk w r f d a))

/-! ## Moves, permutes, reductions (R400, R401) -/

/-- VPERM (R400). -/
def execVperm (w : Wid) (t : ITy) (d a b : RegNo) (s : State) : Out :=
  let e := ityBits t
  let n := widBits w / e
  .next (s.wrV d (laneWord e ((range' 0 n).map fun j => laneOf (s.rdV a).toNat e (laneOf (s.rdV b).toNat e j % n))))

/-- VBCAST (R400). -/
def execVbcast (w : Wid) (t : ITy) (d a : RegNo) (p : BitVec 4) (s : State) : Out :=
  .next (s.wrLanes (widBits w) (ityBits t) p d fun _ => fld (s.rdS a).toNat 0 (ityBits t))

/-- VMOVS to a scalar register (R400). -/
def execVmovsExtract (_w : Wid) (t : ITy) (d a : RegNo) (lane : BitVec 7) (s : State) : Out :=
  .next (s.wrS d (BitVec.ofInt 64 (laneInt t (laneOf (s.rdV a).toNat (ityBits t) lane.toNat))))

/-- VMOVS into a lane (R400). -/
def execVmovsInsert (w : Wid) (t : ITy) (d a : RegNo) (lane : BitVec 7) (s : State) : Out :=
  let e := ityBits t
  .next (s.wrV d (laneWord e ((range' 0 (widBits w / e)).map fun j =>
    if j = lane.toNat then fld (s.rdS a).toNat 0 e else laneOf (s.rdV d).toNat e j)))

/-- VMOVV: byte by byte (R400). -/
def execVmovv (w : Wid) (d a : RegNo) (p : BitVec 4) (s : State) : Out :=
  .next (s.wrLanes (widBits w) 8 p d (laneOf (s.rdV a).toNat 8))

/-- VIOTA (R400). -/
def execViota (w : Wid) (t : ITy) (d a : RegNo) (p : BitVec 4) (s : State) : Out :=
  .next (s.wrLanes (widBits w) (ityBits t) p d fun j => ((s.rdS a).toNat + j) % 2 ^ ityBits t)

/-- The active lanes of `e` bits, ascending. -/
def activeLanes (w e : Nat) (p : PWord) (a : VWord) : List Nat :=
  ((range' 0 (w / e)).filter (laneActive p e)).map (laneOf a.toNat e)

/-- The exact sum of a list; the sum of no terms is +0 (R401). -/
def fSum : List FVal → FVal
  | [] => .zero false
  | x :: xs => xs.foldl FVal.add x

/-- VREDS on float values: an FP32 pattern (R401). -/
def redFloat (op : RedOp) (ov : Nat) (l : List FVal) : Nat :=
  match op with
  | .min => toF32 (l.foldl FVal.min (.inf false))
  | .max => toF32 (l.foldl FVal.max (.inf true))
  | .add => finish fpF32 .rne ov (fSum l)
  | .and => finish fpF32 .rne ov (fSum l)
  | .or => finish fpF32 .rne ov (fSum l)
  | .xor => finish fpF32 .rne ov (fSum l)

/-- VREDS on integer lanes, each extended to 64 bits (R401). -/
def redInt (op : RedOp) (t : ITy) (l : List Int) : Word64 :=
  match op with
  | .add => BitVec.ofInt 64 (l.foldl (· + ·) 0)
  | .min => BitVec.ofInt 64 (l.foldl (fun x y => if x ≤ y then x else y) (ityMax t))
  | .max => BitVec.ofInt 64 (l.foldl (fun x y => if x ≤ y then y else x) (ityMin t))
  | .and => l.foldl (fun x y => x &&& BitVec.ofInt 64 y) (BitVec.allOnes 64)
  | .or => l.foldl (fun x y => x ||| BitVec.ofInt 64 y) 0
  | .xor => l.foldl (fun x y => x ^^^ BitVec.ofInt 64 y) 0

/-- VREDS (R401). -/
def execVreds (w : Wid) (t : LaneTy) (op : RedOp) (d a : RegNo) (p : BitVec 4) (s : State) : Out :=
  let l := activeLanes (widBits w) (laneBits t) (s.rdP p) (s.rdV a)
  .next (s.wrS d (match t with
    | .flt f => BitVec.ofNat 64 (redFloat op (finov s.src.th.csr.ovt 0) (l.map (decodeFP (fpOf (ftyFmt f)))))
    | .int i => redInt op i (l.map (laneInt i))))

end Sys2Proof.Machine
end

