-- ==== Sys2Proof/Machine/Sketch.lean ====
section
/-!
DEFINITION. Summary records, their algorithms and the summary instructions: rules R280 to R303 and R402 to R406.
-/

namespace Sys2Proof.Machine

/-- `mix64` (R330). -/
def mix64 (x : Word64) : Word64 :=
  let a := (x ^^^ (x >>> 31)) * 0x7FB5D329728EA185
  let b := (a ^^^ (a >>> 27)) * 0x81DADEF4BC2DD44D
  b ^^^ (b >>> 33)

/-- The hash of a key (R284). -/
def skhash (key : Word64) : Word64 := mix64 (key ^^^ 0x6A09E667F3BCC908)

/-! ## Records -/

/-- The common header of a record (R280); `base` numbers the entropy draws of the module before this operation and `drew` counts those
it makes (R284). -/
structure SkHead where
  ndc : Bool
  sat : Bool
  nans : Nat
  n : Nat
  seed : Word64
  cctr : Word64
  base : Nat
  drew : Nat
  deriving DecidableEq, Repr

/-- A quantile sketch (R286): items are FP32 patterns, by level in stored order. `rescales` counts the rescales of this operation. -/
structure Qsk where
  h : SkHead
  lv : List (List Nat)
  wexp : Nat
  samp : Nat
  sacc : Nat
  mn : Nat
  mx : Nat
  rescales : Nat
  deriving DecidableEq, Repr

/-- A heavy-hitter list (R293): KEY, COUNT and OVER of the used entries, in canonical order. -/
structure Hhk where
  h : SkHead
  es : List (Nat × Nat × Nat)
  deriving DecidableEq, Repr

/-- A distinct-count register set (R298). -/
structure Dck where
  h : SkHead
  m : List Nat
  deriving DecidableEq, Repr

/-- A record of any kind. -/
inductive SkRec where
  | qsk (r : Qsk)
  | hhk (r : Hhk)
  | dck (r : Dck)
  deriving DecidableEq, Repr

/-- Size in bytes of a record (R280). -/
def skSize : SkKind → Nat
  | .qsk => 4096 | .hhk => 1024 | .dck => 2112

/-- A little-endian number at a byte offset. -/
def numAt (b : List Byte) (off n : Nat) : Nat := leNat ((b.drop off).take n)

/-- Whether an FP32 pattern is NaN. -/
def nan32 (x : Nat) : Bool := decide (x % 2 ^ 31 > 0x7F800000)

/-- Position of an FP32 pattern in the total order of R287. -/
def ordKey (x : Nat) : Int := if x ≥ 2 ^ 31 then -((x - 2 ^ 31 : Nat) : Int) - 1 else (x : Int)

/-- Items sorted in the order of R287, stably. -/
def sortItems (l : List Nat) : List Nat := sortBy (fun a b => decide (ordKey a ≤ ordKey b)) l

/-- Canonical order of heavy-hitter entries: descending COUNT, then ascending KEY (R293). -/
def canonEntries (l : List (Nat × Nat × Nat)) : List (Nat × Nat × Nat) :=
  sortBy (fun a b => decide (a.2.1 > b.2.1) || (a.2.1 == b.2.1 && decide (a.1 ≤ b.1))) l

/-- Reads the common header. -/
def readHead (b : List Byte) (base : Nat) : SkHead :=
  { ndc := bit (numAt b 3 1) 0, sat := bit (numAt b 3 1) 1, nans := numAt b 4 4, n := numAt b 8 8,
    seed := BitVec.ofNat 64 (numAt b 16 8), cctr := BitVec.ofNat 64 (numAt b 24 8), base := base, drew := 0 }

/-- Reads a quantile sketch. -/
def readQsk (b : List Byte) (base : Nat) : Qsk :=
  { h := readHead b base,
    lv := (range' 0 8).map fun l => (chunked 4 (numAt b (32 + l) 1) ((b.drop (64 + 480 * l)).take 480)).map leNat,
    wexp := numAt b 40 1, samp := numAt b 44 4, sacc := numAt b 48 8, mn := numAt b 56 4, mx := numAt b 60 4, rescales := 0 }

/-- Reads a heavy-hitter list; a list out of order is sorted (R293). -/
def readHhk (b : List Byte) (base : Nat) : Hhk :=
  { h := readHead b base,
    es := canonEntries ((chunked 16 (numAt b 32 1) ((b.drop 64).take 960)).map fun e => (numAt e 0 8, numAt e 8 4, numAt e 12 3)) }

/-- Reads a distinct-count set. -/
def readDck (b : List Byte) (base : Nat) : Dck := { h := readHead b base, m := ((b.drop 64).take 2048).map fun x => x.toNat }

/-- The checks of R282. Reserved bytes, and items and entries beyond LCNT and USED, are not checked. -/
def skParse (b : List Byte) (base : Nat) : Option SkRec :=
  if numAt b 0 2 ≠ 0x4B53 then none
  else match skOf (numAt b 2 1) with
    | none => none
    | some .qsk =>
      let r := readQsk b base
      if ((range' 0 8).all fun l => decide (numAt b (32 + l) 1 ≤ 120)) && (r.lv.all fun l => l.all fun x => !nan32 x) &&
          decide (r.sacc < 2 ^ r.wexp) && (r.wexp != 0 || r.sacc == 0) then some (.qsk r) else none
    | some .hhk => if numAt b 32 1 ≤ 60 then some (.hhk (readHhk b base)) else none
    | some .dck => let r := readDck b base; if r.m.all fun x => decide (x ≤ 54) then some (.dck r) else none

/-- The 64 bytes that every record of a kind begins with, bytes 32 to 63 being the kind's own. -/
def headBytes (k : SkKind) (h : SkHead) (own : List Byte) : List Byte :=
  leBytes 0x4B53 2 ++ leBytes (skCode k) 1 ++ leBytes (b2n h.ndc + 2 * b2n h.sat) 1 ++ leBytes h.nans 4 ++ leBytes h.n 8 ++
    leBytes h.seed.toNat 8 ++ leBytes h.cctr.toNat 8 ++ padBytes own 32

/-- The bytes of a record; reserved bytes are zero (R7). -/
def skBytes : SkRec → List Byte
  | .qsk r =>
    headBytes .qsk r.h (r.lv.flatMap (fun l => leBytes l.length 1) ++ leBytes r.wexp 1 ++ leBytes 0 3 ++ leBytes r.samp 4 ++
        leBytes r.sacc 8 ++ leBytes r.mn 4 ++ leBytes r.mx 4) ++
      padBytes (r.lv.flatMap fun l => padBytes (l.flatMap fun x => leBytes x 4) 480) 4032
  | .hhk r =>
    headBytes .hhk r.h (leBytes r.es.length 1) ++
      padBytes (r.es.flatMap fun e => leBytes e.1 8 ++ leBytes e.2.1 4 ++ leBytes e.2.2 3 ++ leBytes 1 1) 960
  | .dck r => headBytes .dck r.h [] ++ padBytes (r.m.map fun x => BitVec.ofNat 8 x) 2048

/-- The header of a record. -/
def SkRec.head : SkRec → SkHead
  | .qsk r => r.h | .hhk r => r.h | .dck r => r.h

/-- The kind of a record. -/
def SkRec.kind : SkRec → SkKind
  | .qsk _ => .qsk | .hhk _ => .hhk | .dck _ => .dck

/-! ## Coins (R284) -/

/-- One draw of 64 bits from a record. -/
def SkHead.draw (h : SkHead) : Word64 × SkHead :=
  if h.ndc then (Config.entropy (h.base + h.drew), { h with cctr := h.cctr + 1, drew := h.drew + 1 })
  else (mix64 (h.seed ^^^ h.cctr), { h with cctr := h.cctr + 1 })

/-- One coin, as 0 or 1. -/
def SkHead.coin (h : SkHead) : Nat × SkHead := (b2n h.draw.1.msb, h.draw.2)

/-- A field of `k` bits that saturates, which sets SAT (R280). -/
def SkHead.clamp (h : SkHead) (x k : Nat) : Nat × SkHead := if x < 2 ^ k then (x, h) else (2 ^ k - 1, { h with sat := true })

/-! ## Quantile sketch (R287 to R291) -/

/-- Level `l`. -/
def Qsk.level (r : Qsk) (l : Nat) : List Nat := (nth? l r.lv).getD []

/-- Puts level `l`. -/
def Qsk.setLevel (r : Qsk) (l : Nat) (x : List Nat) : Qsk := { r with lv := modifyAt (fun _ => x) l r.lv }

/-- Items of a sorted level that survive a compaction from position `c`. -/
def everySecond (c : Nat) (a : List Nat) : List Nat := (chunked 2 (a.length / 2) a).map fun p => (nth? c p).getD 0

/-- Compacts one level into itself with coins of a record (R289). -/
def compactLevel (h : SkHead) (l : List Nat) : List Nat × SkHead :=
  if l = [] then (l, h)
  else
    let (c, h1) := h.coin
    let a := sortItems l
    let keep := everySecond c a
    if a.length % 2 = 1 then
      let (c2, h2) := h1.coin
      (if c2 = 1 then keep ++ [a.getLastD 0] else keep, h2)
    else (keep, h1)

/-- Compacts levels in order. -/
def compactLevels (h : SkHead) (ls : List (List Nat)) : List (List Nat) × SkHead :=
  ls.foldl (fun acc l => let (l', h') := compactLevel acc.2 l; (acc.1 ++ [l'], h')) ([], h)

/-- A rescale (R289). -/
def Qsk.rescale (r : Qsk) : Qsk :=
  let (ls, h) := compactLevels r.h r.lv
  { r with lv := ls, h := if r.wexp = 63 then { h with sat := true } else h, wexp := if r.wexp = 63 then 63 else r.wexp + 1,
           rescales := r.rescales + 1 }

/-- Makes space in level `l` for `need` items (R288). The first argument bounds the recursion: 8 levels. -/
def Qsk.room : Nat → Qsk → Nat → Nat → Qsk
  | 0, r, _, _ => r
  | fuel + 1, r, l, need =>
    if (r.level l).length + need ≤ 120 then r
    else if l ≥ 7 then r.rescale
    else
      let half := (r.level l).length / 2
      let r1 := Qsk.room fuel r (l + 1) half
      if (r1.level l).length + need ≤ 120 then r1
      else
        let (c, h) := r1.h.coin
        let a := sortItems (r1.level l)
        let r2 := { r1 with h := h }
        (r2.setLevel (l + 1) (r2.level (l + 1) ++ everySecond c a)).setLevel l (if a.length % 2 = 1 then [a.getLastD 0] else [])

/-- Appends an item to a level (R287). -/
def Qsk.push (r : Qsk) (l x : Nat) : Qsk := let r1 := r.room 8 l 1; r1.setLevel l (r1.level l ++ [x])

/-- The lesser of two patterns in the order of R287. -/
def lesser (a b : Nat) : Nat := if ordKey b < ordKey a then b else a
/-- The greater of two patterns. -/
def greater (a b : Nat) : Nat := if ordKey a < ordKey b then b else a

/-- Insertion of an FP32 value (R287). -/
def Qsk.insert (r : Qsk) (x : Nat) : Qsk :=
  if nan32 x then let (n, h) := r.h.clamp (r.h.nans + 1) 32; { r with h := { h with nans := n } }
  else
    let (n, h) := r.h.clamp (r.h.n + 1) 64
    let r1 := { r with h := { h with n := n }, mn := lesser r.mn x, mx := greater r.mx x }
    if r1.wexp = 0 then r1.push 0 x
    else
      let acc := r1.sacc + 1
      let (v, h1) := r1.h.draw
      let r2 := { r1 with h := h1, sacc := acc, samp := if v.toNat % acc = 0 then x else r1.samp }
      if acc = 2 ^ r2.wexp then { r2.push 0 r2.samp with sacc := 0, samp := 0 } else r2

/-- Rescales of the other record of a merge, with coins of this one (R290). -/
def Qsk.rescaleOther : Nat → Qsk → List (List Nat) → Qsk × List (List Nat)
  | 0, a, ls => (a, ls)
  | n + 1, a, ls => let (ls', h) := compactLevels a.h ls; Qsk.rescaleOther n { a with h := h } ls'

/-- Rescales `n` times. -/
def Qsk.rescaleTimes : Nat → Qsk → Qsk
  | 0, a => a
  | n + 1, a => Qsk.rescaleTimes n a.rescale

/-- Appends the items of one level of the other record; where an append rescales, the items not yet appended, of the lower levels and
of this one, are rescaled at once (R290). -/
def Qsk.appendLevel : Nat → Qsk → Nat → List Nat → List (List Nat) → Qsk × List (List Nat)
  | 0, a, _, _, lower => (a, lower)
  | _, a, _, [], lower => (a, lower)
  | fuel + 1, a, l, x :: rest, lower =>
    let a1 := a.push l x
    if a1.rescales = a.rescales then Qsk.appendLevel fuel a1 l rest lower
    else
      let (ls, h) := compactLevels a1.h (lower ++ [rest])
      Qsk.appendLevel fuel { a1 with h := h } l (ls.getLastD []) ls.dropLast

/-- Appends the levels of the other record from level `n - 1` down. -/
def Qsk.appendLevels : Nat → Qsk → List (List Nat) → Qsk
  | 0, a, _ => a
  | n + 1, a, ls =>
    let (a1, lower) := Qsk.appendLevel 121 a n ((nth? n ls).getD []) (ls.take n)
    Qsk.appendLevels n a1 lower

/-- Merge of B into A (R290). -/
def Qsk.merge (a b : Qsk) : Qsk :=
  let (n, h1) := a.h.clamp (a.h.n + b.h.n) 64
  let (nn, h2) := h1.clamp (a.h.nans + b.h.nans) 32
  let a1 := { a with h := { h2 with n := n, nans := nn, sat := h2.sat || b.h.sat }, mn := lesser a.mn b.mn, mx := greater a.mx b.mx }
  let a2 := a1.rescaleTimes (b.wexp - a1.wexp)
  let (a3, ls) := a2.rescaleOther (a2.wexp - b.wexp) b.lv
  let a4 := a3.appendLevels 8 ls
  let a5 :=
    if b.sacc = 0 then a4
    else
      let sum := a4.sacc + b.sacc
      let (v, h) := a4.h.draw
      let a5 := { a4 with h := h, samp := if v.toNat % sum < b.sacc then b.samp else a4.samp, sacc := sum }
      if sum ≥ 2 ^ a5.wexp then { a5.push 0 a5.samp with sacc := sum - 2 ^ a5.wexp } else a5
  { a5 with h := { a5.h with ndc := a.h.ndc || b.h.ndc } }

/-- The weighted items of a sketch in order (R286, R291). -/
def Qsk.weighted (r : Qsk) : List (Nat × Nat) :=
  let l := (range' 0 8).flatMap fun k => (r.level k).map fun x => (x, 2 ^ (k + r.wexp))
  sortBy (fun a b : Nat × Nat => decide (ordKey a.1 ≤ ordKey b.1)) (if r.sacc = 0 then l else l ++ [(r.samp, r.sacc)])

/-- A quotient of naturals, exact or with the rest below its last bit. -/
def ratio (n d : Nat) : FVal :=
  let k := 64 + Nat.log2 d
  let q := n * 2 ^ k / d
  if n * 2 ^ k % d = 0 then .fin false q (-k) else sticky false q (-k)

/-- The canonical NaN of FP32. -/
def qnan32 : Nat := 0x7FC00000

/-- The first item whose cumulative weight reaches a value. -/
def firstAt (goal : FVal) : List (Nat × Nat) → Nat → Option Nat
  | [], _ => none
  | (x, w) :: l, cum => if (ofInteger (cum + w : Nat)).lt goal then firstAt goal l (cum + w) else some x

/-- SKQRY (R291). -/
def Qsk.quantile (r : Qsk) (q : Nat) : Nat :=
  let l := r.weighted
  let w := natSum (l.map (·.2))
  let v := ofF32 q
  if r.h.n = 0 || nan32 q then qnan32
  else if !(FVal.zero false).lt v then r.mn
  else if !v.lt (.fin false 1 0) then r.mx
  else if w = 0 then qnan32
  else (firstAt (v.mul (ofInteger w)) l 0).getD r.mx

/-- SKRNK (R291). -/
def Qsk.rank (r : Qsk) (x : Nat) : Nat :=
  let l := r.weighted
  let w := natSum (l.map (·.2))
  if r.h.n = 0 || nan32 x then qnan32
  else if ordKey x < ordKey r.mn then 0
  else if ordKey r.mx ≤ ordKey x then 0x3F800000
  else if w = 0 then qnan32
  else toF32 (ratio (natSum ((l.filter fun e => decide (ordKey e.1 ≤ ordKey x)).map (·.2))) w)

/-! ## Heavy-hitter list (R293 to R296) -/

/-- MINC (R293). -/
def Hhk.minc (r : Hhk) : Nat := if r.es.length = 60 then ((nth? 59 r.es).map fun e => e.2.1).getD 0 else 0

/-- Insertion of a key (R294). -/
def Hhk.insert (r : Hhk) (x : Nat) : Hhk :=
  let (n, h) := r.h.clamp (r.h.n + 1) 64
  let h0 := { h with n := n }
  match firstWhere (fun e : Nat × Nat × Nat => e.1 == x) r.es with
  | some e =>
    let (c, h1) := h0.clamp (e.2.1 + 1) 32
    { h := h1, es := canonEntries (r.es.map fun y => if y.1 = x then (x, c, y.2.2) else y) }
  | none =>
    if r.es.length < 60 then { h := h0, es := canonEntries (r.es ++ [(x, 1, 0)]) }
    else
      let (c, h1) := h0.clamp (r.minc + 1) 32
      let (o, h2) := h1.clamp r.minc 24
      { h := h2, es := canonEntries (r.es.take 59 ++ [(x, c, o)]) }

/-- Merge of B into A (R295). -/
def Hhk.merge (a b : Hhk) : Hhk :=
  let ma := a.minc
  let mb := b.minc
  let keys := a.es.map (·.1) ++ (b.es.map (·.1)).filter fun x => !(a.es.any fun e => e.1 == x)
  let look := fun (l : List (Nat × Nat × Nat)) (x m : Nat) => ((firstWhere (fun e : Nat × Nat × Nat => e.1 == x) l).map (·.2)).getD (m, m)
  let (cand, h) := keys.foldl (fun acc x =>
    let ca := look a.es x ma
    let cb := look b.es x mb
    let (c, h1) := acc.2.clamp (ca.1 + cb.1) 32
    let (o, h2) := h1.clamp (ca.2 + cb.2) 24
    (acc.1 ++ [(x, c, o)], h2)) (([] : List (Nat × Nat × Nat)), a.h)
  let (n, h1) := h.clamp (a.h.n + b.h.n) 64
  { h := { h1 with n := n, sat := h1.sat || b.h.sat, ndc := a.h.ndc || b.h.ndc }, es := (canonEntries cand).take 60 }

/-- SKEST on a heavy-hitter list: upper and lower estimate (R296). -/
def Hhk.estimate (r : Hhk) (x : Nat) : Nat × Nat :=
  match firstWhere (fun e : Nat × Nat × Nat => e.1 == x) r.es with
  | some e => (e.2.1, (e.2.1 + 2 ^ 64 - e.2.2) % 2 ^ 64)
  | none => (r.minc, 0)

/-- SKTOP (R296, R405). -/
def Hhk.top (r : Hhk) (i : Nat) : Nat × Nat :=
  match nth? i r.es with
  | some e => (e.1, e.2.1 + e.2.2 * 2 ^ 32)
  | none => (0, 0)

/-! ## Distinct-count registers (R298, R299) -/

/-- Insertion of a key (R298). -/
def Dck.insert (r : Dck) (x : Nat) : Dck :=
  let (n, h) := r.h.clamp (r.h.n + 1) 64
  let k := (skhash (BitVec.ofNat 64 x)).toNat
  { h := { h with n := n }, m := modifyAt (fun v => Nat.max v (clzNat k 53 + 1)) (k / 2 ^ 53) r.m }

/-- Merge (R298). -/
def Dck.merge (a b : Dck) : Dck :=
  let (n, h) := a.h.clamp (a.h.n + b.h.n) 64
  { h := { h with n := n, sat := h.sat || b.h.sat, ndc := a.h.ndc || b.h.ndc }, m := (a.m.zip b.m).map fun p => Nat.max p.1 p.2 }

/-- ALPHA × 2^24: ALPHA is the FP32 value nearest 0.72092 (R299). -/
def alpha24 : Nat := 12095031

/-- The estimate of distinct keys, an FP32 pattern (R299). -/
def Dck.estimate (r : Dck) : Nat :=
  let v := (r.m.filter fun x => x == 0).length
  let z := natSum (r.m.map fun x => 2 ^ (54 - x))
  if alpha24 * 2 ^ 52 ≤ 5120 * z && decide (v > 0) then
    (if v = 2048 then 0 else toF32 (sticky false (11 * (ln2Fix : Int) - lnFix v 0).toNat (11 - (fixBits : Int))))
  else toF32 (ratio (alpha24 * 2 ^ 52) z)

/-! ## Operations on records -/

/-- Merges a record into another of the same kind (R282, R290, R295, R298). -/
def skMerge (a b : SkRec) : Option SkRec :=
  match a, b with
  | .qsk x, .qsk y => some (.qsk (x.merge y))
  | .hhk x, .hhk y => some (.hhk (x.merge y))
  | .dck x, .dck y => some (.dck (x.merge y))
  | .qsk _, .hhk _ => none
  | .qsk _, .dck _ => none
  | .hhk _, .qsk _ => none
  | .hhk _, .dck _ => none
  | .dck _, .qsk _ => none
  | .dck _, .hhk _ => none

/-- A cleared record (R281). -/
def skClear (k : SkKind) (seed : Word64) (clrn : Nat) (ndc : Bool) : List Byte :=
  let h : SkHead := ⟨ndc, false, 0, 0, mix64 (seed ^^^ BitVec.ofNat 64 (clrn % 2 ^ 32)), 0, 0, 0⟩
  match k with
  | .qsk => skBytes (.qsk ⟨h, List.replicate 8 [], 0, 0, 0, 0x7F800000, 0xFF800000, 0⟩)
  | .hhk => skBytes (.hhk ⟨h, []⟩)
  | .dck => skBytes (.dck ⟨h, List.replicate 2048 0⟩)

/-- The launch of a thread. -/
def Module.launchOf (m : Module) (id : Nat) : Option Launch := firstWhere (fun l : Launch => l.id == id) m.lu.launches

/-- An order-dependent operation of a thread has executed: NDSEEN of its queue is set unless its launch has NONDET (R141). -/
def Module.orderDependent (m : Module) (cx : Nat) : Module :=
  let t := m.ctx cx
  match m.launchOf t.launch with
  | some l => if l.nondet then m else m.modQueue t.queue fun q => { q with ndseen := true }
  | none => m.modQueue t.queue fun q => { q with ndseen := true }

/-- Counts the entropy an operation has drawn, which marks it order-dependent (R141, R284, R402). -/
def Module.drewEntropy (m : Module) (cx n : Nat) : Module :=
  if n = 0 then m else { m with clk := { m.clk with draws := m.clk.draws + n } }.orderDependent cx

/-- The record in a sketch accumulator, as read at issue. -/
def State.record (s : State) (q : BitVec 2) : Option SkRec := skParse (Tab.bytes (s.rdQ q) 0 4096) s.now.clk.draws

/-- Writes a record into a sketch accumulator (R283). -/
def State.wrRecord (s : State) (q : BitVec 2) (r : SkRec) : State :=
  (s.wrQ q (Tab.putBytes (s.rdQ q) 0 (skBytes r))).on fun m => m.drewEntropy m.focus r.head.drew

/-- An insertion: the record must be of the kind named (R402, R403). -/
def State.skInsert (s : State) (i : Instr) (d : BitVec 2) (f : SkRec → Option SkRec) : State :=
  match (s.record d).bind f with
  | some r => s.wrRecord d r
  | none => s.faultSyl Cause.sketchFormat i

/-- SKQIN (R403). -/
def execSkqin (w : Wid) (t : FTy) (d : BitVec 2) (a : RegNo) (p : BitVec 4) (s : State) : Out :=
  let l := (activeLanes (widBits w) (ftyBits t) (s.rdP p) (s.rdV a)).map fun x => toF32 (decodeFP (fpOf (ftyFmt t)) x)
  .next (s.skInsert (.skqin w t d a p) d fun r => match r with
    | .qsk q => some (.qsk (l.foldl Qsk.insert q))
    | .hhk _ => none
    | .dck _ => none)

/-- Lane bits of the keys of SKHIN and SKDIN (R403). -/
def keyBits (wide : Bool) : Nat := if wide then 64 else 32

/-- SKHIN (R403). -/
def execSkhin (w : Wid) (wide : Bool) (d : BitVec 2) (a : RegNo) (p : BitVec 4) (s : State) : Out :=
  let l := activeLanes (widBits w) (keyBits wide) (s.rdP p) (s.rdV a)
  .next (s.skInsert (.skhin w wide d a p) d fun r => match r with
    | .hhk q => some (.hhk (l.foldl Hhk.insert q))
    | .qsk _ => none
    | .dck _ => none)

/-- SKDIN (R403). -/
def execSkdin (w : Wid) (wide : Bool) (d : BitVec 2) (a : RegNo) (p : BitVec 4) (s : State) : Out :=
  let l := activeLanes (widBits w) (keyBits wide) (s.rdP p) (s.rdV a)
  .next (s.skInsert (.skdin w wide d a p) d fun r => match r with
    | .dck q => some (.dck (l.foldl Dck.insert q))
    | .qsk _ => none
    | .hhk _ => none)

/-- SKMRG (R404). -/
def execSkmrg (d a : BitVec 2) (s : State) : Out :=
  .next (s.skInsert (.skmrg d a) d fun r => (s.record a).bind (skMerge r))

/-- A query: long class, landing count 8, its scalar results from one landing entry (R405). -/
def State.skQuery (s : State) (i : Instr) (a : BitVec 2) (f : SkRec → Option (List (Reg × Nat))) : State :=
  match (s.record a).bind f with
  | none => s.faultSyl Cause.sketchFormat i
  | some l => s.upd fun t => t.land ⟨l.map fun e => (e.1, BitVec.ofNat 1024 (e.2 % 2 ^ 64)), 8, vSlot, none, none, false⟩

/-- SKQRY (R405). -/
def execSkqry (d : RegNo) (a : BitVec 2) (b : RegNo) (s : State) : Out :=
  .next (s.skQuery (.skqry d a b) a fun r => match r with
    | .qsk q => some [(xs d, q.quantile (fld (s.rdS b).toNat 0 32))]
    | .hhk _ => none
    | .dck _ => none)

/-- SKRNK (R405). -/
def execSkrnk (d : RegNo) (a : BitVec 2) (b : RegNo) (s : State) : Out :=
  .next (s.skQuery (.skrnk d a b) a fun r => match r with
    | .qsk q => some [(xs d, q.rank (fld (s.rdS b).toNat 0 32))]
    | .hhk _ => none
    | .dck _ => none)

/-- SKEST (R405). -/
def execSkest (d c : RegNo) (a : BitVec 2) (b : RegNo) (s : State) : Out :=
  .next (s.skQuery (.skest d c a b) a fun r => match r with
    | .qsk _ => none
    | .hhk q => let e := q.estimate (s.rdS b).toNat; some [(xs d, e.1), (xs c, e.2)]
    | .dck q => some [(xs d, q.estimate), (xs c, q.h.n)])

/-- SKTOP (R405). -/
def execSktop (d c : RegNo) (a : BitVec 2) (b : RegNo) (s : State) : Out :=
  .next (s.skQuery (.sktop d c a b) a fun r => match r with
    | .hhk q => let e := q.top (s.rdS b).toNat; some [(xs d, e.1), (xs c, e.2)]
    | .qsk _ => none
    | .dck _ => none)

/-- SKCLR: the n-th of a bundle takes the n-th CLRN; an S-slot write of SKCTL stands (R281, R406). -/
def execSkclr (k : SkKind) (d : BitVec 2) (s : State) : Out :=
  let ctl := s.src.th.csr.skctl.toNat
  let n := s.now.th.u.ir.clears
  let clrn := (fld ctl 32 32 + n) % 2 ^ 32
  .next ((s.wrQ d (Tab.putBytes [] 0 (skClear k s.src.th.csr.skseed clrn (bit ctl 0)))).upd fun t =>
    let t1 := t.modU fun u => { u with ir := { u.ir with clears := n + 1 } }
    if t.u.ir.skctlSet then t1
    else t1.modC fun c => { c with skctl := BitVec.ofNat 64 (putFld ctl 32 32 ((clrn + 1) % 2 ^ 32)) })

end Sys2Proof.Machine
end

