-- ==== Sys2Proof/Machine/HomeOps.lean ====
section
/-!
DEFINITION. Operations of the homes' arithmetic units: atomics, the rescaling reduction, summary merges and cell operations (R237, R254 to
R258, R301, R457 to R460), and the import table that admits the requests of other modules (R33 to R36).
-/

namespace Sys2Proof.Machine

/-! ## Atomics (R457) -/

/-- The new value of an atomic on operands of `8n` bits. -/
def amoNew (op : AmoOp) (n old b c : Nat) : Nat :=
  let w := 8 * n
  match op with
  | .add => (old + b) % 2 ^ w
  | .min nat => if nat then Nat.min old b else if toSigned b w < toSigned old w then b else old
  | .max nat => if nat then Nat.max old b else if toSigned old w < toSigned b w then b else old
  | .and => old &&& b
  | .or => old ||| b
  | .xor => old ^^^ b
  | .swap => b
  | .cas => if old = b then c else old
  | .fadd => fAddBits fpF32 1 old b
  | .fmax => finish fpF32 .rne 1 ((ofF32 old).max (ofF32 b))

/-- What sD receives: the old value, sign-extended for the signed min and max (R457). -/
def amoOld (op : AmoOp) (n old : Nat) : Word64 :=
  match op with
  | .min nat => if nat then zext64 old (8 * n) else sext64 old (8 * n)
  | .max nat => if nat then zext64 old (8 * n) else sext64 old (8 * n)
  | .add => zext64 old (8 * n) | .and => zext64 old (8 * n) | .or => zext64 old (8 * n) | .xor => zext64 old (8 * n)
  | .swap => zext64 old (8 * n) | .cas => zext64 old (8 * n) | .fadd => zext64 old (8 * n) | .fmax => zext64 old (8 * n)

/-- Whether an operation is order-dependent (R141, R457). -/
def amoOrdered (op : AmoOp) (discards : Bool) : Bool :=
  match op with
  | .swap => true | .cas => true | .fadd => true | .fmax => !discards | .add => !discards | .min _ => !discards | .max _ => !discards
  | .and => !discards | .or => !discards | .xor => !discards

/-- An atomic at its home: the old value (R237, R258, R457). -/
def Module.homeAmo (m : Module) (a : Acc) (va n : Nat) (op : AmoOp) (b c : Nat) : Except Stop (Nat × Module) :=
  match m.homeReady a va n .write with
  | .error e => .error e
  | .ok (ph, m1) =>
    match m1.readHome ph va ph.pa n with
    | .error e => .error e
    | .ok bs =>
      match m1.writeHome a ph va ph.pa (leBytes (amoNew op n (leNat bs) (b % 2 ^ (8 * n)) (c % 2 ^ (8 * n))) n) 0 with
      | .error e => .error e
      | .ok m2 => .ok (leNat bs, m2)

/-! ## The rescaling reduction (R458) -/

/-- An FP32 lane of a record. -/
def rscLane (r : List Byte) (o : Nat) : FVal := ofF32 (numAt r o 4)

/-- The coefficient of one side: 1 where it holds the maximum, else the exponential of the exact difference, rounded once. -/
def rscCoef (mi mx : FVal) : FVal :=
  if !mi.lt mx && !mx.lt mi then .fin false 1 0 else ofF32 (toF32 (fExp (mi.add mx.negate)))

/-- The destination record after the reduction (R458). -/
def rscCombine (dst src : List Byte) (n : Nat) : List Byte :=
  let m1 := rscLane dst 0
  let m2 := rscLane src 0
  let ident := fun (mv s : FVal) => mv == .inf true && s.isZero
  let put := fun (h : List Byte) (s : Nat) (f : Nat → Nat) =>
    h ++ leBytes s 4 ++ (dst.drop 8).take 8 ++ ((range' 0 n).flatMap fun j => leBytes (f (16 + 4 * j)) 4)
  if m1.isNan || m2.isNan then put (leBytes qnan32 4) qnan32 fun _ => qnan32
  else if ident m2 (rscLane src 4) then dst
  else if ident m1 (rscLane dst 4) then put (src.take 4) (numAt src 4 4) fun o => numAt src o 4
  else
    let mx := m1.max m2
    let c1 := rscCoef m1 mx
    let c2 := rscCoef m2 mx
    let fuse := fun o => toF32 (((rscLane dst o).mul c1).add ((rscLane src o).mul c2))
    put (leBytes (toF32 mx) 4) (fuse 4) fuse

/-- Whether a range lies within one page. -/
def onePage (m : Module) (a : Acc) (va n : Nat) : Bool :=
  match translate m a.die a.cluster a.asid va .read a.user with
  | .ok (ph, _) => decide (va % ph.leaf.size + n ≤ ph.leaf.size)
  | .error _ => true

/-- Reads and writes back a record of a home operation, line by line, as one step (R237, R301). -/
def Module.homeUpdate (m : Module) (a : Acc) (va n : Nat) (f : List Byte → Except Stop (List Byte)) : Except Stop (List Byte × Module) :=
  match m.homeReady a va n .write with
  | .error e => .error e
  | .ok (ph, m1) =>
    match foldStop (fun (s : List Byte) q => match m1.readHome ph (va + q.1) q.2.1 q.2.2 with
      | .ok bs => .ok (s ++ bs)
      | .error e => .error e) (halfPieces ph.pa n) [] with
    | .error e => .error e
    | .ok old => match f old with
      | .error e => .error e
      | .ok new =>
        match foldStop (fun (m : Module) q =>
            m.writeHome a ph (va + q.1) q.2.1 ((new.drop q.1).take q.2.2) 0) (halfPieces ph.pa n) m1 with
        | .error e => .error e
        | .ok m2 => .ok (old, m2)

/-- The rescaling reduction at its home: the old m (R458). -/
def Module.homeRsc (m : Module) (a : Acc) (va n : Nat) (src : List Byte) : Except Stop (Nat × Module) :=
  if n = 0 || decide (n > 240) || numAt src 8 2 != n || !onePage m a va (16 + 4 * n) then .error (.fault Cause.rscFormat va)
  else match m.homeUpdate a va (16 + 4 * n) fun old =>
      if numAt old 8 2 = n then .ok (rscCombine old src n) else .error (.fault Cause.rscFormat va) with
    | .error e => .error e
    | .ok (old, m1) => .ok (numAt old 0 4, m1)

/-- A summary merge at its home (R301): the entropy it drew. A record breaks R283 where it does not lie within one page. -/
def Module.homeMerge (m : Module) (a : Acc) (va : Nat) (k : SkKind) (src : List Byte) : Except Stop (Nat × Module) :=
  if !onePage m a va (skSize k) then .error (.fault Cause.addrAlign va)
  else
    let bad : Stop := .fault Cause.sketchFormat va
    let parse := fun b => (skParse b m.clk.draws).bind fun r => if r.kind = k then some r else none
    match parse src with
    | none => .error bad
    | some b =>
      match m.homeUpdate a va (skSize k) fun old => match (parse old).bind fun d => skMerge d b with
        | some r => .ok (skBytes r)
        | none => .error bad with
      | .error e => .error e
      | .ok (old, m1) =>
        let drew := (((parse old).bind fun d => skMerge d b).map fun r => r.head.drew).getD 0
        .ok (drew, { m1 with clk := { m1.clk with draws := m1.clk.draws + drew } })

/-! ## Cell operations at the home (R250, R256, R257, R460) -/

/-- A cell made ready: a VERSIONED page, no poison, and nothing held by the host, of its half-line or of what holds its header and siblings. -/
def Module.cellReady (m : Module) (a : Acc) (va : Nat) (use : Use) : Except Stop (CellAt × Module) :=
  match m.homeReady a va 64 use with
  | .error e => .error e
  | .ok (ph, m1) =>
    if !ph.ver then .error (.fault Cause.cellPage va)
    else match m1.cellStop ⟨ph.pa, ph⟩ true va with
      | some st => .error st
      | none => .ok (⟨ph.pa, ph⟩, m1)

/-- A cell load at the home: the stamp and the values in dot order. -/
def Module.homeCellLoad (m : Module) (a : Acc) (va : Nat) : Except Stop (Word64 × List (List Byte) × Module) :=
  match m.cellReady a va .read with
  | .error e => .error e
  | .ok (c, m1) => let r := (m1.cell c).load; .ok (r.1, r.2, m1)

/-- Journals a cell operation's line where it is protected (R84, R98). -/
def Module.protectCell (m : Module) (a : Acc) (c : CellAt) (va : Nat) : Except Stop Module :=
  match m.protectWrite a.queue (c.pa / 64) ⟨(m.cell c).first, true⟩ with
  | .ok m1 => .ok m1
  | .error e => .error (.fault e.1 (va + e.2))

/-- Whether a fold under this operator depends on the order of arrival (R260). -/
def foldOrdered (c : CellAt) : Bool := c.mop == 1 || c.mop == 4

/-- A cell store at the home: the stamp, whether a fold took place, and whether it is order-dependent. -/
def Module.homeCellStore (m : Module) (a : Acc) (va st : Nat) (val : List Byte) (wid wctr : Nat) :
    Except Stop (Word64 × Bool × Bool × Module) :=
  match m.cellReady a va .write with
  | .error e => .error e
  | .ok (c, m1) =>
    match m1.cellStore c st val wid wctr with
    | .error e => .error (.fault e va)
    | .ok _ =>
      match m1.protectCell a c va with
      | .error e => .error e
      | .ok m2 => match m2.cellStore c st val wid wctr with
        | .error e => .error (.fault e va)
        | .ok r => .ok (r.stamp, r.fold, r.fold && foldOrdered c, r.m)

/-- A cell reconcile at the home: the stamp and the value. -/
def Module.homeCellReconcile (m : Module) (a : Acc) (va rop wid wctr : Nat) : Except Stop (Word64 × List Byte × Module) :=
  match m.cellReady a va .write with
  | .error e => .error e
  | .ok (c, m1) =>
    match m1.cellReconcile c rop wid wctr with
    | .error e => .error (.fault e va)
    | .ok r =>
      if (m1.cell c).sibs.length ≤ 1 then .ok r
      else match m1.protectCell a c va with
        | .error e => .error e
        | .ok m2 => match m2.cellReconcile c rop wid wctr with
          | .error e => .error (.fault e va)
          | .ok r => .ok r

/-! ## The import table (R33, R34) -/

/-- First offset of the tunnel range (R32). -/
def tunnelBase : Nat := 0xFF0000000000

/-- Words of an import entry. -/
def Module.importEntry (m : Module) (i : Nat) : Word64 × Word64 := Tab.get (0, 0) m.fb.imports i

/-- First window offset of an entry's range. -/
def impBase (w0 : Word64) : Nat := fld w0.toNat 0 32 * 65536
/-- Length of an entry's range. -/
def impLen (w0 : Word64) : Nat := fld w0.toNat 32 28 * 65536

/-- The valid entry whose range holds an offset. -/
def Module.importAt (m : Module) (off : Nat) : Option (Nat × Word64 × Word64) :=
  firstWhere (fun e : Nat × Word64 × Word64 => bit e.2.1.toNat 63 && decide (impBase e.2.1 ≤ off) &&
    decide (off < impBase e.2.1 + impLen e.2.1)) m.fb.imports

/-- Rights an import entry may give: RD, WR or HOME. -/
inductive ImpRight where
  | rd | wr | home
  deriving DecidableEq, Repr

/-- The bit of a right in word 0. -/
def rightBit : ImpRight → Nat
  | .rd => 62 | .wr => 61 | .home => 60

/-- The local virtual address of a window offset for a source and a right (R34). -/
def Module.importVa (m : Module) (src off : Nat) (r : ImpRight) : Except Cause Nat :=
  match m.importAt off with
  | none => .error Cause.remoteUnmapped
  | some (_, w0, w1) =>
    if !bit w1.toNat 10 && fld w1.toNat 0 10 != src then .error Cause.remoteUnmapped
    else if !bit w0.toNat (rightBit r) then .error Cause.remotePerm
    else .ok (fld w1.toNat 16 36 * 65536 + (off - impBase w0))

/-- Bytes from an offset to the end of the entry that holds it, or of its 64 KiB, the unit of the ranges, where none does. -/
def Module.importRun (m : Module) (off : Nat) : Nat :=
  match m.importAt off with
  | some (_, w0, _) => impBase w0 + impLen w0 - off
  | none => 65536 - off % 65536

/-- How a request of another module enters: translated in IMPASID at user level, through no L1; `thread` tells whether it comes from a thread's S, C1
or M queue (R33, R243, R258). -/
def Module.remoteAcc (m : Module) (thread : Bool) : Acc := ⟨0, fld m.fb.impasid.toNat 0 16, 0, true, thread, false, false, none⟩

/-- The outcome of a request at its target: the first cause, the bytes acknowledged, and the data. -/
structure Served where
  cause : Cause
  count : Nat
  bytes : List Byte
  m : Module
  deriving DecidableEq, Repr

/-- A read or write, split at the boundary between two entries; a part that fails leaves its target unchanged, and the other parts are checked on
their own (R34). -/
def serveParts (src : Nat) (thread : Bool) (wr : Option (List Byte)) : Nat → Nat → Nat → Served → Except Stop Served
  | 0, _, _, r => .ok r
  | fuel + 1, off, n, r =>
    if n = 0 then .ok r
    else
      let k := Nat.min n (r.m.importRun off)
      let fail := fun (c : Cause) (a : Nat) => { r with cause := if r.cause = 0 then c else r.cause, m := r.m.noteFull c a }
      let next := fun r' : Served => serveParts src thread (wr.map fun b => b.drop k) fuel (off + k) (n - k) r'
      match r.m.importVa src off (if wr.isSome then .wr else .rd) with
      | .error c => next (fail c 0)
      | .ok va =>
        match wr with
        | some b => match r.m.writeG (r.m.remoteAcc thread) va (b.take k) with
          | .ok m1 => next { r with count := r.count + k, m := m1 }
          | .error (.fault c a) => next (fail c a)
          | .error e => .error e
        | none => match r.m.readG (r.m.remoteAcc thread) va k with
          | .ok (bs, m1) => next { r with count := r.count + k, bytes := r.bytes ++ bs, m := m1 }
          | .error (.fault c a) => next (fail c a)
          | .error e => .error e

/-- The local address of a home operation's range, which is never split (R34). -/
def Module.importHome (m : Module) (src off n : Nat) : Except Cause Nat :=
  if m.importRun off < n then .error Cause.remoteUnmapped else m.importVa src off .home

/-- One element of a drain (R276). -/
def drainElem (f : FTy) (tbl : BitVec 128) (ts : FVal) (clamp : Option (Word32 × Word32)) (d acc : Nat) : Nat :=
  let fp := fpOf (ftyFmt f)
  let ov := finov tbl (ftyCode f)
  let x := finish fp .rne ov ((decodeFP fp d).add ((ofF32 acc).mul ts))
  match clamp with
  | none => x
  | some (lo, hi) =>
    let bound := fun (w : Word32) => convertTo (ftyFmt f) tbl .rne (ofF32 w.toNat)
    if (decodeFP fp x).isNan then x
    else
      let l := ofF32 lo.toNat
      let h := ofF32 hi.toNat
      let y := if !l.isNan && (decodeFP fp x).lt l then bound lo else x
      if !h.isNan && h.lt (decodeFP fp y) then bound hi else y

/-- A row of a drain: its bytes from the tile's row and what the destination held. -/
def drainRow (row : List Word32) (f : FTy) (tbl : BitVec 128) (ta tb : Word32) (clamp : Option (Word32 × Word32)) (old : List Byte) :
    List Byte :=
  let n := ftyBits f / 8
  let ts := ofF32 (finish fpF32 .rne (finov tbl 0) ((ofF32 ta.toNat).mul (ofF32 tb.toNat)))
  ((range' 0 row.length).zip row).flatMap fun e => leBytes (drainElem f tbl ts clamp (numAt old (n * e.1) n) e.2.toNat) n

/-- A row that a drain of another module adds, read and written in one event (R34, R244). -/
def Module.serveDrain (m : Module) (src off : Nat) (thread : Bool) (n : Nat) (new : List Byte → List Byte) : Except Stop Served :=
  match serveParts src thread none 3 off n ⟨0, 0, [], m⟩ with
  | .error e => .error e
  | .ok r => if r.cause ≠ 0 then .ok { r with count := 0, bytes := [] } else serveParts src thread (some (new r.bytes)) 3 off n ⟨0, 0, [], r.m⟩

/-- Serves a request through aperture 0x3 (R34). Only a page fault or a snoop holds it. -/
def Module.serve (m : Module) (src off : Nat) (thread : Bool) (req : RemoteReq) : Except Stop Served :=
  match req with
  | .read n => if off + n > tunnelBase then .ok ⟨Cause.remoteUnmapped, 0, [], m⟩ else serveParts src thread none (n / 65536 + 3) off n ⟨0, 0, [], m⟩
  | .write bs =>
    if off + bs.length > tunnelBase then .ok ⟨Cause.remoteUnmapped, 0, [], m⟩
    else serveParts src thread (some bs) (bs.length / 65536 + 3) off bs.length ⟨0, 0, [], m⟩
  | .chunk _ _ _ => .ok ⟨Cause.remoteUnmapped, 0, [], m⟩
  | .drain f row ta tb clamp tbl =>
    let n := row.length * (ftyBits f / 8)
    if off + n > tunnelBase then .ok ⟨Cause.remoteUnmapped, 0, [], m⟩ else m.serveDrain src off thread n (drainRow row f tbl ta tb clamp)
  | .atomic op wide b c =>
    let n := if wide then 8 else 4
    match m.importHome src off n with
    | .error e => .ok ⟨e, 0, [], m⟩
    | .ok va =>
      match m.homeAmo (m.remoteAcc thread) va n op b.toNat c.toNat with
      | .ok (old, m1) => .ok ⟨0, n, leBytes old n, m1⟩
      | .error (.fault e a) => .ok ⟨e, 0, [], m.noteFull e a⟩
      | .error e => .error e

/-! ## Remote read-only lines (R213, R214, R233) -/

/-- Key of a remote byte in a core's read-only lines. -/
def roKey (d o : Nat) : Nat := d * 2 ^ 48 + o

/-- The core that holds the remote lines for one core: of a fused cluster, its first (R213). -/
def Module.roHome (m : Module) (k : Nat) : Nat := if m.cx.fused.contains (clusterOf k) then 8 * clusterOf k else k

/-- Bytes of a remote range that the core's L1 holds, if it holds them all. -/
def Module.roBytes (m : Module) (k d o n : Nat) : Option (List Byte) :=
  allSome ((range' (roKey d o) n).map fun a => Tab.get none (m.core (m.roHome k)).ro a)

/-- The identity of the next plain request. -/
def Module.nextId (m : Module) : Nat := 2 ^ 15 + m.fb.reqNext

/-- Bytes of a remote line have been read: the L1 may hold them, unless the request left before an answer that the core has already had, whose bytes
may be newer, or they are of a VERSIONED page (R214, R233, R250). -/
def Module.roKeep (m : Module) (k d o id : Nat) (bs : List Byte) (cell : Bool) : Module :=
  m.modCore (m.roHome k) fun c =>
    let v := fun b : Byte => if cell || decide (id < c.roSeen) then none else some b
    { c with roSeen := m.nextId, ro := ((range' (roKey d o) bs.length).zip bs).foldl (fun t e => Tab.set none t e.1 (v e.2)) c.ro }

/-- A write by the requester invalidates its copy (R214). -/
def Module.roDrop (m : Module) (k d o n : Nat) : Module :=
  m.modCore (m.roHome k) fun c =>
    { c with roSeen := m.nextId, ro := Tab.drop (fun a => decide (roKey d o ≤ a) && decide (a < roKey d o + n)) c.ro }

/-- Whether a held copy answers a read: the module may keep a line or not, so a free bit decides (log entry 4). -/
def Module.roAnswer (m : Module) (k d o n : Nat) : Option (List Byte) × Module :=
  match m.roBytes k d o n with
  | none => (none, m)
  | some bs =>
    let (fb, m1) := m.freeBytes 1
    (if leNat fb % 2 = 1 then some bs else none, m1)

/-! ## Requests of this module -/

/-- Whether Silo has installed the keys of this tenancy: from RELEASE until ATTEST installs them nothing passes a port (R26, R53, R135). -/
def Module.keyed (m : Module) : Bool := m.silo.keys != 0 && m.silo.tstate != .release && m.silo.tstate != .scrub

/-- Whether the stations may carry traffic: DVALID is 1 and the keys of UALinkSec are installed (R26, R31, R135). -/
def Module.carries (m : Module) : Bool := bit m.fb.devid.toNat 63 && m.keyed

/-- Whether a station is in L: it has trained and its peer takes encryption (R26, R29). -/
def Station.live (x : Station) : Bool := !x.down && !x.refused

/-- The live stations in ascending order; none while the module carries no traffic (R29, R31). -/
def Module.liveStations (m : Module) : List Nat :=
  if m.carries then (range' 0 36).filter fun n => (m.station n).live else []

/-- The station of a source queue and a device (R29); 36 where none is live. -/
def Module.stationFor (m : Module) (q d : Nat) : Nat := let l := m.liveStations; (nth? ((q + 7 * d) % l.length) l).getD 36

/-- Whether a packet asks for something, and so stays on its station's account until it is answered (R30). -/
def packetAsks (p : Packet) : Bool :=
  match p with
  | .request _ _ _ _ _ => true
  | .tunnel q => !q.areaRsp
  | .completion _ _ _ _ _ => false

/-- Whether a packet must wait behind one that is already on its way out: behind an earlier one of its source queue and device that waits itself,
and, where its station has changed, behind every request of the two that the link of the old one has still to acknowledge (R30, R41; log entry 23). -/
def Outgoing.behind (o x : Outgoing) : Bool :=
  x.sq == o.sq && x.dev == o.dev && (x.seq.isNone || (packetAsks x.packet && !x.acked && x.station != o.station))

/-- Puts a packet out: on the station R29 now gives it, with the next number of that link, or waiting where it must (R29, R30, R51). -/
def Module.sendOut (m : Module) (o : Outgoing) : Module :=
  let n := m.stationFor o.sq o.dev
  let o1 := { o with station := n, seq := none, acked := false }
  if n ≥ 36 || (m.station n).retraining || m.fb.outbox.any fun x => o1.behind x then { m with fb := { m.fb with outbox := m.fb.outbox ++ [o1] } }
  else
    let m1 := m.modStation n fun x => { x with sent := x.sent + 1 }
    { m1 with fb := { m1.fb with outbox := m1.fb.outbox ++ [{ o1 with seq := some (m.station n).sent }] } }

/-- Gives a message that waits for a tag the tag that is free (R37): the round controller's list of deltas names it too. -/
def Module.giveTag (m : Module) (o : Outgoing) (tag : Nat) : Module × Outgoing :=
  let p := Tab.get .none m.fb.pending o.id
  let m1 := { m with fb := { m.fb with pending := Tab.set .none (Tab.set .none m.fb.pending o.id .none) tag p } }
  let m2 := match p with
    | .group slot _ _ _ _ _ => m1.modGroup slot fun g => { g with deltas := g.deltas.map fun d => if d = o.id then tag else d }
    | _ => m1
  (m2, { o with id := tag, packet := match o.packet with
    | .tunnel q => .tunnel { q with tag := BitVec.ofNat 16 tag }
    | p => p })

/-- Identities from here on are of messages that wait for a tag. -/
def untagged : Nat := 2 ^ 40

/-- Sends one packet that waits, where it may go: a message needs a tag first. -/
def Module.retryOut (m : Module) (o : Outgoing) : Module :=
  if o.id < untagged then m.sendOut o
  else match firstWhere (fun t => decide (Tab.get .none m.fb.pending t = .none)) (range' 0 32768) with
    | none => { m with fb := { m.fb with outbox := m.fb.outbox ++ [o] } }
    | some tag => let (m1, o1) := m.giveTag o tag; m1.sendOut o1

/-- Sends a packet from a source queue to a device. -/
def Module.post (m : Module) (q d id : Nat) (p : Packet) : Module := m.sendOut ⟨id, q, d, 36, none, false, m.clk.cycle, [], p⟩

/-- Sends what waits and now may go, in order (R30). -/
def Module.pump (m : Module) : Module :=
  if m.fb.outbox.all fun o => o.seq.isSome then m
  else m.fb.outbox.foldl (fun m o => if o.seq.isSome then { m with fb := { m.fb with outbox := m.fb.outbox ++ [o] } } else m.retryOut o)
    { m with fb := { m.fb with outbox := [] } }

/-! ### Combining at egress (R44, R45) -/

/-- Whether an egress combines an operation (R44). -/
def amoCombines (op : AmoOp) : Bool :=
  match op with
  | .add => true | .min _ => true | .max _ => true | .and => true | .or => true | .xor => true
  | .swap => false | .cas => false | .fadd => false | .fmax => false

/-- Cycles of ACLK within 16 cycles of FCLK: 12.8 ns (R15, R44). -/
def combineCycles : Nat := 10

/-- The requests that a packet carries: those combined in it, else its own. -/
def Outgoing.members (o : Outgoing) : List (Nat × Nat × Word64) :=
  match o.parts, o.packet with
  | [], .request _ _ _ _ (.atomic _ _ b _) => [(o.sq, o.id, b)]
  | l, _ => l

/-- The order in which the requesters of a combined request receive old values: source queue, then issue (R45). -/
def partOrder (l : List (Nat × Nat × Word64)) : List (Nat × Nat × Word64) :=
  sortBy (fun a b : Nat × Nat × Word64 => decide (a.1 < b.1) || (a.1 == b.1 && decide (a.2.1 ≤ b.2.1))) l

/-- The operand with which one request does what the separate ones would (R45). -/
def combinedOperand (op : AmoOp) (n : Nat) : List (Nat × Nat × Word64) → Word64
  | [] => 0
  | p :: l => l.foldl (fun b q => BitVec.ofNat 64 (amoNew op n (b.toNat % 2 ^ (8 * n)) (q.2.2.toNat % 2 ^ (8 * n)) 0)) p.2.2

/-- Whether an atomic that reaches an egress is combined with a request there: the same operation, width and word within 16 FCLK cycles, at most 8
together (R44); its queue has sent nothing to that device since, whose order combining would break (R41). -/
def Module.combinesWith (m : Module) (q d off : Nat) (op : AmoOp) (wide : Bool) (o : Outgoing) : Bool :=
  let later := (m.fb.outbox.dropWhile fun x => x.id != o.id).drop 1
  o.station == m.stationFor q d && o.dev == d && !o.acked && decide (m.clk.cycle ≤ o.at_ + combineCycles) && decide (o.members.length < 8) &&
    !(later.any fun x => x.sq == q && x.dev == d) && match o.packet with
      | .request _ _ off' _ (.atomic op' wide' _ _) => off' == off && op' == op && wide' == wide && amoCombines op
      | _ => false

/-- A request combined with another: the packet that now carries both. -/
def Outgoing.combine (o : Outgoing) (q id : Nat) (op : AmoOp) (wide : Bool) (b : Word64) : Outgoing :=
  let l := partOrder (o.members ++ [(q, id, b)])
  { o with
    parts := l
    packet := match o.packet with
      | .request src i off thread (.atomic _ _ _ c) => .request src i off thread (.atomic op wide (combinedOperand op (if wide then 8 else 4) l) c)
      | p => p }

/-- Puts a plain request on its way: combined with one at its egress, or as a packet of its own (R44). -/
def Module.egress (m : Module) (q d id off : Nat) (req : RemoteReq) : Module :=
  let own := m.post q d id (.request m.devid id off (decide (q < 2048)) req)
  match req with
  | .atomic op wide b _ => match firstWhere (m.combinesWith q d off op wide) m.fb.outbox with
    | some o => { m with fb := { m.fb with outbox := m.fb.outbox.map fun x => if x.id = o.id then x.combine q id op wide b else x } }
    | none => own
  | _ => own

/-- A core's write to another module invalidates the copy its L1 holds (R214). -/
def Module.remoteWrite (m : Module) (q d off n : Nat) : Module := if q < 2048 then m.roDrop (q / 2) d off n else m

/-- What a request writes at its target, in bytes. -/
def reqWrites (req : RemoteReq) : Nat :=
  match req with
  | .read _ => 0
  | .write bs => bs.length
  | .atomic _ _ _ _ => 8
  | .chunk _ _ bs => bs.length
  | .drain f row _ _ _ _ => row.length * (ftyBits f / 8)

/-- Makes a plain request: its identity, and the module with the request sent (R36). Identities of plain requests start at 2^15. -/
def Module.request (m : Module) (q d off : Nat) (req : RemoteReq) (p : Pending) : Nat × Module :=
  let id := m.nextId
  let m0 := if reqWrites req = 0 then m else m.remoteWrite q d off (reqWrites req)
  let m1 := m0.egress q d id off req
  (id, { m1 with fb := { m1.fb with reqNext := m1.fb.reqNext + 1, pending := Tab.set .none m1.fb.pending id p } })

/-- The lowest tag free, none while every tag is in use (R37). -/
def Module.tagFree (m : Module) : Option Nat := firstWhere (fun t => decide (Tab.get .none m.fb.pending t = .none)) (range' 0 32768)

/-- Sends a tunnel request: its tag, and the module with the message sent (R37, R38). While every tag is in use it waits under an identity of its
own. -/
def Module.tunnel (m : Module) (q d kind off aux : Nat) (payload : List Byte) (car : Carried) (p : Pending) : Nat × Module :=
  let tag := m.tagFree.getD (untagged + m.fb.reqNext)
  let msg : TunnelMsg := ⟨BitVec.ofNat 8 kind, 0, BitVec.ofNat 16 tag, BitVec.ofNat 16 m.devid, BitVec.ofNat 16 payload.length,
    BitVec.ofNat 48 off, BitVec.ofNat 16 aux, payload, BitVec.ofNat 10 m.devid, false, car⟩
  let m1 := if tag < untagged then m.post q d tag (.tunnel msg)
    else { m with fb := { m.fb with outbox := m.fb.outbox ++ [⟨tag, q, d, 36, none, false, m.clk.cycle, [], .tunnel msg⟩], reqNext := m.fb.reqNext + 1 } }
  (tag, { m1 with fb := { m1.fb with pending := Tab.set .none m1.fb.pending tag p } })

/-- Whether a range of the module's window lies in part in a VERSIONED page, whose bytes no L1 may hold (R250). -/
def Module.windowCell (m : Module) (src off n : Nat) : Bool :=
  (pagePieces off n).any fun p => match m.importVa src p.2.1 .rd with
    | .error _ => false
    | .ok va => match translate m 0 none (fld m.fb.impasid.toNat 0 16) va .read true with
      | .error _ => false
      | .ok (ph, _) => ph.ver

/-- Answers a plain request of another module. -/
def answer (src id off : Nat) (r : Served) : Module :=
  r.m.post 2048 src id (.completion id r.cause.toNat r.count r.bytes (r.m.windowCell src off r.bytes.length))

/-- Whether a remote device identifier is the module's own, so that the access is looped back (R35). -/
def Module.isSelf (m : Module) (d : Nat) : Bool := d == m.devid

end Sys2Proof.Machine
end

