-- ==== Sys2Proof/Machine/Mem.lean ====
section
/-!
DEFINITION. Generic addresses, scratchpads and their region maps, the S queue and WAITF: rules R203, R205, R209, R214, R224 to R227,
R236 to R240, R359, R360 and R376.
-/

namespace Sys2Proof.Machine

/-! ## Generic addresses (R203, R205) -/

/-- Where a generic address lies: own scratchpad, the scratchpad of the context named, global, remote, or pool. -/
inductive Place where
  | own (off : Nat)
  | peer (cx off : Nat)
  | globl (va : Nat)
  | remote (dev off : Nat)
  | pool (off : Nat)
  deriving DecidableEq, Repr

/-- The generic address of a pool offset. -/
def genPool (off : Nat) : Nat := 4 * 2 ^ 60 + off
/-- The generic address of an own scratchpad offset. -/
def genOwn (off : Nat) : Nat := 2 ^ 60 + off

/-- How the queues of a context make accesses. -/
def Module.acc (m : Module) (cx : Nat) (user dev : Bool) : Acc :=
  ⟨dieOfCore (coreOf cx), (m.ctx cx).asid, coreOf cx, user, true, true, dev, some (m.ctx cx).queue⟩

/-- The name of the saved context of a launch (R154). -/
def savedCtx (launch c : Nat) : Nat := 2048 * (1 + launch) + c % 2048

/-- The context on core `k` that holds a thread of a launch; one that has been saved from that core is still named. -/
def Module.ctxOnCore (m : Module) (k launch : Nat) : Option Nat :=
  firstWhere (fun c => (m.ctx c).status != .empty && (m.ctx c).launch == launch)
    [2 * k, 2 * k + 1, savedCtx launch (2 * k), savedCtx launch (2 * k + 1)]

/-- The scratchpad that core index `i` of the cluster names (R205). -/
def Module.peerPlace (m : Module) (cx i off gen : Nat) : Except Stop Place :=
  let k := coreOf cx
  if i = k % 8 then .ok (.own off)
  else
    let k' := k / 8 * 8 + i
    match m.ctxOnCore k' (m.ctx cx).launch with
    | none => .error (.fault Cause.addrPeer gen)
    | some c => if m.active k' = c && !(m.core k').exchange then .ok (.peer c off) else .error .wait

/-- Decodes a generic address for an access of `n` bytes (R203). -/
def Module.place (m : Module) (cx : Nat) (user : Bool) (a : Word64) (n : Nat) : Except Stop Place :=
  let x := a.toNat
  let bad : Except Stop Place := .error (.fault Cause.addrAperture x)
  match fld x 60 4 with
  | 0 => if apertureZero x 0 && decide (fld x 0 52 + n ≤ 2 ^ 52) then .ok (.globl (fld x 0 52)) else bad
  | 1 => if apertureZero x 1 && decide (fld x 0 20 + n ≤ 2 ^ 20) then .ok (.own (fld x 0 20)) else bad
  | 2 => if apertureZero x 2 && decide (fld x 0 20 + n ≤ 2 ^ 20) then m.peerPlace cx (fld x 20 3) (fld x 0 20) x else bad
  | 3 => if apertureZero x 3 && decide (fld x 0 48 + n ≤ 2 ^ 48) then .ok (.remote (fld x 48 10) (fld x 0 48)) else bad
  | 4 =>
    if !apertureZero x 4 then bad
    else if user then .error (.fault Cause.addrPriv x)
    else if fld x 0 42 + n ≤ 2 ^ 42 then .ok (.pool (fld x 0 42)) else bad
  | _ => bad

/-! ## Scratchpads under region maps (R225, R226) -/

/-- The 4 KiB blocks a range touches. -/
def blocksOf (off n : Nat) : List Nat := if n = 0 then [] else range' (off / 4096) ((off + n - 1) / 4096 - off / 4096 + 1)

/-- Whether a block lies in the window of a valid map. -/
def Thread.mapped (t : Thread) (b : Nat) : Bool := (t.mapOfOffset (b * 4096)).isSome

/-- The first block of a range that a valid map covers and that is not filled. -/
def Thread.unfilled (t : Thread) (off n : Nat) : Option Nat :=
  firstWhere (fun b => t.mapped b && !t.b.filled.contains b) (blocksOf off n)

/-- What an access to an unfilled block meets: the fill, or the fault of its range (R225). -/
def Module.needFill (m : Module) (cx : Nat) (user : Bool) (b : Nat) : Stop :=
  match (m.ctx cx).mapOfOffset (b * 4096) with
  | none => .wait
  | some (_, w) =>
    match m.readG (m.acc cx user false) (mapToVa w (b * 4096)) 4096 with
    | .ok _ => .fill cx b
    | .error (.page va _) => .page va true
    | .error e => e

/-- Whether a context's scratchpad is out of its core, in the bank store, or on its way there (R199). -/
def Module.banked (m : Module) (cx : Nat) : Bool :=
  decide (cx < 2048) && (m.active (coreOf cx) != cx || (m.core (coreOf cx)).exchange)

/-- Makes a scratchpad range ready. Own S and C1 accesses start fills; matrix and peer accesses only wait for them (R225). -/
def Module.spReady (m : Module) (cx : Nat) (user starts : Bool) (off n : Nat) : Except Stop Unit :=
  if m.banked cx then .error .wait
  else match (m.ctx cx).unfilled off n with
  | none => .ok ()
  | some b => .error (if starts then m.needFill cx user b else .wait)

/-- Marks the filled blocks of a range dirty, the newest last (R226). -/
def Thread.markDirty (t : Thread) (off n : Nat) : Thread :=
  t.modB fun b => { b with dirty := b.dirty ++ (blocksOf off n).filter fun k => t.mapped k && b.filled.contains k && !b.dirty.contains k }

/-- Reads a scratchpad. -/
def Module.spRead (m : Module) (cx : Nat) (user starts : Bool) (off n : Nat) : Except Stop (List Byte) :=
  match m.spReady cx user starts off n with
  | .error e => .error e
  | .ok _ => .ok ((m.ctx cx).spBytes off n)

/-- Writes a scratchpad. -/
def Module.spWrite (m : Module) (cx : Nat) (user starts : Bool) (off : Nat) (bs : List Byte) : Except Stop Module :=
  match m.spReady cx user starts off bs.length with
  | .error e => .error e
  | .ok _ => .ok (m.modCtx cx fun t => (t.spPut off bs).markDirty off bs.length)

/-- How write-backs of region maps enter the model: they come from no queue of the thread (R243). -/
def Module.mapAcc (m : Module) (cx : Nat) : Acc := { m.acc cx (!(m.ctx cx).system) false with thread := false, l1 := false }

/-- Writes a dirty block back and clears its dirty bit (R226). -/
def Module.writeBlock (m : Module) (cx b : Nat) : Except Stop Module :=
  match (m.ctx cx).mapOfOffset (b * 4096) with
  | none => .ok m
  | some (_, w) =>
    match m.writeG (m.mapAcc cx) (mapToVa w (b * 4096)) ((m.ctx cx).spBytes (b * 4096) 4096) with
    | .error e => .error e
    | .ok m1 => .ok (m1.modCtx cx fun t => t.modB fun x => { x with dirty := x.dirty.filter (· != b) })

/-- The bytes of a fill in flight reach their block (R225). A fill that now faults ends; the touching access meets the fault. -/
def Module.fillDone (m : Module) (cx b : Nat) : Module :=
  let t := m.ctx cx
  let drop := fun x : RegionMaps => { x with fills := x.fills.filter (· != b) }
  if !t.b.fills.contains b then m
  else match t.mapOfOffset (b * 4096) with
    | none => m.modCtx cx fun t => t.modB drop
    | some (_, w) =>
      match m.readG (m.acc cx (!t.system) false) (mapToVa w (b * 4096)) 4096 with
      | .ok (bs, m1) => m1.modCtx cx fun t => (t.spPut (b * 4096) bs).modB fun x => { drop x with filled := x.filled ++ [b] }
      | .error (.snoop h) => m.askSnoop h
      | .error .wait => m
      | .error _ => m.modCtx cx fun t => t.modB drop

/-- REGION_FILL_COMPLETE (R225). -/
def execRegionFillComplete (ctx block : Nat) (s : State) : Out := .next (s.on fun m => m.fillDone ctx block)

/-- The oldest dirty block that a background write-back may take: its map has WB 1 and no fault held (R226). -/
def Thread.oldestDirty (t : Thread) : Option Nat :=
  firstWhere (fun b => match t.mapOfOffset (b * 4096) with
    | some (i, w) => mapWb w && Tab.get 0 t.b.fault i == 0
    | none => false) t.b.dirty

/-- Holds the fault of a background write-back for the next SPSYNC or unmap of its map (R226). -/
def Thread.holdMapFault (t : Thread) (b : Nat) (c : Cause) : Thread :=
  match t.mapOfOffset (b * 4096) with
  | some (i, _) => t.modB fun x => { x with fault := Tab.set 0 x.fault i c.toNat }
  | none => t

/-- A background write-back: while the dirty blocks exceed RMWBTH, the oldest is written back (R226). -/
def Module.writebackOldest (m : Module) (cx : Nat) : Module :=
  let t := m.ctx cx
  if t.b.dirty.length ≤ fld t.csr.rmwbth.toNat 0 9 then m
  else match t.oldestDirty with
    | none => m
    | some b =>
      match m.writeBlock cx b with
      | .ok m1 => m1
      | .error (.fault c a) => (m.noteFull c a).modCtx cx fun t => t.holdMapFault b c
      | .error e => (m.askStop (m.mapAcc cx) .writeback e).2

/-- REGION_WRITEBACK (R226). -/
def execRegionWriteback (s : State) : Out := .next (s.on fun m => m.writebackOldest m.focus)

/-! ## Reads and writes at a place -/

/-- The pool's half-lines that a range touches and that are poisoned; every access faults once port B is down (R62). -/
def Module.poolBad (m : Module) (off n : Nat) (whole : Bool) : Bool :=
  m.mm.poolDown || m.mm.poolPoison.any fun h =>
    decide (h * 64 < off + n) && decide (off < h * 64 + 64) && !(whole && decide (off ≤ h * 64) && decide (h * 64 + 64 ≤ off + n))

/-- Writes the pool; a write that covers a half-line clears its poison (R232). -/
def Module.poolPut (m : Module) (off : Nat) (bs : List Byte) : Module :=
  { m with mm := { m.mm with
      pool := Tab.putBytes m.mm.pool off bs,
      poolPoison := m.mm.poolPoison.filter fun h => !(decide (off ≤ h * 64) && decide (h * 64 + 64 ≤ off + bs.length)) } }

/-- What stops a request that looped back: an absent page is one of the imports' address space (R35). -/
def loopStop (st : Stop) : Stop :=
  match st with
  | .page va _ => .imported va
  | st => st

/-- The result of a request that looped back through the module's own import table; what a part of it delivered stays (R34, R35). -/
def loopBack (gen : Nat) (r : Except Stop Served) : Except Stop Served :=
  match r with
  | .error e => .error (loopStop e)
  | .ok v => if v.cause = 0 then .ok v else if v.count = 0 then .error (.fault v.cause gen) else .error (.part v.cause gen v.count v.m)

/-- The generic address of a place. -/
def Place.gen : Place → Nat
  | .own o => genOwn o
  | .peer _ o => genOwn o
  | .globl va => va
  | .remote d o => 3 * 2 ^ 60 + d * 2 ^ 48 + o
  | .pool o => genPool o

/-- Reads bytes of a place in this module. -/
def Module.readP (m : Module) (cx : Nat) (user dev : Bool) (p : Place) (n : Nat) : Except Stop (List Byte × Module) :=
  match p with
  | .own o => match m.spRead cx user true o n with
    | .ok bs => .ok (bs, m)
    | .error e => .error e
  | .peer c o => match m.spRead c user false o n with
    | .ok bs => .ok (bs, m)
    | .error e => .error e
  | .globl va => m.readG (m.acc cx user dev) va n
  | .pool o => if m.poolBad o n false then .error (.fault Cause.memPoison (genPool o)) else .ok (Tab.bytes m.mm.pool o n, m)
  | .remote d o =>
    if m.isSelf d then match loopBack p.gen (m.serve d o true (.read n)) with
      | .ok v => .ok (v.bytes, v.m)
      | .error e => .error e
    else .error .wait

/-- Writes bytes of a place in this module. -/
def Module.writeP (m : Module) (cx : Nat) (user dev : Bool) (p : Place) (bs : List Byte) : Except Stop Module :=
  match p with
  | .own o => m.spWrite cx user true o bs
  | .peer c o => m.spWrite c user false o bs
  | .globl va => m.writeG (m.acc cx user dev) va bs
  | .pool o => if m.poolBad o bs.length true then .error (.fault Cause.memPoison (genPool o)) else .ok (m.poolPut o bs)
  | .remote d o =>
    if m.isSelf d then match loopBack p.gen (m.serve d o true (.write bs)) with
      | .ok v => .ok v.m
      | .error e => .error e
    else .error .wait

/-! ## Page faults that stop the thread (R198) -/

/-- Whether an entry waits for Meadow's answer. -/
def PfWait.waits : PfWait → Bool
  | .waiting _ => true
  | .none => false
  | .nomap => false
  | .deny => false
  | .snoop _ => false
  | .poison => false

/-- Whether the thread is stopped on a page fault: nothing more issues, and no queued work starts (R198). -/
def Thread.pfStopped (t : Thread) : Bool :=
  t.u.pf.waits || t.x.sq.any (fun e => e.pf.waits) || t.x.c1q.any (fun e => e.pf.waits) || t.x.mq.any (fun e => e.pf.waits)

/-- Whether an S-queue access of the thread waits for a region fill of its own scratchpad, by either aperture, which stops its issue (R205, R225). -/
def Module.fillStopped (m : Module) (cx : Nat) : Bool :=
  let t := m.ctx cx
  t.x.sq.any fun e =>
    let ap := fld e.addr.toNat 60 4
    (ap == 1 || (ap == 2 && fld e.addr.toNat 20 3 == coreOf cx % 8)) && (blocksOf (fld e.addr.toNat 0 20) e.width).any fun b => t.b.fills.contains b

/-! ## Fence markers (R240, R249) -/

/-- Whether an S-queue entry is a marker. -/
def SKind.isMarker : SKind → Bool
  | .marker _ _ => true
  | .trigMark => true
  | .crewMark _ _ => true
  | .load _ _ => false
  | .store _ => false

/-- Whether a C1-queue entry is a marker. -/
def C1Kind.isMarker (k : C1Kind) : Bool :=
  match k with
  | .marker _ _ => true
  | .trigMark => true
  | _ => false

/-- Whether an M-queue entry is a marker. -/
def MKind.isMarker (k : MKind) : Bool :=
  match k with
  | .marker _ _ => true
  | .trigMark => true
  | _ => false

/-- Whether the head of each queue of a thread is a marker. Markers enter all three queues together, so the heads then belong to
one fence. -/
def Thread.markersMeet (t : Thread) : Bool :=
  (t.x.sq.take 1).any (fun e => e.kind.isMarker) && (t.x.c1q.take 1).any (fun e => e.kind.isMarker) &&
    (t.x.mq.take 1).any (fun e => e.kind.isMarker)

/-- The effect of a fence: an acquire at cluster scope or wider invalidates what the L1 has not registered, and with it the remote lines that it may
hold until the next acquire (R212, R214, R240). -/
def Module.fenceEffect (m : Module) (k : Nat) (kind : FenceKind) (sc : Scope) : Module :=
  match kind, sc with
  | .rel, _ => m
  | _, .core => m
  | _, _ => m.acquire k

/-- Whether a timed load that issued before a marker has still to read its data (R240, R243). -/
def Thread.timedBefore (t : Thread) (serial : Nat) : Bool :=
  (t.u.land ++ (t.u.frame.map fun f => f.land).getD []).any fun e => match e.load with
    | some l => decide (l.2.2.2 < serial)
    | none => false

/-- Passes one fence when every earlier access of all three queues is done: accesses after it wait for those before it, whatever its
kind, which strengthens an acquire and a release (R240). -/
def Module.passMarker (m : Module) (cx : Nat) : Module :=
  let t := m.ctx cx
  if !t.markersMeet then m
  else
    let pop := t.modX fun x => { x with sq := x.sq.tail, c1q := x.c1q.tail, mq := x.mq.tail }
    match t.x.sq with
    | ⟨.marker k sc, _, _, _, _, _, n⟩ :: _ =>
      if k != .rel && t.timedBefore n then m
      else (m.setCtx cx (if k = .rel then pop else pop.dropCode)).fenceEffect (coreOf cx) k sc
    | ⟨.crewMark h x, _, _, _, _, _, _⟩ :: _ => (m.setCtx cx pop).crewReleased h t.tidN x
    | _ => m.setCtx cx (pop.modU fun u => { u with trigDone := true })

/-! ## The S queue (R236, R359, R360) -/

/-- The homes of a global range of an address space: its slices; none where it cannot be told. -/
def Module.slices (m : Module) (die asid va n : Nat) : Option (List Nat) :=
  match foldStop (fun l p => match translate m die none asid p.2.1 .read false with
      | .ok (ph, _) => .ok (l ++ (halfPieces ph.pa p.2.2).map fun q => 64 * homeDie q.2.1 + homeSlice q.2.1)
      | .error c => .error (stopOf c p.2.1)) (pagePieces va n) [] with
  | .ok l => some l
  | .error _ => none

/-- What the homes of an access are called, so that accesses to one home keep their order (R236); none where it cannot be told. -/
def Module.homes (m : Module) (cx : Nat) (e : SEntry) : Option (List Nat) :=
  match m.place cx e.user e.addr e.width with
  | .error _ => none
  | .ok (.own _) => some [2 ^ 60]
  | .ok (.peer c _) => some [2 ^ 60 + 1 + c]
  | .ok (.pool _) => some [2 ^ 62]
  | .ok (.remote d o) =>
    if !m.isSelf d then some [2 ^ 61 + d]
    else match m.importVa d o .rd with
      | .ok va => m.slices 0 (fld m.fb.impasid.toNat 0 16) va e.width
      | .error _ => none
  | .ok (.globl va) => m.slices (dieOfCore (coreOf cx)) (m.ctx cx).asid va e.width

/-- The value an LD writes (R359). -/
def extend (sx : Bool) (bs : List Byte) : Word64 := if sx then sext64 (leNat bs) (8 * bs.length) else zext64 (leNat bs) (8 * bs.length)

/-- An LD or ST in this module: the bytes read, none for a store. -/
def Module.sPerform (m : Module) (cx : Nat) (e : SEntry) (p : Place) : Except Stop (List Byte × Module) :=
  let dev := e.width == 8 && e.addr.toNat % 8 == 0
  match e.kind with
  | .store d => match m.writeP cx e.user dev p (leBytes d.toNat e.width) with
    | .ok m1 => .ok ([], m1)
    | .error x => .error x
  | _ => m.readP cx e.user dev p e.width

/-- Whether an entry would perform at once, so that a later access to another home may go ahead of it (R236, R360). -/
def Module.sClear (m : Module) (cx : Nat) (e : SEntry) : Bool :=
  match e.kind with
  | .marker _ _ => false
  | .trigMark => false
  | .crewMark _ _ => false
  | .load _ _ | .store _ =>
    e.remote.isNone && !e.pf.waits && e.pf.cause.isNone && match m.place cx e.user e.addr e.width with
      | .ok p => match m.sPerform cx e p with
        | .ok _ => true
        | .error _ => false
      | .error _ => false

/-- Whether an entry is held until ERET by the fault of an earlier access (R360). -/
def Thread.sHeld (t : Thread) (e : SEntry) : Bool := t.u.sstop && e.user

/-- Whether an access may perform before those of the S queue that are listed: none of them is a marker or waits, and none goes to a home of its own
(R236, R240). -/
def Module.sAhead (m : Module) (cx : Nat) (e : SEntry) (l : List SEntry) : Bool :=
  let t := m.ctx cx
  (l.filter fun x => !t.sHeld x).all fun x =>
    m.sClear cx x && match m.homes cx x, m.homes cx e with
      | some a, some b => a.all fun h => !b.contains h
      | _, _ => false

/-- Whether entry `i` of the S queue may perform now. -/
def Module.sEligible (m : Module) (cx i : Nat) : Bool :=
  let t := m.ctx cx
  match nth? i t.x.sq with
  | none => false
  | some e => !t.pfStopped && !t.sHeld e && m.sAhead cx e (t.x.sq.take i)

/-- Takes entry `i` out of the S queue. -/
def Thread.dropS (t : Thread) (i : Nat) : Thread := t.modX fun x => { x with sq := removeAt i x.sq }

/-- Releases the destination of a load that does not complete (R187). -/
def Thread.releaseS (t : Thread) (e : SEntry) : Thread :=
  match e.kind with
  | .load _ d => t.dropPend d
  | .store _ => t
  | .marker _ _ => t
  | .trigMark => t
  | .crewMark _ _ => t

/-- An access of the S queue faults: it is not performed, later ones are held, and the trap is due (R187, R360). -/
def Thread.sFail (t : Thread) (i : Nat) (e : SEntry) (c : Cause) (addr : Nat) (d : Delivery) : Thread :=
  (((t.dropS i).releaseS e).modU fun u => { u with sstop := u.sstop || e.user }).hold e.user ⟨c, 0, BitVec.ofNat 64 addr, d⟩

/-- An access of the S queue completes. -/
def Thread.sDone (t : Thread) (i : Nat) (e : SEntry) (bs : List Byte) : Thread :=
  match e.kind with
  | .load sx d => (t.dropS i).complete d (extend sx bs)
  | .store _ => t.dropS i
  | .marker _ _ => t
  | .trigMark => t
  | .crewMark _ _ => t

/-- Changes entry `i` of the S queue. -/
def Thread.modS (t : Thread) (i : Nat) (f : SEntry → SEntry) : Thread := t.modX fun x => { x with sq := modifyAt f i x.sq }

/-- What an access that stops asks for, with the record it then waits on. -/
def Module.sStop (m : Module) (cx i : Nat) (e : SEntry) : Stop → Module
  | .fault c a => (m.noteFull c a).modCtx cx fun t => t.sFail i e c a .I
  | .part c a _ m1 => (m1.noteFull c a).modCtx cx fun t => t.sFail i e c a .I
  | st =>
    let kind := match e.kind with
      | .store _ => PfKind.write
      | _ => PfKind.read
    let (w, m1) := m.askStop (m.acc cx e.user false) kind st
    m1.modCtx cx fun t => t.modS i fun x => { x with pf := w }

/-- Sends a remote LD or ST, or answers it from a line held read-only (R214). -/
def Module.sSend (m : Module) (cx i : Nat) (e : SEntry) (d o : Nat) : Module :=
  let k := coreOf cx
  let at_ := m.coreClock k
  let send := fun (m : Module) (r : RemoteReq) =>
    let (id, m1) := m.request (2 * k) d o r (.scalar cx i at_)
    m1.modCtx cx fun t => t.modS i fun x => { x with remote := some id }
  match e.kind with
  | .store w => send m (.write (leBytes w.toNat e.width))
  | _ =>
    match m.roAnswer k d o e.width with
    | (some bs, m1) => m1.modCtx cx fun t => t.sDone i e bs
    | (none, m1) => send m1 (.read e.width)

/-- Performs entry `i` of the S queue. -/
def Module.sRun (m : Module) (cx i : Nat) : Module :=
  if !m.sEligible cx i then m
  else match nth? i (m.ctx cx).x.sq with
    | none => m
    | some e =>
      match e.kind with
      | .marker _ _ => m.passMarker cx
      | .trigMark => m.passMarker cx
      | .crewMark _ _ => m.passMarker cx
      | .load _ _ | .store _ =>
        if e.remote.isSome then m
        else match e.pf.cause with
          | some c => m.modCtx cx fun t => t.sFail i e c e.addr.toNat .P
          | none =>
            match m.place cx e.user e.addr e.width with
            | .error st => m.sStop cx i e st
            | .ok p =>
              let here : Module := match m.sPerform cx e p with
                | .ok (bs, m1) => m1.modCtx cx fun t => t.sDone i e bs
                | .error st => m.sStop cx i e st
              match p with
              | .remote d o => if m.isSelf d then here else m.sSend cx i e d o
              | _ => here

/-- Runs an engine's step for a context, unless the clock of its core is frozen (R16). -/
def State.clocked (s : State) (cx : Nat) (f : Module → Module) : State := s.on fun m => if m.clockHeld cx then m else f m

/-- LOAD_COMPLETE: an access or a marker of the S queue is performed (R187, R240, R359). -/
def execLoadComplete (ctx idx : Nat) (s : State) : Out := .next (s.clocked ctx fun m => m.sRun ctx idx)

/-- The response to a remote LD or ST (R36). -/
def Module.sAnswer (m : Module) (cx id cause : Nat) (bs : List Byte) : Module :=
  let t := m.ctx cx
  match firstWhere (fun e : SEntry × Nat => e.1.remote == some id) (t.x.sq.zip (range' 0 t.x.sq.length)) with
  | none => m
  | some (e, i) =>
    if cause = 0 then m.modCtx cx fun t => t.sDone i e bs
    else m.modCtx cx fun t => t.sFail i e (BitVec.ofNat 7 cause) e.addr.toNat .I

/-! ## WAITF (R376, R378) -/

/-- Whether a flag ends the wait (R376). -/
def flagHolds (c : Cond) (wide : Bool) (f b : Word64) : Bool :=
  if wide then condHolds c f b
  else match c with
    | .nlt => condHolds c (zext64 f.toNat 32) (zext64 b.toNat 32)
    | .nle => condHolds c (zext64 f.toNat 32) (zext64 b.toNat 32)
    | .eq => condHolds c (zext64 f.toNat 32) (zext64 b.toNat 32)
    | .ne => condHolds c (zext64 f.toNat 32) (zext64 b.toNat 32)
    | .lt => condHolds c (sext64 f.toNat 32) (sext64 b.toNat 32)
    | .le => condHolds c (sext64 f.toNat 32) (sext64 b.toNat 32)

/-- Ends the polling of a WAITF. -/
def State.pollEnd (s : State) : State := s.upd fun t => t.modU fun u => { u with poll := .none }

/-- WAITF: polls its flag once, as a load at the end of the S queue, and goes on waiting until it holds (R242, R376). -/
def execWaitf (c : Cond) (wide : Bool) (a b : RegNo) (s : State) : Out :=
  let n := if wide then 8 else 4
  let x := s.rdS a
  let cx := s.src.focus
  let user := !s.src.th.system
  let test := fun (g : Module → Module) (f : Word64) =>
    if flagHolds c wide f (s.rdS b) then (s.on g).pollEnd
    else s.waitOnM x fun m => (g m).modTh fun t => t.modU fun u => { u with poll := .none }
  let run : State :=
    if x.toNat % n ≠ 0 then s.fault Cause.addrAlign x
    else match s.back.th.u.pf.cause with
      | some e => s.fault e x
      | none =>
        if !s.now.sAhead cx ⟨.load false 0, n, x, .none, user, none, 0⟩ (s.now.ctx cx).x.sq then s.waitOnM x fun m => m
        else match s.now.place cx user x n with
        | .error st => s.bundleStop (s.now.acc cx user false) .read st
        | .ok p =>
          let look := fun m : Module => m.readP cx user (wide && x.toNat % 8 == 0) p n
          let used := fun m : Module => match look m with
            | .ok (_, m1) => m1
            | .error _ => m
          let here : State := match look s.now with
            | .ok (bs, _) => test used (zext64 (leNat bs) (8 * n))
            | .error st => s.bundleStop (s.now.acc cx user false) .read st
          match p with
          | .remote d o =>
            if s.now.isSelf d then here
            else match s.back.th.u.poll with
              | .value v => test (fun m => m) v
              | .failed e => s.fault e x
              | .sent _ => s.waitOnM x fun m => m
              | .none => s.waitOnM x fun m =>
                let at_ := m.coreClock (coreOf m.focus)
                let (id, m1) := m.request (2 * coreOf m.focus) d o (.read n) (.scalar m.focus 0 at_)
                m1.modTh fun t => t.modU fun u => { u with poll := .sent id }
          | _ => here
  .next run

/-- The response to a remote poll (R376). -/
def Thread.pollAnswer (t : Thread) (id cause : Nat) (bs : List Byte) : Thread :=
  if t.u.poll = .sent id then
    t.modU fun u => { u with poll := if cause = 0 then .value (zext64 (leNat bs) (8 * bs.length)) else .failed (BitVec.ofNat 7 cause) }
  else t

end Sys2Proof.Machine
end

