-- ==== Sys2Proof/Machine/C0.lean ====
section
/-!
DEFINITION. The C0 port: scratchpad loads and stores, predicated and scale forms, sketch record moves, SPADD, and the region-map
operations: rules R209, R224 to R226, R235, R435 and R437 to R444. Each operation is written for an address operand given, so that an
armed operation re-issues with its stepped operand (R192).
-/

namespace Sys2Proof.Machine

/-- The landing slot number of C0, in slot order S, V0, V1, M, C0, C1. -/
def c0Slot : Nat := 4

/-- Arms an operation of the C0 slot that carries K, with its address operand (R192). A re-issue is armed already. -/
def State.arm0 (s : State) (re k : Bool) (i : Instr) (base : Word64) : State :=
  if k && !re then s.upd fun t => t.modU fun u =>
    { u with armC0 := some { op := i, step := 0, base := base, token := 0, since := 0, outstanding := 0, count := 0, first := none, members := [] } }
  else s

/-- A precise fault of a C0 operation; that of a re-issue disarms it (R193, R435). -/
def State.c0Fault (s : State) (re : Bool) (c : Cause) (datum : Nat) : State :=
  let s1 : State := if re then { s with pre := s.pre.map fun m => m.modTh fun t => t.modU fun u => { u with armC0 := none } } else s
  s1.fault c (BitVec.ofNat 64 datum)

/-- What an unfilled block makes of a C0 access: the bundle is held for its fill, or the fault is raised (R225, R435). -/
def State.c0Fill (s : State) (re : Bool) (o b : Nat) : State :=
  let cx := s.src.focus
  let user := !s.src.th.system
  match s.back.th.u.pf.cause with
  | some c => s.c0Fault re c (genOwn o)
  | none => match s.src.needFill cx user b with
    | .fault c _ => s.c0Fault re c (genOwn o)
    | st => s.bundleStop (s.src.acc cx user false) .fill st

/-- A C0 access of `n` bytes at offset `o`, aligned to `al`: its checks, then its effect. -/
def State.c0Run (s : State) (re : Bool) (o n al : Nat) (touch : Bool) (body : State → State) : State :=
  if o % al ≠ 0 then s.c0Fault re Cause.addrAlign (genOwn o)
  else if !touch then body s
  else match s.src.th.unfilled o n with
    | none => body s
    | some b => s.c0Fill re o b

/-- A C0 store at its bank, with the dirty bit of its block (R226, R235). -/
def State.c0Store (s : State) (o : Nat) (bs : List (Option Byte)) : State := s.upd fun t => (t.c0Put o bs).markDirty o bs.length

/-- The low bytes of the data register of a C0 operation (R315). -/
def State.c0Data (s : State) (w : BitVec 2) (d : RegNo) : List Byte :=
  leBytes (if w = 0 then (s.rdS d).toNat else (s.rdV d).toNat) (c0Width w)

/-- Byte `j` of a vector register. -/
def vByte (v : VWord) (j : Nat) : Byte := BitVec.ofNat 8 (fld v.toNat (8 * j) 8)

/-- SPLD at an address operand (R437). -/
def State.spldAt (s : State) (re k : Bool) (w : BitVec 2) (d a : RegNo) (off : BitVec 12) (base : Word64) : State :=
  let n := c0Width w
  let o := c0Offset base off.toInt n
  s.c0Run re o n n true fun s =>
    let bs := s.src.th.c0Bytes o n
    (if w = 0 then s.wrS d (zext64 (leNat bs) 32) else s.wrV d (BitVec.ofNat 1024 (leNat bs))).arm0 re k (.spld k w d a off) base

/-- SPST at an address operand (R437). -/
def State.spstAt (s : State) (re k : Bool) (w : BitVec 2) (d a : RegNo) (off : BitVec 12) (base : Word64) : State :=
  let n := c0Width w
  let o := c0Offset base off.toInt n
  s.c0Run re o n n true fun s => (s.c0Store o ((s.c0Data w d).map some)).arm0 re k (.spst k w d a off) base

/-- SPLDS at an address operand: lands its four bytes in a scale register (R438). -/
def State.spldsAt (s : State) (re k : Bool) (d : BitVec 4) (a : RegNo) (off : BitVec 12) (base : Word64) : State :=
  let o := c0Offset base off.toInt 4
  s.c0Run re o 4 4 true fun s =>
    let v : VWord := BitVec.ofNat 1024 (leNat (s.src.th.c0Bytes o 4))
    (s.upd fun t => t.land ⟨[(.e d.toNat, v)], 4, c0Slot, none, none, false⟩).arm0 re k (.splds k d a off) base

/-- The active bytes of a predicated access: bit j of p for byte j (R439). -/
def activeBytes (p : PWord) (n : Nat) : List Bool := (range' 0 n).map (bit p.toNat)

/-- SPLDP at an address operand (R439). -/
def State.spldpAt (s : State) (re k : Bool) (w : BitVec 2) (d a : RegNo) (p : BitVec 4) (off : BitVec 8) (base : Word64) : State :=
  let n := c0Width w
  let o := c0Offset base off.toInt n
  let act := activeBytes (s.rdP p) n
  s.c0Run re o n n (act.any id) fun s =>
    let old := s.rdV d
    let bs := ((range' 0 n).zip ((s.src.th.c0Bytes o n).zip act)).map fun e => if e.2.2 then e.2.1 else vByte old e.1
    (s.wrV d (BitVec.ofNat 1024 (leNat bs))).arm0 re k (.spldp k w d a p off) base

/-- SPSTP at an address operand (R439). -/
def State.spstpAt (s : State) (re k : Bool) (w : BitVec 2) (d a : RegNo) (p : BitVec 4) (off : BitVec 8) (base : Word64) : State :=
  let n := c0Width w
  let o := c0Offset base off.toInt n
  let act := activeBytes (s.rdP p) n
  s.c0Run re o n n (act.any id) fun s =>
    let bs := ((s.c0Data w d).zip act).map fun e => if e.2 then some e.1 else none
    (if act.any id then s.c0Store o bs else s).arm0 re k (.spstp k w d a p off) base

/-- The checks of a move of a sketch record (R440). -/
def State.skRun (s : State) (o : Nat) (body : State → State) : State :=
  if o % 64 = 0 && decide (o + 4096 > 2 ^ 20) then s.c0Fault false Cause.addrAperture (genOwn o)
  else s.c0Run false o 4096 64 true body

/-- The types of SPADD applied to a byte string (R441). -/
def spaddBytes (t : SpaTy) (tbl : BitVec 128) (old : List Byte) (src : List Word32) : List Byte :=
  match t with
  | .i32 => mapWords addI32Word old src
  | .f32 => mapWords (addF32Word tbl) old src
  | .bf16 => mapWords (addBf16Word tbl) old src

/-- The 32-bit words of a byte string. -/
def wordsOf (bs : List Byte) : List Word32 := (chunked 4 (bs.length / 4 + 1) bs).map fun b => BitVec.ofNat 32 (leNat b)

/-- SPADD at an address operand (R441). -/
def State.spaddAt (s : State) (re k : Bool) (t : SpaTy) (w : BitVec 2) (d a : RegNo) (off : BitVec 10) (base : Word64) : State :=
  let n := c0Width w
  let o := c0Offset base off.toInt n
  s.c0Run re o n n true fun s =>
    let new := spaddBytes t s.src.th.csr.ovt (s.now.th.spBytes o n) (wordsOf (s.c0Data w d))
    (s.c0Store o (new.map some)).arm0 re k (.spadd k t w d a off) base

/-- SPFILL at an address operand: starts a fill, and neither stops the thread nor faults (R442). -/
def State.spfillAt (s : State) (re k : Bool) (a : RegNo) (off : BitVec 12) (base : Word64) : State :=
  let o := c0Offset base off.toInt 4
  let cx := s.now.focus
  let user := !s.src.th.system
  let s1 := match s.now.th.unfilled o 1 with
    | none => s
    | some b => s.on fun m => (m.askStop (m.acc cx user false) .fill (m.needFill cx user b)).2
  s1.arm0 re k (.spfill k a off) base

/-! ## Meanings of loads and stores -/

/-- SPLD (R437). -/
def execSpld (k : Bool) (w : BitVec 2) (d a : RegNo) (off : BitVec 12) (s : State) : Out := .next (s.spldAt false k w d a off (s.rdS a))

/-- SPST (R437). -/
def execSpst (k : Bool) (w : BitVec 2) (d a : RegNo) (off : BitVec 12) (s : State) : Out := .next (s.spstAt false k w d a off (s.rdS a))

/-- SPLDS (R438). -/
def execSplds (k : Bool) (d : BitVec 4) (a : RegNo) (off : BitVec 12) (s : State) : Out := .next (s.spldsAt false k d a off (s.rdS a))

/-- SPLDP (R439). -/
def execSpldp (k : Bool) (w : BitVec 2) (d a : RegNo) (p : BitVec 4) (off : BitVec 8) (s : State) : Out :=
  .next (s.spldpAt false k w d a p off (s.rdS a))

/-- SPSTP (R439). -/
def execSpstp (k : Bool) (w : BitVec 2) (d a : RegNo) (p : BitVec 4) (off : BitVec 8) (s : State) : Out :=
  .next (s.spstpAt false k w d a p off (s.rdS a))

/-- SKLD: all 4,096 bytes of a record into an accumulator (R440). -/
def execSkld (d : BitVec 2) (a : RegNo) (off : BitVec 12) (s : State) : Out :=
  let o := c0Offset (s.rdS a) off.toInt 64
  .next (s.skRun o fun s => s.wrQ d (Tab.putBytes [] 0 (s.src.th.c0Bytes o 4096)))

/-- SKST: all 4,096 bytes of an accumulator into the scratchpad (R440). -/
def execSkst (d : BitVec 2) (a : RegNo) (off : BitVec 12) (s : State) : Out :=
  let o := c0Offset (s.rdS a) off.toInt 64
  .next (s.skRun o fun s => s.c0Store o ((Tab.bytes (s.rdQ d) 0 4096).map some))

/-- SPFILL (R442). -/
def execSpfill (k : Bool) (a : RegNo) (off : BitVec 12) (s : State) : Out := .next (s.spfillAt false k a off (s.rdS a))

/-- SPADD (R441). -/
def execSpadd (k : Bool) (t : SpaTy) (w : BitVec 2) (d a : RegNo) (off : BitVec 10) (s : State) : Out :=
  .next (s.spaddAt false k t w d a off (s.rdS a))

/-- Re-issues an armed C0 operation with its address operand (R192). -/
def State.reissueC0 (s : State) (i : Instr) (base : Word64) : State :=
  match i with
  | .spld k w d a off => s.spldAt true k w d a off base
  | .spst k w d a off => s.spstAt true k w d a off base
  | .splds k d a off => s.spldsAt true k d a off base
  | .spldp k w d a p off => s.spldpAt true k w d a p off base
  | .spstp k w d a p off => s.spstpAt true k w d a p off base
  | .spfill k a off => s.spfillAt true k a off base
  | .spadd k t w d a off => s.spaddAt true k t w d a off base
  | _ => s

/-! ## Region maps: SPMAP and SPSYNC -/

/-- Whether the words of a valid map break a condition of SPMAP (R443). -/
def Thread.mapBad (t : Thread) (n : Nat) (w : Word64 × Word64) : Bool :=
  let lo := mapSp w
  let nb := mapBlocks w
  let overlaps := fun e : Nat × Word64 × Word64 => e.1 != n && mapValid e.2 &&
    ((decide (lo < mapSp e.2 + mapBlocks e.2) && decide (mapSp e.2 < lo + nb)) ||
     (decide (mapGva w < mapGva e.2 + mapBlocks e.2 * 4096) && decide (mapGva e.2 < mapGva w + nb * 4096)))
  fld w.1.toNat 52 10 != 0 || fld w.1.toNat 0 12 != 0 || fld w.2.toNat 41 23 != 0 || fld w.2.toNat 24 8 != 0 ||
    fld w.2.toNat 0 16 != 0 || nb == 0 || decide (nb > 256) || decide (lo + nb > 256) || decide (mapGva w + nb * 4096 > 2 ^ 52) ||
    t.b.maps.any overlaps

/-- Whether a block belongs to one of the maps named, and that map is valid with WB 1. -/
def Thread.blockOf (t : Thread) (maps : List Nat) (b : Nat) : Bool :=
  match t.mapOfOffset (b * 4096) with
  | some (i, w) => maps.contains i && mapWb w
  | none => false

/-- Writes blocks back one after the other until one stops. -/
def Module.writeBlocks (m : Module) (cx : Nat) : List Nat → Module × Option Stop
  | [] => (m, none)
  | b :: bs => match m.writeBlock cx b with
    | .ok m1 => m1.writeBlocks cx bs
    | .error (.fault c a) => (m.noteFull c a, some (.fault c a))
    | .error e => (m, some e)

/-- A held fault of a background write-back of one of the maps named (R226). -/
def Thread.mapFault (t : Thread) (maps : List Nat) : Option (Nat × Nat) :=
  firstWhere (fun e : Nat × Nat => maps.contains e.1 && (let w := t.map e.1; mapValid w && mapWb w)) t.b.fault

/-- Writes back the dirty blocks of the maps named, the thread stopped meanwhile; what was written back stays so when it stops
(R443, R444). -/
def State.syncMaps (s : State) (maps : List Nat) (body : State → State) : State :=
  let cx := s.now.focus
  let blocks := s.now.th.b.dirty.filter (s.now.th.blockOf maps)
  match s.now.th.mapFault maps with
  | some (i, c) =>
    let b := s.back.modTh fun t => t.modB fun x => { x with fault := Tab.set 0 x.fault i 0 }
    (⟨b, some b⟩ : State).fault (BitVec.ofNat 7 c) (BitVec.ofNat 64 (mapGva (s.now.th.map i)))
  | none =>
    match s.now.writeBlocks cx blocks with
    | (m1, none) => body (s.on fun _ => m1)
    | (_, some st) =>
      let b := (s.back.writeBlocks cx blocks).1
      let s1 : State := ⟨b, some b⟩
      match st, s.back.th.u.pf.cause with
      | .page va _, some c => s1.fault c (BitVec.ofNat 64 va)
      | _, _ => s1.bundleStop (b.mapAcc cx) .writeback st

/-- Sets entry `n`: the blocks of the old and of the new map are unfilled and clean (R443). -/
def Thread.setMap (t : Thread) (n : Nat) (w : Word64 × Word64) : Thread :=
  let old := t.map n
  let gone := fun b : Nat => (mapValid old && decide (mapSp old ≤ b) && decide (b < mapSp old + mapBlocks old)) ||
    (mapValid w && decide (mapSp w ≤ b) && decide (b < mapSp w + mapBlocks w))
  let keep := fun l : List Nat => l.filter fun b => !gone b
  t.modB fun x => { x with maps := Tab.set (0, 0) x.maps n (if mapValid w then w else (0, 0)), filled := keep x.filled,
                           dirty := keep x.dirty, fills := keep x.fills, fault := Tab.set 0 x.fault n 0 }

/-- SPMAP (R443). -/
def execSpmap (n : BitVec 3) (d a : RegNo) (s : State) : Out :=
  let w := (s.rdS d, s.rdS a)
  .next (if mapValid w && s.now.th.mapBad n.toNat w then s.fault Cause.regionMap (n.setWidth 64)
    else s.syncMaps [n.toNat] fun s => s.upd fun t => t.setMap n.toNat w)

/-- SPSYNC of one map (R444). -/
def execSpsyncOne (n : BitVec 3) (s : State) : Out := .next (s.syncMaps [n.toNat] fun s => s)

/-- SPSYNC of every map (R444). -/
def execSpsyncAll (s : State) : Out := .next (s.syncMaps (range' 0 8) fun s => s)

end Sys2Proof.Machine
end

