-- ==== Sys2Proof/Machine/Rings.lean ====
section
/-!
DEFINITION. Operand rings, and what arrives from other modules' collectives: rules R410 to R414, R416, R451 and R465 to R467.
-/

namespace Sys2Proof.Machine

/-! ## Rings of a context -/

/-- Changes ring `g` of a context. -/
def Module.modRing (m : Module) (cx g : Nat) (f : Ring → Ring) : Module := m.modCtx cx fun t => t.setRing g (f (t.ring g))

/-- Whether a C1 job that names a ring has issued, before a serial number, and not completed (R412, R417). -/
def Thread.ringBusy (t : Thread) (g serial : Nat) : Bool :=
  t.x.c1q.any fun e => match e.kind with
    | .cpyr r => r == g && decide (e.serial < serial)
    | _ => false

/-! ## Arrivals in a window (R465, R466) -/

/-- First offset of window arrivals in the tunnel range (R464). -/
def winBase : Nat := 0xFF8000000000
/-- First offset of ring-mode arrivals. -/
def ringBase : Nat := 0xFFC000000000

/-- The outcome of an arrival. -/
inductive Arrived where
  | ok (m : Module)
  | reject
  | hold
  deriving DecidableEq, Repr

/-- The context whose thread receives what arrives at a core; none while the core is in a bank switch. -/
def Module.receiver (m : Module) (k : Nat) : Option Nat :=
  if (m.core k).exchange || m.active k != m.primary k then none else some (m.primary k)

/-- The update of one word (R466). -/
def winWord (opk : Nat) (old w : Nat) : Nat :=
  match opk with
  | 0 => w
  | 1 => fAddBits fpF32 1 old w
  | 2 => fAddBits fpBF16 1 (fld old 0 16) (fld w 0 16) + 2 ^ 16 * fAddBits fpBF16 1 (fld old 16 16) (fld w 16 16)
  | _ => (old + w) % 2 ^ 32

/-- Tile size of a window in bytes. -/
def Thread.winTile (t : Thread) : Nat := 256 * 2 ^ fld t.csr.cwin.toNat 46 4
/-- First byte of a window. -/
def Thread.winLo (t : Thread) : Nat := fld t.csr.cwin.toNat 7 13 * 128
/-- Tiles of a window. -/
def Thread.winTiles (t : Thread) : Nat := fld t.csr.cwcnt.toNat 0 13
/-- First byte of the count area. -/
def Thread.winFlag (t : Thread) : Nat := fld t.csr.cwin.toNat 33 13 * 128
/-- Words that complete a tile; 0 acts as 1. -/
def Thread.winExpect (t : Thread) : Nat := Nat.max 1 (fld t.csr.cwcnt.toNat 32 16)

/-- One word of an arrival: its update, and the count and readiness of its tile. -/
def Thread.winPut (opk : Nat) (t : Thread) (a w : Nat) : Thread :=
  let t1 := (t.spPut a (leBytes (winWord opk (leNat (t.spBytes a 4)) w) 4)).markDirty a 4
  let c := t.winFlag + 8 * ((a - t.winLo) / t.winTile)
  let n := leNat (t1.spBytes c 4) + 1
  if n = t.winExpect then
    ((t1.spPut c (leBytes 0 4)).spPut (c + 4) (leBytes ((leNat (t1.spBytes (c + 4) 4) + 1) % 2 ^ 32) 4)).markDirty c 8
  else (t1.spPut c (leBytes n 4)).markDirty c 8

/-- A collective write arrives in write or accumulate mode (R466). -/
def Module.windowArrival (m : Module) (off : Nat) (bs : List Byte) : Arrived :=
  let k := fld (off - winBase) 28 10
  let opk := fld (off - winBase) 26 2
  let o := fld off 0 20
  match m.receiver k with
  | none => if (m.ctx (m.primary k)).status = .empty then .reject else .hold
  | some cx =>
    let t := m.ctx cx
    if t.status = .empty || !bit t.csr.cwin.toNat 63 || fld t.csr.cwin.toNat 50 6 != fld off 20 6 ||
        decide (o + bs.length > t.winTiles * t.winTile) || decide (t.winLo + t.winTiles * t.winTile > 2 ^ 20) ||
        decide (t.winFlag + 8 * t.winTiles > 2 ^ 20) then .reject
    else if (t.unfilled (t.winLo + o) bs.length).isSome || (t.unfilled t.winFlag (8 * t.winTiles)).isSome then .hold
    else
      let ws := chunked 4 (bs.length / 4 + 1) bs
      let t1 := ((range' 0 ws.length).zip ws).foldl (fun t e => t.winPut opk (t.winLo + o + 4 * e.1) (leNat e.2)) t
      let m1 := m.setCtx cx t1
      .ok (if opk = 1 || opk = 2 then m1.orderDependent cx else m1)

/-! ## Arrivals in a ring (R467) -/

/-- Bytes the spill area holds, and its size. -/
def Module.spillUsed (m : Module) : Nat := natSum (m.fb.spilled.map fun e => e.2.2.2.length) +
  natSum ((m.fb.chunks.filter fun e => e.2.2.2.1 == 16).map fun e => e.2.2.2.2.length)
/-- Size of the spill area in bytes; none while it is not in service. -/
def Module.spillSize (m : Module) : Nat := if bit m.fb.colspill.toNat 63 then fld m.fb.colspill.toNat 0 12 * 2 ^ 20 else 0

/-- Target core of a ring-mode offset. -/
def ringCore (off : Nat) : Nat := fld (off - ringBase) 27 10
/-- Target ring of a ring-mode offset. -/
def ringIdx (off : Nat) : Nat := fld (off - ringBase) 24 3

/-- Bytes of a chunk being assembled, laid over from an offset. -/
def layOver (old : List Byte) (o : Nat) (bs : List Byte) : List Byte := padBytes old (Nat.max old.length o) |> fun v => overlay v o bs

/-- Whether an entry of the M queue takes the head entry of ring `g` of the thread. -/
def Module.popsRing (m : Module) (g : Nat) (e : MEntry) : Bool :=
  match e.kind with
  | .mma _ a b _ _ _ => a == g || b == g
  | .mmag _ a b _ _ _ _ => a == g || b == g
  | .slice _ n _ => (m.gang n).ga == g
  | .mrpop a => a == g
  | _ => false

/-- Whether a remote push of ring `g` waits for an MRCFG that is still to execute: the push may be later than it (R412). While an earlier operation
that takes an entry of the ring stands before the MRCFG, it does not wait, for it may be what that operation waits for (log entry 21). -/
def Module.pushHeld (m : Module) (cx g : Nat) : Bool :=
  let cfg := fun e : MEntry => match e.kind with
    | .mrcfg k _ _ => k == g
    | _ => false
  let l := (m.ctx cx).x.mq
  l.any cfg && !((l.takeWhile fun e => !cfg e).any (m.popsRing g))

/-- A ring-mode write at its receiver. The first write of a chunk reserves a slot, or makes the chunk spill; the last one completes
it. A chunk that outgrows its entry after its slot was reserved leaves a poisoned entry (log entry 21). -/
def Module.ringArrival (m : Module) (w : RingWrite) : Arrived :=
  let ⟨src, _, sc, span, off, bs⟩ := w
  let sender := src * 1024 + sc
  let k := ringCore off
  let g := ringIdx off
  let o := fld off 0 23
  let last := bit off 23
  match m.receiver k with
  | none => if (m.ctx (m.primary k)).status = .empty then .reject else .hold
  | some cx =>
    let t := m.ctx cx
    let r := t.ring g
    let here := fun e : Nat × Nat × Nat × Nat × List Byte => e.1 == cx && e.2.1 == g && e.2.2.1 == sender
    let drop := fun m : Module => { m with fb := { m.fb with chunks := m.fb.chunks.filter fun e => !here e } }
    if t.status = .empty || !r.remote || r.esz = 0 then .reject
    else if (m.fb.chunks.all fun e => !here e) && m.pushHeld cx g then .hold
    else
      let place := fun (m : Module) (slot : Nat) (old : List Byte) =>
        let all := layOver old o bs
        if o + bs.length > r.esz then
          (if slot < 16 then Arrived.ok ((drop m).modRing cx g fun r => r.fillDone slot true) else .reject)
        else if slot < 16 then
          if (t.unfilled (r.entry slot + o) bs.length).isSome then .hold else
          let m1 := (drop m).modCtx cx fun t => (t.spPut (r.entry slot + o) bs).markDirty (r.entry slot + o) bs.length
          if last then .ok (m1.modRing cx g fun r => r.fillDone slot false)
          else .ok { m1 with fb := { m1.fb with chunks := m1.fb.chunks ++ [(cx, g, sender, slot, [])] } }
        else
          let m1 := drop m
          if last then .ok { m1 with fb := { m1.fb with spilled := m1.fb.spilled ++ [(cx, g, span.toNat, all)] } }
          else .ok { m1 with fb := { m1.fb with chunks := m1.fb.chunks ++ [(cx, g, sender, 16, all)] } }
      match firstWhere here m.fb.chunks with
      | some e =>
        if e.2.2.2.1 = 16 && decide (m.spillUsed + bs.length > m.spillSize) then .hold else place m e.2.2.2.1 e.2.2.2.2
      | none =>
        if o + bs.length > r.esz then .reject
        else if r.free != 0 && !(m.fb.spilled.any fun e => e.1 == cx && e.2.1 == g) then
          let (slot, r1) := r.reserve span.toNat
          place (m.modRing cx g fun _ => r1) slot []
        else if m.mm.poolDown || decide (m.spillUsed + bs.length > m.spillSize) then .hold
        else place m 16 []

/-- Acknowledges or refuses a write of another module. -/
def Module.ackWrite (m : Module) (src id n : Nat) (c : Cause) : Module :=
  m.post 2048 src id (.completion id c.toNat (if c = 0 then n else 0) [] false)

/-- Takes a ring-mode write: behind those held for the same ring, and held itself where it must wait. -/
def Module.takeRing (m : Module) (w : RingWrite) : Module :=
  let ⟨src, id, _, _, off, bs⟩ := w
  let held := { m with fb := { m.fb with heldChunks := m.fb.heldChunks ++ [w] } }
  if m.fb.heldChunks.any fun e => ringCore e.off == ringCore off && ringIdx e.off == ringIdx off then held
  else match m.ringArrival w with
    | .ok m1 => m1.ackWrite src id bs.length 0
    | .reject => m.ackWrite src id bs.length Cause.collReject
    | .hold => held

/-- Tries again every ring-mode write held at the stations, in order. -/
def Module.retryRing (m : Module) : Module := m.fb.heldChunks.foldl Module.takeRing { m with fb := { m.fb with heldChunks := [] } }

/-- Fetches the oldest spilled chunk of a ring into a freed slot (R467). -/
def Module.refetch (m : Module) (k g : Nat) : Module :=
  match m.receiver k with
  | none => m
  | some cx =>
    let r := (m.ctx cx).ring g
    match firstWhere (fun e : Nat × Nat × Nat × List Byte => e.1 == cx && e.2.1 == g) m.fb.spilled with
    | none => m.retryRing
    | some (_, _, span, bs) =>
      if r.free = 0 then m
      else
        let (slot, r1) := r.reserve span
        if ((m.ctx cx).unfilled (r.entry slot) bs.length).isSome then m else
        let m1 := m.modCtx cx fun t => ((t.setRing g (r1.fillDone slot false)).spPut (r.entry slot) bs).markDirty (r.entry slot) bs.length
        ({ m1 with fb := { m1.fb with spilled := m1.fb.spilled.erase (cx, g, span, bs) } }).retryRing

/-! ## Events -/

/-- WINDOW_ARRIVAL (R31, R466). An arrival to a core in a bank switch waits: the station presents it again. -/
def execWindowArrival (src id off : Nat) (bs : List Byte) (s : State) : Out :=
  .next (s.on fun m => if !m.carries then m else match m.windowArrival off bs with
    | .ok m1 => m1.ackWrite src id bs.length 0
    | .reject => m.ackWrite src id bs.length Cause.collReject
    | .hold => m)

/-- RING_CHUNK_ARRIVAL (R31, R467). -/
def execRingChunkArrival (src id srcCore : Nat) (span : BitVec 3) (off : Nat) (bs : List Byte) (s : State) : Out :=
  .next (s.on fun m => if m.carries then m.takeRing ⟨src, id, srcCore, span, off, bs⟩ else m)

/-- SPILL_REFETCH (R467). -/
def execSpillRefetch (core ring : Nat) (s : State) : Out := .next (s.on fun m => m.refetch core ring)

/-- COLSPILL_WRITE: Meadow's write of COLSPILL, after which held writes are tried again (R467). -/
def execColspillWrite (v : Word64) (s : State) : Out :=
  .next (s.on fun m => ({ m with fb := { m.fb with colspill := v &&& 0x80000FFFFFC00FFF } }).retryRing)

end Sys2Proof.Machine
end

