-- ==== Sys2Proof/Machine/C1.lean ====
section
/-!
DEFINITION. The C1 port's issue and its single requests: rules R192, R193, R236, R436, R446, R449, R452, R454 to R463 and R469. A request
starts, is performed at its home or sent to another module, and ends when its token is written.
-/

namespace Sys2Proof.Machine

/-! ## Issue (R192, R193, R436, R446) -/

/-- Bits [63:60] of a generic address. -/
def aperture (a : Word64) : Nat := fld a.toNat 60 4

/-- Whether an entry is an engine job (R161). -/
def C1Kind.isJob : C1Kind → Bool
  | .cpy | .cpyr _ | .gath | .scat | .coll => true
  | .rld _ _ _ | .rst _ _ | .amo _ _ _ _ _ | .rsc _ _ _ | .skamo _ _ | .cld _ _ | .cst _ _ _ _ | .crcn _ _ _ _ | .mcast _ _
  | .marker _ _ | .trigMark | .qfence => false

/-- The destination of an operation that has one. -/
def C1Kind.dest : C1Kind → Option Nat
  | .rld _ _ d | .amo _ _ d _ _ | .rsc d _ _ | .cld d _ | .cst d _ _ _ | .crcn d _ _ _ => some d
  | .cpy | .cpyr _ | .gath | .scat | .coll | .rst _ _ | .skamo _ _ | .mcast _ _ | .marker _ _ | .trigMark | .qfence => none

/-- Arms a C1 operation whose first issue has serial number `n`, or counts one issue more of the one that is armed; `q` is 1 where the
issue has entered the queue and will be reported, else 0 (R192, R193). -/
def Thread.armC1 (t : Thread) (re k : Bool) (i : Instr) (base : Word64) (token n q : Nat) : Thread :=
  if re then t.modU fun u => { u with armC1 := u.armC1.map fun a => { a with outstanding := a.outstanding + q } }
  else if k then t.modU fun u => { u with
    land := u.land.map fun e => { e with re := false }
    armC1 := some { op := i, step := 0, base := base, token := token, since := n, outstanding := q, count := 0, first := none, members := [] } }
  else t

/-- JBIND's check and the binding of a job, with the register's word as it was read at issue (R176, R446); none where the handle fails. -/
def Module.jbind (m : Module) (kind : C1Kind) (w : Nat) : Option (Option (Nat × BitVec 32) × Module) :=
  if !(kind.isJob && bit w 63) then some (none, m)
  else if m.crewOk m.focus (BitVec.ofNat 64 (fld w 0 10)) false then
    let (x, m1) := m.crewBind m.focus (fld w 0 10)
    some (some (fld w 0 10, x), m1)
  else none

/-- Issues a C1 operation: `orig` is the address of the first issue of an armed operation that re-issues. A re-issue whose aperture has
changed enters the queue faulted, and disarms (R192, R193). -/
def State.c1Enter (s : State) (k : Bool) (i : Instr) (kind : C1Kind) (base addr : Word64) (orig : Option Word64) (t : RegNo) : State :=
  let w := s.src.th.csr.jbind.toNat
  match s.now.jbind kind w with
  | none =>
    let s1 : State := if orig.isSome then { s with pre := s.pre.map fun m => m.modTh Thread.disarmC1 } else s
    s1.handleFault (BitVec.ofNat 64 (fld w 0 10))
  | some (bound, m1) =>
    let re := orig.isSome
    let moved := match orig with
      | some o => aperture o != aperture addr
      | none => false
    (s.on fun _ => m1).upd fun th =>
      let th0 := if re then th else th.disarmC1
      let (n, th1) := th0.tick
      let e := { th1.c1Entry kind addr t.toNat n (re || k) with
                 bound := bound, phase := if moved then .done 2 0 Cause.addrAperture 0 else .queued }
      let th2 := ((th1.enterC1 e).token t.toNat).armC1 re k i base t.toNat n 1
      let th3 := match kind.dest with
        | some d => th2.addPend d
        | none => th2
      if moved then th3.disarmC1 else th3

/-- RLD. -/
def State.rldAt (s : State) (k sx : Bool) (w : BitVec 2) (t a d : RegNo) (off : BitVec 13) (base : Word64) (orig : Option Word64) : State :=
  s.c1Enter k (.rld k sx w t a d off) (.rld sx (2 ^ w.toNat) d.toNat) base (c1Address base off) (orig.map fun o => c1Address o off) t

/-- RST. -/
def State.rstAt (s : State) (k : Bool) (w : BitVec 2) (t a b : RegNo) (off : BitVec 13) (base : Word64) (orig : Option Word64) : State :=
  s.c1Enter k (.rst k w t a b off) (.rst (2 ^ w.toNat) (s.rdS b)) base (c1Address base off) (orig.map fun o => c1Address o off) t

/-- AMO. -/
def State.amoAt (s : State) (k : Bool) (op : AmoOp) (wide : Bool) (t a b c d : RegNo) (off : BitVec 13) (base : Word64)
    (orig : Option Word64) : State :=
  s.c1Enter k (.amo k op wide t a b c d off) (.amo op wide d.toNat (s.rdS b) (s.rdS c)) base (c1Address base off)
    (orig.map fun o => c1Address o off) t

/-- AMO.rsc. -/
def State.rscAt (s : State) (k : Bool) (t a b c d : RegNo) (off : BitVec 13) (base : Word64) (orig : Option Word64) : State :=
  s.c1Enter k (.amoRsc k t a b c d off) (.rsc d.toNat (s.rdS b) (s.rdS c)) base (c1Address base off) (orig.map fun o => c1Address o off) t

/-- What an RLDT comes to at issue: its landing count with a fault or with the physical bytes to be read; or a translation that is outstanding, for
which the core freezes (R191, R222, R455). -/
inductive Timed where
  | lands (k : Nat) (r : Except Cause (Nat × Nat)) (m : Module)
  | late (h : Nat)

/-- An RLDT at issue (R222, R455). -/
def Module.rldt (m : Module) (cx : Nat) (user : Bool) (a : Word64) (n : Nat) : Timed :=
  let bad := fun c : Cause => Timed.lands 64 (.error c) m
  if aperture a ≠ 0 then bad Cause.timedClass
  else if a.toNat % n ≠ 0 then bad Cause.addrAlign
  else if !apertureZero a.toNat 0 then bad Cause.addrAperture
  else
    let die := dieOfCore (coreOf cx)
    match translate m die (some (clusterOf (coreOf cx))) (m.ctx cx).asid (fld a.toNat 0 52) .read user with
    | .error (.cause c) => bad c
    | .error (.snoop h) => .late h
    | .error .wait => bad Cause.timedClass
    | .ok (ph, m1) =>
      let here := homeDie ph.pa == die
      let answer := fun (k : Nat) (ok : Bool) =>
        Timed.lands k (if !ok then .error Cause.timedClass else if isDevReg ph.pa then .error Cause.devregAccess else .ok (ph.pa, n)) m1
      match fld ph.leaf.w0 54 2 with
      | 1 => answer 64 (here && fld ph.leaf.w0 52 2 == 1)
      | 2 => answer 512 here
      | 3 => answer 4096 true
      | _ => answer 64 false

/-- RLDT (R455): a landing entry whose data have still to arrive, or one that raises a fault; a re-issue whose aperture has changed faults
(R192). -/
def State.rldtAt (s : State) (k : Bool) (w : BitVec 2) (a d : RegNo) (off : BitVec 13) (base : Word64) (orig : Option Word64) : State :=
  let addr := c1Address base off
  let moved := orig.any fun o => aperture (c1Address o off) != aperture addr
  let dst : List (Reg × VWord) := if d = 0 then [] else [(.s d.toNat, 0)]
  let enter := fun (m : Module) (e : Nat → Landing) => (s.on fun _ => m).upd fun th =>
    let (n, th0) := (if orig.isSome then th else th.disarmC1).tick
    (th0.armC1 orig.isSome k (.rldt k w a d off) base 0 0 0).land { e n with re := orig.isSome || k }
  if moved then (enter s.now fun _ => ⟨[], 64, 5, some ⟨Cause.addrAperture, 0, addr, .L⟩, none, false⟩).upd Thread.disarmC1
  else match s.now.rldt s.now.focus (!s.src.th.system) addr (2 ^ w.toNat) with
    | .late h => s.holdM fun m => m.askSnoop h
    | .lands n (.error c) m1 => enter m1 fun _ => ⟨[], n, 5, some ⟨c, 0, addr, .L⟩, none, false⟩
    | .lands n (.ok p) m1 => enter m1 fun x => ⟨dst, n, 5, none, some (p.1, p.2, addr, x), false⟩

/-- PFETCH asks for a line; it changes no architectural state and never faults (R456). -/
def State.pfetchAt (s : State) (k : Bool) (a : RegNo) (off : BitVec 13) (base : Word64) (orig : Option Word64) : State :=
  s.upd fun th => (if orig.isSome then th else th.disarmC1).armC1 orig.isSome k (.pfetch k a off) base 0 0 0

/-! ## Meanings: what a bundle issues -/

/-- CPY (R449). -/
def execCpy (k : Bool) (t a : RegNo) (s : State) : Out := .next (s.c1Enter k (.cpy k t a) .cpy (s.rdS a) (s.rdS a) none t)

/-- CPYR (R449). -/
def execCpyr (k : Bool) (t a : RegNo) (g : BitVec 3) (s : State) : Out :=
  .next (s.c1Enter k (.cpyr k t a g) (.cpyr g.toNat) (s.rdS a) (s.rdS a) none t)

/-- GATH (R452). -/
def execGath (k : Bool) (t a : RegNo) (s : State) : Out := .next (s.c1Enter k (.gath k t a) .gath (s.rdS a) (s.rdS a) none t)

/-- SCAT (R452). -/
def execScat (k : Bool) (t a : RegNo) (s : State) : Out := .next (s.c1Enter k (.scat k t a) .scat (s.rdS a) (s.rdS a) none t)

/-- COLL (R463). -/
def execColl (t a : RegNo) (s : State) : Out := .next (s.c1Enter false (.coll t a) .coll (s.rdS a) (s.rdS a) none t)

/-- RLD (R454). -/
def execRld (k sx : Bool) (w : BitVec 2) (t a d : RegNo) (off : BitVec 13) (s : State) : Out :=
  .next (s.rldAt k sx w t a d off (s.rdS a) none)

/-- RST (R454). -/
def execRst (k : Bool) (w : BitVec 2) (t a b : RegNo) (off : BitVec 13) (s : State) : Out := .next (s.rstAt k w t a b off (s.rdS a) none)

/-- RLDT (R455). -/
def execRldt (k : Bool) (w : BitVec 2) (a d : RegNo) (off : BitVec 13) (s : State) : Out := .next (s.rldtAt k w a d off (s.rdS a) none)

/-- AMO (R457). -/
def execAmo (k : Bool) (op : AmoOp) (wide : Bool) (t a b c d : RegNo) (off : BitVec 13) (s : State) : Out :=
  .next (s.amoAt k op wide t a b c d off (s.rdS a) none)

/-- AMO.rsc (R458). -/
def execAmoRsc (k : Bool) (t a b c d : RegNo) (off : BitVec 13) (s : State) : Out := .next (s.rscAt k t a b c d off (s.rdS a) none)

/-- SKAMO (R459). -/
def execSkamo (kind : SkKind) (t a b : RegNo) (off : BitVec 13) (s : State) : Out :=
  .next (s.c1Enter false (.skamo kind t a b off) (.skamo kind (s.rdS b)) (s.rdS a) (c1Address (s.rdS a) off) none t)

/-- CLD (R460). -/
def execCld (t a b d : RegNo) (off : BitVec 13) (s : State) : Out :=
  .next (s.c1Enter false (.cld t a b d off) (.cld d.toNat (s.rdS b)) (s.rdS a) (c1Address (s.rdS a) off) none t)

/-- The writer counter, one higher (R251). -/
def State.countWriter (s : State) : State :=
  s.upd fun t => t.modC fun c => { c with wctr := BitVec.ofNat 64 ((c.wctr.toNat + 1) % 2 ^ 24) }

/-- CST (R460): WCTR rises at issue. -/
def execCst (t a b c d : RegNo) (off : BitVec 13) (s : State) : Out :=
  let s1 := s.countWriter
  .next (s1.c1Enter false (.cst t a b c d off) (.cst d.toNat (s.rdS b) (s.rdS c) s1.now.th.csr.wctr.toNat) (s.rdS a)
    (c1Address (s.rdS a) off) none t)

/-- CRCN (R460): WCTR rises at issue. -/
def execCrcn (op : BitVec 4) (t a b d : RegNo) (off : BitVec 13) (s : State) : Out :=
  let s1 := s.countWriter
  .next (s1.c1Enter false (.crcn op t a b d off) (.crcn d.toNat op.toNat (s.rdS b) s1.now.th.csr.wctr.toNat) (s.rdS a)
    (c1Address (s.rdS a) off) none t)

/-- MCAST (R461). -/
def execMcast (idx : BitVec 8) (t a b : RegNo) (s : State) : Out :=
  .next (s.c1Enter false (.mcast idx t a b) (.mcast idx.toNat (s.rdS b)) (s.rdS a) (s.rdS a) none t)

/-- PFETCH (R456). -/
def execPfetch (k : Bool) (a : RegNo) (off : BitVec 13) (s : State) : Out := .next (s.pfetchAt k a off (s.rdS a) none)

/-- QFENCE: every earlier C0 store is written at its bank, and later C1 operations wait; a C0 store of its own bundle is no earlier one (R235,
R469). -/
def execQfence (s : State) : Out :=
  .next (s.upd fun t =>
    let (n, t1) := t.disarmC1.tick
    (t1.enterC1 (t1.c1Entry .qfence 0 0 n false)).fenceC0)

/-- Re-issues an armed C1 operation at its stepped operand (R192). -/
def State.reissueC1 (s : State) (i : Instr) (base orig : Word64) : State :=
  match i with
  | .cpy k t a => s.c1Enter true (.cpy k t a) .cpy base base (some orig) t
  | .cpyr k t a g => s.c1Enter true (.cpyr k t a g) (.cpyr g.toNat) base base (some orig) t
  | .gath k t a => s.c1Enter true (.gath k t a) .gath base base (some orig) t
  | .scat k t a => s.c1Enter true (.scat k t a) .scat base base (some orig) t
  | .rld k sx w t a d off => s.rldAt k sx w t a d off base (some orig)
  | .rst k w t a b off => s.rstAt k w t a b off base (some orig)
  | .rldt k w a d off => s.rldtAt k w a d off base (some orig)
  | .amo k op wide t a b c d off => s.amoAt k op wide t a b c d off base (some orig)
  | .amoRsc k t a b c d off => s.rscAt k t a b c d off base (some orig)
  | .pfetch k a off => s.pfetchAt k a off base (some orig)
  | _ => s

/-! ## Entries of the queue -/

/-- Changes entry `i` of the C1 queue. -/
def Thread.modC1 (t : Thread) (i : Nat) (f : C1Entry → C1Entry) : Thread := t.modX fun x => { x with c1q := modifyAt f i x.c1q }

/-- Changes entry `i` of a context's C1 queue. -/
def Module.modC1 (m : Module) (cx i : Nat) (f : C1Entry → C1Entry) : Module := m.modCtx cx fun t => t.modC1 i f

/-- Entry `i` of a context's C1 queue. -/
def Module.c1 (m : Module) (cx i : Nat) : Option C1Entry := nth? i (m.ctx cx).x.c1q

/-- The place of the entry with a serial number. -/
def Thread.c1Index (t : Thread) (serial : Nat) : Option Nat :=
  (firstWhere (fun e : C1Entry × Nat => e.1.serial == serial && !e.1.kind.isMarker) (t.x.c1q.zip (range' 0 t.x.c1q.length))).map (·.2)

/-- Brings entry `i` to its end; its token is still to be written. -/
def Module.c1Done (m : Module) (cx i st count : Nat) (c : Cause) (det : BitVec 25) : Module :=
  m.modC1 cx i fun e => { e with phase := .done st count c det }

/-- Faults entry `i` before anything was delivered. -/
def Module.c1Fail (m : Module) (cx i : Nat) (c : Cause) : Module := m.c1Done cx i 2 0 c 0

/-- Makes entry `i` wait for what a stopped access needs, or fail. -/
def Module.c1Stop (m : Module) (cx i : Nat) (user : Bool) (kind : PfKind) (st : Stop) : Module :=
  match st with
  | .fault c a => (m.noteFull c a).c1Fail cx i c
  | .part c a n m1 => (m1.noteFull c a).c1Done cx i 1 n c 0
  | st =>
    let (w, m1) := m.askStop (m.acc cx user false) kind st
    m1.modC1 cx i fun x => { x with pf := w }

/-- The queue index of the first entry that may start: operations that are not jobs start in issue order, and nothing starts past a marker
or a queue fence (R436, R469). -/
def c1Next : List C1Entry → Nat → Option Nat
  | [], _ => none
  | e :: l, i =>
    if e.kind.isMarker then (if i = 0 then some 0 else none)
    else if e.kind = .qfence then (if i = 0 then some 0 else none)
    else if e.kind.isJob || e.phase != .queued then c1Next l (i + 1)
    else some i

/-! ## Where a home operation goes -/

/-- The home of an operation: here, with the access that reaches it, or in another module. -/
inductive HomeAt where
  | here (a : Acc) (va : Nat)
  | away (dev off : Nat)
  deriving DecidableEq, Repr

/-- Finds the home of a range of `n` bytes aligned to `al`; apertures 0x0 and 0x3 alone reach one (R436, R457). -/
def Module.homeAt (m : Module) (cx : Nat) (e : C1Entry) (n al : Nat) : Except Stop HomeAt :=
  if aperture e.addr ≠ 0 && aperture e.addr ≠ 3 then .error (.fault Cause.addrAperture e.addr.toNat)
  else if e.addr.toNat % al ≠ 0 then .error (.fault Cause.addrAlign e.addr.toNat)
  else match m.place cx e.user e.addr n with
    | .error st => .error st
    | .ok (.globl va) => .ok (.here (m.acc cx e.user false) va)
    | .ok (.remote d o) =>
      if m.isSelf d then match m.importHome d o n with
        | .ok va => .ok (.here (m.remoteAcc true) va)
        | .error c => .error (.fault c e.addr.toNat)
      else .ok (.away d o)
    | .ok _ => .error (.fault Cause.addrAperture e.addr.toNat)

/-- Reads a source record through aperture 0x0 or 0x1 (R458, R459, R461). -/
def Module.sourceBytes (m : Module) (cx : Nat) (e : C1Entry) (a : Word64) (n al : Nat) : Except Stop (List Byte × Module) :=
  if aperture a > 1 then .error (.fault Cause.addrAperture a.toNat)
  else if a.toNat % al ≠ 0 then .error (.fault Cause.addrAlign a.toNat)
  else match m.place cx e.user a n with
    | .error st => .error st
    | .ok p => m.readP cx e.user false p n

/-- Whether a source record lies within one page. -/
def Module.sourceOnePage (m : Module) (cx : Nat) (e : C1Entry) (a : Word64) (n : Nat) : Bool :=
  aperture a != 0 || onePage m (m.acc cx e.user false) (fld a.toNat 0 52) n

/-- The checks of a scratchpad operand of a cell operation (R460). -/
def cellSpBad (sp : Word64) (n : Nat) : Option Cause :=
  if sp.toNat ≥ 2 ^ 20 then some Cause.addrAperture
  else if sp.toNat % 64 ≠ 0 then some Cause.addrAlign
  else if sp.toNat + n > 2 ^ 20 then some Cause.addrAperture
  else none

/-- WID of a thread (R251). -/
def Module.wid (m : Module) (cx : Nat) : Nat :=
  m.devid * 2 ^ 30 + fld (m.ctx cx).csr.lnum.toNat 0 20 * 2 ^ 10 + (m.ctx cx).tidN

/-! ## Order within the queue (R236) -/

/-- Homes of a range, so that accesses of one queue to one home keep their order (R236); none where it cannot be told. -/
def Module.rangeHomes (m : Module) (cx : Nat) (user : Bool) (a : Word64) (n : Nat) : Option (List Nat) :=
  m.homes cx ⟨.trigMark, n, a, .none, user, none, 0⟩

/-- The bytes an operation touches at its home. -/
def C1Kind.width : C1Kind → Nat
  | .rld _ w _ => w
  | .rst w _ => w
  | .amo _ wide _ _ _ => if wide then 8 else 4
  | .rsc _ _ n => 16 + 4 * n.toNat
  | .skamo k _ => skSize k
  | .cld _ _ | .cst _ _ _ _ | .crcn _ _ _ _ => 64
  | .cpy | .cpyr _ | .gath | .scat | .coll | .mcast _ _ | .marker _ _ | .trigMark | .qfence => 0

/-- Length in bytes of a multicast, from s[B]. -/
def mcastLen (dst : Word64) : Nat := 64 * fld dst.toNat 48 16
/-- Window offset of a multicast. -/
def mcastOff (dst : Word64) : Nat := fld dst.toNat 0 48

/-- What a started operation that is no job has still to access in this module: address and bytes; a multicast its own copy. -/
def Module.c1Span (m : Module) (e : C1Entry) : Option (Word64 × Nat) :=
  match e.kind with
  | .mcast _ dst => if e.buf.isSome then some (BitVec.ofNat 64 (Place.remote m.devid (mcastOff dst)).gen, mcastLen dst) else none
  | k => if k.isJob then none else some (e.addr, k.width)

/-- Whether an access of entry `i` must wait for an earlier operation at the same home (R236). -/
def Module.c1Busy (m : Module) (cx i : Nat) (user : Bool) (a : Word64) (n : Nat) : Bool :=
  ((m.ctx cx).x.c1q.take i).any fun x => x.phase == C1Phase.started && match m.c1Span x with
    | none => false
    | some (b, k) => match m.rangeHomes cx x.user b k, m.rangeHomes cx user a n with
      | some p, some q => p.any fun h => q.contains h
      | _, _ => true

/-- Whether a started entry must wait for an earlier one at the same home. -/
def Module.c1Blocked (m : Module) (cx i : Nat) (e : C1Entry) : Bool :=
  match m.c1Span e with
  | none => false
  | some (a, n) => m.c1Busy cx i e.user a n

/-! ## Starting -/

/-- The source queue of a context's C1 and M traffic (R29). -/
def c1Source (cx : Nat) : Nat := 2 * coreOf cx + 1

/-- Marks entry `i` started at a home of this module. -/
def Module.c1Begin (m : Module) (cx i : Nat) (buf : Option (List Byte)) : Module :=
  m.modC1 cx i fun x => { x with phase := .started, buf := buf, pf := .none }

/-- Sends entry `i` to another module as a plain request. -/
def Module.c1Send (m : Module) (cx i serial d o : Nat) (r : RemoteReq) : Module :=
  let at_ := m.coreClock (coreOf cx)
  let (id, m1) := m.request (c1Source cx) d o r (.access cx serial at_)
  m1.modC1 cx i fun x => { x with phase := .remote id, pf := .none }

/-- Sends entry `i` to another module as a tunnel message. -/
def Module.c1Tunnel (m : Module) (cx i serial d kind o aux : Nat) (payload : List Byte) (wctr : Nat) : Module :=
  let at_ := m.coreClock (coreOf cx)
  let m0 := if kind = 1 then m else m.remoteWrite (c1Source cx) d o (Nat.max 64 payload.length)
  let car : Carried := { Carried.none with wid := BitVec.ofNat 40 (m.wid cx), wctr := BitVec.ofNat 24 wctr }
  let (id, m1) := m0.tunnel (c1Source cx) d kind o aux payload car (.tunnel cx serial at_)
  m1.modC1 cx i fun x => { x with phase := .remote id, pf := .none }

/-- Starts a home operation: `here` with the bytes it carries, or as the message given. -/
def Module.c1Home (m : Module) (cx i : Nat) (e : C1Entry) (n al : Nat) (buf : Option (List Byte)) (away : Module → Nat → Nat → Module) : Module :=
  match m.homeAt cx e n al with
  | .error st => m.c1Stop cx i e.user .home st
  | .ok (.here _ _) => m.c1Begin cx i buf
  | .ok (.away d o) => away m d o

/-! ### Multicast (R46 to R49, R461, R462) -/

/-- The destinations of a multicast entry, ascending. -/
def Module.mcastDests (m : Module) (idx : Nat) : List Nat :=
  let w := Tab.get [] m.fb.mcmap idx
  (range' 0 1024).filter fun d => bit (Tab.get 0 w (d / 64)).toNat (d % 64)

/-- The end of a multicast, once every destination has acknowledged or failed. -/
def Module.mcastEnd (m : Module) (cx i : Nat) (acks : List (Nat × Nat × Cause)) : Module :=
  let total := natSum (acks.map fun a => a.2.1)
  let bad := sortBy (fun a b : Nat × Nat × Cause => decide (a.1 ≤ b.1)) (acks.filter fun a => a.2.2 != 0)
  let m1 := m.modC1 cx i fun x => { x with acks := acks }
  match bad with
  | [] => m1.c1Done cx i 0 total 0 0
  | b :: _ => m1.c1Done cx i (if total = 0 then 2 else 1) total b.2.2 (BitVec.ofNat 25 (b.1 + Nat.min bad.length 1023 * 1024))

/-- One more destination of the multicast in entry `i` has acknowledged or failed. -/
def Module.mcastNote (m : Module) (cx i : Nat) (e : C1Entry) (dev count : Nat) (c : Cause) : Module :=
  let acks := e.acks ++ [(dev, count, c)]
  if acks.length = e.next then m.mcastEnd cx i acks else m.modC1 cx i fun x => { x with acks := acks }

/-- One other destination of a multicast has answered. -/
def Module.mcastAck (m : Module) (cx serial dev count : Nat) (c : Cause) : Module :=
  match (m.ctx cx).c1Index serial with
  | none => m
  | some i => match m.c1 cx i with
    | none => m
    | some e => match e.kind with
      | .mcast idx _ => ({ m with fb := { m.fb with mcbusy := Tab.modify 0 m.fb.mcbusy idx (· - 1) } } : Module).mcastNote cx i e dev count c
      | _ => m

/-- The multicast of entry `i` has read its source: a copy goes to each other destination, and the copy to this module is still to be made (R35,
R49). -/
def Module.mcastSend (m : Module) (cx i : Nat) (e : C1Entry) (idx o : Nat) (bs : List Byte) : Module :=
  let dests := m.mcastDests idx
  let others := dests.filter fun d => !m.isSelf d
  let m1 := others.foldl (fun m d =>
    let at_ := m.coreClock (coreOf cx)
    (m.request (c1Source cx) d o (.write bs) (.copy cx e.serial d bs.length at_)).2) m
  let m2 := { m1 with fb := { m1.fb with mcbusy := Tab.modify 0 m1.fb.mcbusy idx (· + others.length) } }
  let own := dests.contains m.devid
  let m3 := m2.modC1 cx i fun x => { x with phase := .started, pf := .none, acks := [], next := dests.length, buf := if own then some bs else none }
  if dests.isEmpty then m3.mcastEnd cx i [] else m3

/-- The copy of a multicast to its own module, through the import table (R35); a failure is its own alone (R49). -/
def Module.mcastSelf (m : Module) (cx i : Nat) (e : C1Entry) (dst : Word64) : Module :=
  match e.buf with
  | none => m
  | some bs =>
    let note := fun (m : Module) (count : Nat) (c : Cause) => (m.modC1 cx i fun x => { x with buf := none, pf := .none }).mcastNote cx i e m.devid count c
    match e.pf.cause with
    | some c => note m 0 c
    | none => match m.serve m.devid (mcastOff dst) true (.write bs) with
      | .ok r => note r.m r.count r.cause
      | .error st => m.c1Stop cx i e.user .write (loopStop st)

/-- Starts a multicast: its checks, and the one reading of its source (R46 to R48, R461, R462). -/
def Module.mcastStart (m : Module) (cx i : Nat) (e : C1Entry) (idx : Nat) (dst : Word64) : Module :=
  let n := mcastLen dst
  let o := mcastOff dst
  let ctl := (Tab.get 0 m.fb.mcctl idx).toNat
  if o % 64 ≠ 0 then m.c1Fail cx i Cause.addrAlign
  else if n = 0 || decide (o + n > tunnelBase) then m.c1Fail cx i Cause.addrAperture
  else if bit m.fb.mccmd.toNat 63 && fld m.fb.mccmd.toNat 0 8 == idx then m
  else if !bit ctl 63 then m.c1Fail cx i Cause.mcastInvalid
  else if n * fld ctl 0 11 > 2 ^ 30 - 1 then m.c1Fail cx i Cause.mcastSize
  else match e.pf.cause with
    | some c => m.c1Fail cx i c
    | none =>
      if m.c1Busy cx i e.user e.addr n then m
      else match m.sourceBytes cx e e.addr n 64 with
        | .error st => m.c1Stop cx i e.user .read st
        | .ok (bs, m1) => m1.mcastSend cx i e idx o bs

/-! ### Single requests -/

/-- Starts RLD or RST. -/
def Module.plainStart (m : Module) (cx i : Nat) (e : C1Entry) (n : Nat) (data : Option Word64) : Module :=
  match m.place cx e.user e.addr n with
  | .error st => m.c1Stop cx i e.user (if data.isSome then .write else .read) st
  | .ok (.remote d o) =>
    if m.isSelf d then m.c1Begin cx i none
    else match data with
      | some v => m.c1Send cx i e.serial d o (.write (leBytes v.toNat n))
      | none => match m.roAnswer (coreOf cx) d o n with
        | (some bs, m1) => (m1.modC1 cx i fun x => { x with buf := some bs }).c1Done cx i 0 n 0 0
        | (none, m1) => m1.c1Send cx i e.serial d o (.read n)
  | .ok _ => m.c1Begin cx i none

/-- Starts the rescaling reduction: N, then the source record (R458). -/
def Module.rscStart (m : Module) (cx i : Nat) (e : C1Entry) (src n : Word64) : Module :=
  let len := 16 + 4 * n.toNat
  if n = 0 || decide (n.toNat > 240) then m.c1Fail cx i Cause.rscFormat
  else if m.c1Busy cx i e.user src len then m
  else match m.sourceBytes cx e src len 1 with
    | .error st => m.c1Stop cx i e.user .read st
    | .ok (bs, m1) =>
      if numAt bs 8 2 ≠ n.toNat || !m1.sourceOnePage cx e src len then m1.c1Fail cx i Cause.rscFormat
      else m1.c1Home cx i e len 16 (some bs) fun m d o => m.c1Tunnel cx i e.serial d 5 o 0 bs 0

/-- Starts a summary merge: the source record (R459). -/
def Module.skamoStart (m : Module) (cx i : Nat) (e : C1Entry) (k : SkKind) (src : Word64) : Module :=
  if m.c1Busy cx i e.user src (skSize k) then m
  else match m.sourceBytes cx e src (skSize k) 64 with
  | .error st => m.c1Stop cx i e.user .read st
  | .ok (bs, m1) => m1.c1Home cx i e (skSize k) 64 (some bs) fun m d o => m.c1Tunnel cx i e.serial d 4 o (skCode k) bs 0

/-- Starts a cell operation that writes the scratchpad at its end. -/
def Module.cellStart (m : Module) (cx i : Nat) (e : C1Entry) (sp : Word64) (n kind aux wctr : Nat) : Module :=
  match cellSpBad sp n with
  | some c => m.c1Fail cx i c
  | none => m.c1Home cx i e 64 64 none fun m d o => m.c1Tunnel cx i e.serial d kind o aux [] wctr

/-- Starts a cell store: its value is read now (R460). -/
def Module.cstStart (m : Module) (cx i : Nat) (e : C1Entry) (sp stamp : Word64) (wctr : Nat) : Module :=
  match cellSpBad sp 64 with
  | some c => m.c1Fail cx i c
  | none => if m.c1Busy cx i e.user (BitVec.ofNat 64 (genOwn sp.toNat)) 64 then m else match m.spRead cx e.user true sp.toNat 64 with
    | .error st => m.c1Stop cx i e.user .fill st
    | .ok bs => m.c1Home cx i e 64 64 (some bs) fun m d o => m.c1Tunnel cx i e.serial d 2 o 0 (leBytes stamp.toNat 8 ++ bs) wctr

/-- Starts entry `i`, which is not a job. A page fault answered with NOMAP or DENY ends it. -/
def Module.c1Launch (m : Module) (cx i : Nat) (e : C1Entry) : Module :=
  match e.pf.cause, e.kind with
  | _, .mcast idx dst => m.mcastStart cx i e idx dst
  | some c, _ => m.c1Fail cx i c
  | none, .rld _ w _ => m.plainStart cx i e w none
  | none, .rst w v => m.plainStart cx i e w (some v)
  | none, .amo op wide _ b c =>
    let n := if wide then 8 else 4
    m.c1Home cx i e n n none fun m d o => m.c1Send cx i e.serial d o (.atomic op wide b c)
  | none, .rsc _ src n => m.rscStart cx i e src n
  | none, .skamo k src => m.skamoStart cx i e k src
  | none, .cld _ sp => m.cellStart cx i e sp 64 1 0 0
  | none, .cst _ sp st w => m.cstStart cx i e sp st w
  | none, .crcn _ op sp w => m.cellStart cx i e sp 64 3 op w
  | none, .cpy | none, .cpyr _ | none, .gath | none, .scat | none, .coll | none, .marker _ _ | none, .trigMark | none, .qfence => m

/-- Passes a queue fence at the head of the queue once every earlier S-queue access is done (R469). -/
def Thread.passQfence (t : Thread) (serial : Nat) : Thread :=
  if t.x.sq.any fun e => decide (e.serial < serial) then t else t.modX fun x => { x with c1q := x.c1q.tail }

/-- Starts the next C1 operation that is not a job. Nothing starts while the thread waits for Meadow (R198). -/
def Module.c1Start (m : Module) (cx : Nat) : Module :=
  let t := m.ctx cx
  match c1Next t.x.c1q 0 with
  | none => m
  | some i => match nth? i t.x.c1q with
    | none => m
    | some e =>
      if e.kind.isMarker then m.passMarker cx
      else if e.kind = .qfence then m.setCtx cx (t.passQfence e.serial)
      else if t.pfStopped then m
      else m.c1Launch cx i e

/-- C1_REQUEST_START (R436). -/
def execC1RequestStart (s : State) : Out := .next (s.clocked s.now.focus fun m => m.c1Start m.focus)

/-! ## Performing -/

/-- The end of a home operation: its count, its value and the bytes it brings. -/
structure HomeResult where
  count : Nat
  value : Option Word64
  bytes : Option (List Byte)
  ordered : Bool
  m : Module
  deriving DecidableEq, Repr

/-- The operation of an entry at a home of this module (R237, R457 to R460). -/
def Module.homeRun (m : Module) (cx : Nat) (e : C1Entry) (a : Acc) (va : Nat) : Except Stop HomeResult :=
  let bs := e.buf.getD []
  match e.kind with
  | .amo op wide d b c =>
    let n := if wide then 8 else 4
    match m.homeAmo a va n op b.toNat c.toNat with
    | .ok (old, m1) => .ok ⟨n, some (amoOld op n old), none, amoOrdered op (d == 0), m1⟩
    | .error st => .error st
  | .rsc _ _ n => match m.homeRsc a va n.toNat bs with
    | .ok (old, m1) => .ok ⟨16 + 4 * n.toNat, some (zext64 old 32), none, true, m1⟩
    | .error st => .error st
  | .skamo k _ => match m.homeMerge a va k bs with
    | .ok (drew, m1) => .ok ⟨skSize k, none, none, k != .dck || drew != 0, m1⟩
    | .error st => .error st
  | .cld _ sp => match m.homeCellLoad a va with
    | .ok (st, vs, m1) =>
      if sp.toNat + 64 * vs.length > 2 ^ 20 then .error (.fault Cause.addrAperture e.addr.toNat)
      else .ok ⟨64 * vs.length, some st, some vs.flatten, false, m1⟩
    | .error st => .error st
  | .cst _ _ st w => match m.homeCellStore a va st.toNat bs (m.wid cx) w with
    | .ok (r, _, ord, m1) => .ok ⟨64, some r, none, ord, m1⟩
    | .error st => .error st
  | .crcn _ op _ w => match m.homeCellReconcile a va op (m.wid cx) w with
    | .ok (r, v, m1) => .ok ⟨64, some r, some v, false, m1⟩
    | .error st => .error st
  | _ => .error .wait

/-- Alignment of an operation's address. -/
def C1Kind.align (k : C1Kind) : Nat :=
  match k with
  | .amo _ wide _ _ _ => if wide then 8 else 4
  | .rsc _ _ _ => 16
  | _ => 64

/-- HOME_OPERATION on entry `i`. -/
def Module.homeOperation (m : Module) (cx i : Nat) : Module :=
  match m.c1 cx i with
  | none => m
  | some e =>
    if e.phase != .started || e.pf.waits || m.c1Blocked cx i e then m
    else match e.kind with
      | .amo _ _ _ _ _ | .rsc _ _ _ | .skamo _ _ | .cld _ _ | .cst _ _ _ _ | .crcn _ _ _ _ =>
        match e.pf.cause with
        | some c => m.c1Fail cx i c
        | none => match m.homeAt cx e e.kind.width e.kind.align with
          | .ok (.here a va) => match m.homeRun cx e a va with
            | .ok r =>
              let fold := match e.kind with
                | .cst _ _ _ _ => r.ordered
                | _ => false
              let m1 := if r.ordered && !fold then r.m.orderDependent cx else r.m
              (m1.modC1 cx i fun x => { x with value := r.value, buf := r.bytes, ordered := fold }).c1Done cx i 0 r.count 0 0
            | .error st => m.c1Stop cx i e.user .home (if a.l1 then st else loopStop st)
          | .ok (.away _ _) => m
          | .error st => m.c1Stop cx i e.user .home st
      | _ => m

/-- HOME_OPERATION (R237). -/
def execHomeOperation (ctx idx : Nat) (s : State) : Out := .next (s.on fun m => m.homeOperation ctx idx)

/-- Performs an RLD or RST that has started in this module. -/
def Module.plainRun (m : Module) (cx i : Nat) (e : C1Entry) (n : Nat) (data : Option Word64) : Module :=
  let kind := if data.isSome then PfKind.write else PfKind.read
  match e.pf.cause with
  | some c => m.c1Fail cx i c
  | none =>
    match m.place cx e.user e.addr n with
    | .error st => m.c1Stop cx i e.user kind st
    | .ok p => match data with
      | some v => match m.writeP cx e.user false p (leBytes v.toNat n) with
        | .ok m1 => m1.c1Done cx i 0 n 0 0
        | .error st => m.c1Stop cx i e.user kind st
      | none => match m.readP cx e.user false p n with
        | .ok (bs, m1) => (m1.modC1 cx i fun x => { x with buf := some bs }).c1Done cx i 0 n 0 0
        | .error st => m.c1Stop cx i e.user kind st

/-! ## Ending -/

/-- Takes entry `i` out of the C1 queue. -/
def Thread.dropC1 (t : Thread) (i : Nat) : Thread := t.modX fun x => { x with c1q := removeAt i x.c1q }

/-- What the destination of a finished operation receives, none where it keeps its value. -/
def C1Entry.result (e : C1Entry) (st : Nat) : Option Word64 :=
  if st ≠ 0 then none
  else match e.kind with
    | .rld sx _ _ => e.buf.map (extend sx)
    | _ => e.value

/-- Ends entry `i`: its destination, its token and its place in the queue (R187, R332). -/
def Thread.c1Finish (t : Thread) (i : Nat) (e : C1Entry) (st count : Nat) (c : Cause) (det : BitVec 25) : Thread :=
  let t1 := match e.kind.dest with
    | some d => match e.result st with
      | some v => t.complete d v
      | none => t.dropPend d
    | none => t
  (t1.dropC1 i).report e st count c det

/-- Writes what a cell operation brings into the scratchpad, and ends it; a scratchpad block still to be filled holds it. -/
def Module.c1End (m : Module) (cx i : Nat) (e : C1Entry) (st count : Nat) (c : Cause) (det : BitVec 25) : Module :=
  let finish := fun m : Module => (if e.ordered && st == 0 then m.orderDependent cx else m).modCtx cx fun t => t.c1Finish i e st count c det
  let put := fun (sp : Word64) => match st, e.buf with
    | 0, some bs => match m.spWrite cx e.user true sp.toNat bs with
      | .ok m1 => finish m1
      | .error x => match e.pf.cause with
        | some f => m.modCtx cx fun t => t.c1Finish i e 2 0 f 0
        | none => match x with
          | .fault f _ => m.modCtx cx fun t => t.c1Finish i e 2 0 f 0
          | x => m.c1Stop cx i e.user .fill x
    | _, _ => finish m
  match e.kind with
  | .cld _ sp => put sp
  | .crcn _ _ sp _ => put sp
  | _ => finish m

/-- TOKEN_WRITE on entry `i`: an RLD or RST, or the own copy of a multicast, is performed first. -/
def Module.tokenWrite (m : Module) (cx i : Nat) : Module :=
  let m1 := match m.c1 cx i with
    | some e =>
      if e.phase == C1Phase.started && !e.pf.waits && !m.c1Blocked cx i e then match e.kind with
        | .rld _ w _ => m.plainRun cx i e w none
        | .rst w v => m.plainRun cx i e w (some v)
        | .mcast _ dst => m.mcastSelf cx i e dst
        | _ => m
      else m
    | none => m
  match m1.c1 cx i with
  | some e => match e.phase with
    | .done st count c det => if e.kind.isJob then m1 else m1.c1End cx i e st count c det
    | _ => m1
  | none => m1

/-- TOKEN_WRITE (R332). -/
def execTokenWrite (ctx idx : Nat) (s : State) : Out := .next (s.clocked ctx fun m => m.tokenWrite ctx idx)

/-! ## Answers from other modules -/

/-- The response to a plain request of a C1 operation that is not a job (R36, R45). -/
def Module.c1Answer (m : Module) (cx serial cause count : Nat) (bs : List Byte) : Module :=
  match (m.ctx cx).c1Index serial with
  | none => m
  | some i => match m.c1 cx i with
    | none => m
    | some e =>
      let bad := BitVec.ofNat 7 cause
      match e.phase, e.kind with
      | .remote _, .rld _ w _ =>
        if cause = 0 then (m.modC1 cx i fun x => { x with buf := some bs }).c1Done cx i 0 w 0 0
        else m.c1Fail cx i bad
      | .remote _, .rst w _ => if cause = 0 then m.c1Done cx i 0 w 0 0 else m.c1Done cx i (if count = 0 then 2 else 1) count bad 0
      | .remote _, .amo op wide d _ _ =>
        let n := if wide then 8 else 4
        if cause = 0 then
          let m1 := if amoOrdered op (d == 0) then m.orderDependent cx else m
          (m1.modC1 cx i fun x => { x with value := some (amoOld op n (leNat bs)) }).c1Done cx i 0 n 0 0
        else m.c1Fail cx i bad
      | _, _ => m

/-- Whether the scratchpad operand of a CLD takes the siblings that came back. -/
def cldFits (sp : Word64) (n : Nat) : Bool := decide (sp.toNat + n ≤ 2 ^ 20)

/-- The response to a tunnel message of a C1 operation (R39, R40, R260); that to a rescaling reduction brings the old m with it (R458; log entry 22). -/
def Module.c1TunnelAnswer (m : Module) (cx serial : Nat) (msg : TunnelMsg) : Module :=
  let p := msg.payload
  match (m.ctx cx).c1Index serial with
  | none => m
  | some i => match m.c1 cx i with
    | none => m
    | some e =>
      let set := fun (m : Module) (v : Option Word64) (bs : Option (List Byte)) (n : Nat) =>
        (m.modC1 cx i fun x => { x with value := v, buf := bs }).c1Done cx i 0 n 0 0
      if bit msg.flags.toNat 0 then m.c1Fail cx i (BitVec.ofNat 7 (numAt p 0 4))
      else match e.kind with
        | .rsc _ _ n => set (m.orderDependent cx) (some (zext64 msg.carried.old.toNat 32)) none (16 + 4 * n.toNat)
        | .skamo k _ => set (if k = .dck then m else m.orderDependent cx) none none (skSize k)
        | .cld _ sp =>
          let bs := p.drop 16
          if cldFits sp bs.length then set m (some (BitVec.ofNat 64 (numAt p 0 8))) (some bs) bs.length else m.c1Fail cx i Cause.addrAperture
        | .cst _ _ _ _ =>
          set (m.modC1 cx i fun x => { x with ordered := bit msg.aux.toNat 0 && msg.carried.ordered }) (some (BitVec.ofNat 64 (numAt p 0 8))) none 64
        | .crcn _ _ _ _ => set m (some (BitVec.ofNat 64 (numAt p 0 8))) (some ((p.drop 8).take 64)) 64
        | _ => m

end Sys2Proof.Machine
end

