-- ==== Sys2Proof/Machine/Code.lean ====
section
/-!
DEFINITION. The erasure code of the coding groups: GF(2^8), coefficients, rows and decoding: rules R81, R82, R107 and R329.
-/

namespace Sys2Proof.Machine

/-- `gf_mul` (R329): the carry-less product, reduced by 0x11D. -/
def gfMul (a b : Nat) : Nat :=
  let x := (range' 0 8).foldl (fun x i => if bit b i then x ^^^ (a * 2 ^ i) else x) 0
  (range' 0 8).foldl (fun x j => if bit x (15 - j) then x ^^^ (0x11D * 2 ^ (7 - j)) else x) x % 256

/-- gf_inv(a) = a^254 (R81). -/
def gfInv (a : Nat) : Nat := (range' 0 254).foldl (fun x _ => gfMul x a) 1

/-- The coefficient of data member `j` in parity member k + p (R81). -/
def coef (p j : Nat) : Nat := gfMul (4 + j) (gfInv (p ^^^ (4 + j)))

/-- The row of member `i` in a group of `k` data members (R82). -/
def memberRow (k i : Nat) : List Nat := (range' 0 k).map fun j => if i < k then b2n (i == j) else coef (i - k) j

/-- Adds a multiple of one row to another. -/
def gfRow (f : Nat) (x y : List Nat) : List Nat := (x.zip y).map fun e => e.1 ^^^ gfMul f e.2

/-- One column of the elimination: the first row from `c` on with a pivot moves up, is scaled, and is taken out of the others. -/
def gfStep (n : Nat) (rows : List (List Nat)) (c : Nat) : List (List Nat) :=
  let p := (firstWhere (fun r => ((nth? r rows).bind (nth? c)).getD 0 != 0) (range' c (n - c))).getD c
  let rp := (nth? p rows).getD []
  let rc := (nth? c rows).getD []
  let s := rp.map (gfMul (gfInv ((nth? c rp).getD 0)))
  ((range' 0 n).zip rows).map fun e =>
    if e.1 = c then s
    else
      let r := if e.1 = p then rc else e.2
      gfRow ((nth? c r).getD 0) r s

/-- The inverse of a matrix over GF(2^8), pivots taken in row order (R107). -/
def gfInverse (g : List (List Nat)) : List (List Nat) :=
  let n := g.length
  let aug := ((range' 0 n).zip g).map fun e => e.2 ++ (range' 0 n).map fun j => b2n (e.1 == j)
  ((range' 0 n).foldl (gfStep n) aug).map (List.drop n)

/-- The weights of the sources `s` for the rebuilt member `t` (R107). -/
def decodeWeights (k : Nat) (s : List Nat) (t : Nat) : List Nat :=
  let d := gfInverse (s.map (memberRow k))
  (range' 0 k).map fun i => ((memberRow k t).zip d).foldl (fun w e => w ^^^ gfMul e.1 ((nth? i e.2).getD 0)) 0

/-- A byte string times a coefficient. -/
def gfScale (c : Nat) (bs : List Byte) : List Byte := bs.map fun b => BitVec.ofNat 8 (gfMul c b.toNat)

/-- Two byte strings added. -/
def gfAdd (x y : List Byte) : List Byte := (x.zip y).map fun e => e.1 ^^^ e.2

/-- Decodes a chunk of `n` bytes from the shares of the sources, in the order of the sources (R107). -/
def decodeChunk (k : Nat) (s : List Nat) (t n : Nat) (shares : List (List Byte)) : List Byte :=
  ((decodeWeights k s t).zip shares).foldl (fun out e => gfAdd out (gfScale e.1 e.2)) (List.replicate n 0)

end Sys2Proof.Machine
end

