-- ==== Sys2Proof/Machine/Rounds.lean ====
section
/-!
DEFINITION. The round controller of a coding group: views and quorum, messages, opening, preparing, voting, deciding, loss and takeover: rules
R63 to R65, R82, R86 to R100, R495, R496. Every function takes the group slot it acts on.
-/

namespace Sys2Proof.Machine

/-! ## Notices of Silo -/

/-- A notice that Silo posts: in the notice ring and in the event log (R124). -/
def Module.siloNotice (m : Module) (idx : Nat) (c : Cause) (detail : List Byte) : Module :=
  { m with silo := { m.silo with log := m.silo.log ++ [BitVec.ofNat 256 (leNat (noticeBytes m 3 idx c 0 detail))] } }.notice 3 idx c 0 detail

/-! ## Members and views -/

/-- Members of a group. -/
def Group.size (g : Group) : Nat := g.k + g.m
/-- DEVID of a member (R70). -/
def Group.dev (g : Group) (j : Nat) : Nat := fld (Tab.get 0 g.gmem j).toNat 0 10
/-- Every member but this one. -/
def Group.others (g : Group) : List Nat := (range' 0 g.size).filter (· != g.self)
/-- Whether a member is live in this module's view. -/
def Group.isLive (g : Group) (j : Nat) : Bool := bit g.live.toNat j
/-- The live members. -/
def Group.lives (g : Group) : List Nat := (range' 0 g.size).filter g.isLive
/-- The live members but this one. -/
def Group.liveOthers (g : Group) : List Nat := g.others.filter g.isLive
/-- The quorum Q (R94). -/
def Group.quorum (g : Group) : Nat := g.size / 2 + 1
/-- The member of a list with the lowest DEVID. -/
def Group.lowest (g : Group) (l : List Nat) : Nat := (sortBy (fun a b => decide (g.dev a ≤ g.dev b)) l).headD 0
/-- The first coordinator (R94). -/
def Group.first (g : Group) : Nat := g.lowest (range' 0 g.size)
/-- Recomputes COORD and DEGRADED from the view (R67, R89). -/
def Group.look (g : Group) : Group := { g with coord := g.lowest g.lives, degraded := decide (g.lives.length < g.size) }
/-- Whether this module coordinates in its own view. -/
def Group.coordinates (g : Group) : Bool := g.coord == g.self
/-- Whether this module may decide: the first coordinator always, a successor with a quorum (R94). -/
def Group.mayDecide (g : Group) : Bool := g.coordinates && (g.self == g.first || decide (g.quorum ≤ g.lives.length))
/-- The member with a DEVID. -/
def Group.memberOf (g : Group) (d : Nat) : Option Nat := firstWhere (fun j => g.dev j == d) (range' 0 g.size)
/-- Bit mask of a list of members. -/
def memberMask (l : List Nat) : BitVec 16 := BitVec.ofNat 16 (natSum (l.map (2 ^ ·)))

/-! ## The round log (R71) -/

/-- A GLOG entry that is empty. -/
def glogEmpty : Word64 := BitVec.ofNat 64 (7 * 2 ^ 61)
/-- The entry for a round's number. -/
def Group.log (g : Group) (n : Nat) : Word64 := Tab.get glogEmpty g.glog (n % 16)
/-- Whether the log holds a round. -/
def Group.logs (g : Group) (n : Nat) : Bool := fld (g.log n).toNat 61 3 != 7 && fld (g.log n).toNat 0 48 == n
/-- Writes an entry. -/
def Group.setLog (g : Group) (n state : Nat) (revoked : Bool) (c : Cause) : Group :=
  { g with glog := Tab.set glogEmpty g.glog (n % 16) (BitVec.ofNat 64 (state * 2 ^ 61 + b2n revoked * 2 ^ 59 + c.toNat * 2 ^ 52 + n)) }
/-- The current round enters an undecided state, which GROUND and its GLOG entry show (R69, R71). -/
def Group.enter (g : Group) (state : Nat) : Group := { g.setLog g.round state false 0 with state := state }
/-- The state code of a round, 0xFF for no record (R39). -/
def Group.stateOf (g : Group) (n : Nat) : Nat := if n = g.round then g.state else if g.logs n then fld (g.log n).toNat 61 3 else 255
/-- Whether a round is marked REVOKED. -/
def Group.revokedAt (g : Group) (n : Nat) : Bool := g.logs n && bit (g.log n).toNat 59

/-! ## Lines through the protection map (R78) -/

/-- The cell a protected half-line holds, where its page is VERSIONED. -/
def Group.cellAt (g : Group) (h : Nat) : Option CellAt :=
  (firstWhere (fun e : Nat × Word64 × Word64 × Nat => decide (e.1 ≤ 64 * h) && decide (64 * h < e.1 + e.2.2.2)) g.pages).map fun e =>
    ⟨64 * h, ⟨64 * h, ⟨e.2.1.toNat, e.2.2.1.toNat, e.2.2.2, 0⟩, e.1⟩⟩

/-- Content of a protected half-line. -/
def Module.lineBytes (m : Module) (g : Group) (h : Nat) : List Byte :=
  match g.cellAt h with
  | some c => (m.cell c).first
  | none => m.peek (64 * h) 64

/-- Writes a whole protected line as one step at its home, by the coding engine: the host's copy goes, a registration and poison too, and
a cell returns to one sibling (R92, R98, R257). -/
def Module.lineWrite (m : Module) (slot name : Nat) (bs : List Byte) : Module :=
  let g := m.group slot
  match g.homeOfLine name with
  | none => m
  | some h =>
    let m0 := m.register h 0
    let m1 := { m0 with mm := { m0.mm with hostHold := Tab.set HostHold.I m0.mm.hostHold h HostHold.I, poison := m0.mm.poison.filter (· != h) } }
    match g.cellAt h with
    | some c => m1.cellCollapse c (m1.cell c) bs 0 0
    | none => m1.poke (64 * h) bs

/-- The name of an entry's line. -/
def JEntry.name (e : JEntry) : Nat := lineName e.region (e.offset / 64)

/-- Writes back the pre-images of a chain (R92); lines journalled with INIT are not written. -/
def Module.restore (m : Module) (slot : Nat) (l : List JEntry) : Module :=
  l.foldl (fun m e => if e.init then m else m.lineWrite slot e.name (leBytes e.data.toNat 64)) m

/-- XORs the deltas of a chain into the parity area; a poisoned line stays so (R88, R92). -/
def Module.foldParity (m : Module) (slot : Nat) (l : List JEntry) : Module :=
  l.foldl (fun m e =>
    let g := m.group slot
    match g.homeOfLine e.name with
    | none => m
    | some h => if m.mm.poison.contains h then m else m.lineWrite slot e.name (gfAdd (m.peek (64 * h) 64) (leBytes e.data.toNat 64))) m

/-! ## Messages (R38, R39, R64) -/

/-- Sends a request of the round controller, from a source queue of the coding engines, to a member. -/
def Module.gsend (m : Module) (slot q j kind round arg : Nat) (payload : List Byte) : Nat × Module :=
  let g := m.group slot
  m.tunnel q (g.dev j) kind 0 g.gid payload .none (.group slot j kind round arg m.clk.cycle)

/-- The same request to a list of members. -/
def Module.gsendAll (m : Module) (slot kind round arg : Nat) (payload : List Byte) (l : List Nat) : Module :=
  l.foldl (fun m j => (m.gsend slot 2048 j kind round arg payload).2) m

/-- The response to a request message, to the device whose message area the request came in (R37, R38, R40), with what else it carries (log entry
22). -/
def Module.respondWith (m : Module) (q : TunnelMsg) (err poison : Bool) (aux : Nat) (payload : List Byte) (car : Carried) : Module :=
  m.post 2048 q.areaSrc.toNat q.tag.toNat (.tunnel
    { kind := q.kind ||| 0x80#8, flags := BitVec.ofNat 8 (b2n err + 2 * b2n poison), tag := q.tag &&& 0x7FFF#16, src := BitVec.ofNat 16 m.devid,
      len := BitVec.ofNat 16 payload.length, offset := q.offset, aux := BitVec.ofNat 16 aux, payload := payload,
      areaSrc := BitVec.ofNat 10 m.devid, areaRsp := true, carried := car })

/-- A response that carries no more than its message. -/
def Module.respond (m : Module) (q : TunnelMsg) (err poison : Bool) (aux : Nat) (payload : List Byte) : Module := m.respondWith q err poison aux payload .none

/-- An error response with its cause (R40). -/
def Module.refuse (m : Module) (q : TunnelMsg) (c : Cause) : Module := m.respond q true false q.aux.toNat (leBytes c.toNat 4)

/-! ## Opening (R79, R86, R88) -/

/-- The lines of a member's regions that are in force and not yet established. -/
def Group.initLines (g : Group) : List Nat :=
  ((range' 0 64).filter fun r => g.regionValid r && g.regionInit r).flatMap fun r => (range' 0 (g.regionLines r)).map (lineName r)

/-- Opens round `n`: RETAIN is latched, the written bits clear, and a data member journals each line of a region with INIT. -/
def Module.openRound (m : Module) (slot n : Nat) : Module :=
  let m1 := m.modGroup slot fun g =>
    Group.enter { g with
      round := n, retain := bit g.cfg.toNat 40, chain := [], chainB := [], written := [], noReason := none,
      lossCause := if g.degraded then g.lossCause else none, deltas := [], vote := none, voteReq := false } 0
  let g := m1.group slot
  if g.isData then
    g.initLines.foldl (fun m l =>
      match m.journalAppend slot ⟨nameRegion l, 64 * nameLine l, true, false, false, 0⟩ with
      | some m2 => m2.modGroup slot fun x => { x with written := l :: x.written }
      | none => m.modGroup slot fun x => { x with noReason := some Cause.journalFull }) (m1.journalHeader slot)
  else m1.journalHeader slot

/-! ## Applying a decision (R92) -/

/-- Clears what belongs to an undecided round. -/
def Group.settled (g : Group) : Group := { g with vote := none, voteReq := false, deltas := [], noReason := none, written := [] }

/-- The cause this member has seen in round `n`: the first NO reason, that of its own refusal to vote for a round it has not opened among them, or the
cause of a loss (R71, R92). -/
def Group.seen (g : Group) (n : Nat) : Cause :=
  if n = g.round && g.noReason.isSome then g.noReason.getD 0
  else if g.closedAt = some n then Cause.roundClosed
  else g.lossCause.getD 0

/-- COMMIT of the current round, which is PREPARED. -/
def Module.commitRound (m : Module) (slot : Nat) : Module :=
  let g := m.group slot
  let m1 := if g.isData then m else m.foldParity slot g.chain
  let m2 := m1.modGroup slot fun x =>
    { (x.setLog x.round 3 false 0).settled with
      state := 3, glast := x.round
      retained := if x.retain then some (x.round, x.chain) else none
      retB := if x.retain then x.chainB else []
      chain := [], chainB := []
      greg0 := (range' 0 64).foldl (fun t r => Tab.set 0 t r (Tab.get 0 t r &&& ~~~ (BitVec.ofNat 64 (2 ^ 62)))) x.greg0 }
  (m2.journalLinks slot).unhold slot

/-- ABORT of the current round, with the GLOG cause. The retained chain is kept. -/
def Module.abortRound (m : Module) (slot : Nat) (c : Cause) : Module :=
  let g := m.group slot
  let m1 := if g.isData then m.restore slot g.chain else m
  ((m1.modGroup slot fun x => { (x.setLog x.round 4 false c).settled with state := 4, chain := [], chainB := [] }).journalLinks slot).unhold slot

/-- A member that never opened round `n` takes it as its current round, ABORTED (R86, R92). -/
def Module.takeAborted (m : Module) (slot n : Nat) (c : Cause) : Module :=
  (m.modGroup slot fun x => { (x.setLog n 4 false c).settled with state := 4, round := n }).unhold slot

/-- Applies ABORT for round `n`. -/
def Module.abortAt (m : Module) (slot n : Nat) (c : Cause) : Module :=
  if n = (m.group slot).round then m.abortRound slot c else m.takeAborted slot n c

/-! ## Deciding (R90, R91, R94, R496) -/

/-- Records and applies a decision and sends Decide to every live member (R91). -/
def Module.decideRound (m : Module) (slot n : Nat) (commit : Bool) (c : Cause) : Module :=
  let m1 := if commit then m.commitRound slot else m.abortAt slot n c
  let m2 := m1.modGroup slot fun x => { x with vote := none }
  m2.gsendAll slot 0x12 n (b2n commit) (leBytes n 6 ++ [BitVec.ofNat 8 (b2n !commit)]) (m2.group slot).liveOthers

/-- Looks at a vote in progress: ABORT where this member has not opened the round (R92), on the first NO reason, or on a loss before a vote; COMMIT when
every member has voted YES. -/
def Module.voteCheck (m : Module) (slot : Nat) : Module :=
  let g := m.group slot
  match g.vote with
  | none => m
  | some v =>
    if !g.mayDecide then m
    else match g.noReason with
      | some c => m.decideRound slot v.round false c
      | none =>
        if v.round ≠ g.round then m.decideRound slot v.round false Cause.roundClosed
        else if (g.others.filter fun j => !g.isLive j && !v.yes.contains j) ≠ [] then m.decideRound slot v.round false (g.lossCause.getD 0)
        else if g.state = 2 && g.others.all fun j => v.yes.contains j then m.decideRound slot v.round true 0
        else m

/-- Records a NO reason of the member (R90): held Prepares are answered, and its own vote is known. -/
def Module.noVote (m : Module) (slot : Nat) (c : Cause) : Module :=
  ((m.modGroup slot fun g => g.noReasonIs c).unhold slot).voteCheck slot

/-- The member reaches PREPARED (R92). -/
def Module.reachPrepared (m : Module) (slot : Nat) : Module := ((m.modGroup slot fun x => x.enter 2).unhold slot).voteCheck slot

/-- The vote begins on the coordinator: it sends Prepare to every other member and takes its own vote as one of them (R89). A data coordinator that has
not opened the round votes NO with ROUND_CLOSED (R92); a parity coordinator in OPEN moves straight to PREPARED (R90). -/
def Module.beginVote (m : Module) (slot n : Nat) : Module :=
  let g := m.group slot
  if g.vote.isSome then m
  else
    let m1 := (m.modGroup slot fun x => { x with vote := some ⟨n, m.clk.cycle, []⟩ }).gsendAll slot 0x11 n 0 (leBytes n 6) g.others
    if n = g.round && !g.isData && g.state = 0 then m1.reachPrepared slot else m1.voteCheck slot

/-! ## Preparing (R87, R99) -/

/-- Reconciles a protected cell with several siblings (R99). -/
def Module.reconcileLine (m : Module) (slot h : Nat) (c : CellAt) : Module :=
  let x := m.cell c
  if x.sibs.length ≤ 1 then m
  else match m.cellReconcile c 0 0 0 with
    | .error e => m.noVote slot e
    | .ok _ => match m.protectIn slot h ⟨x.first, true⟩ with
      | .error e => m.noVote slot e
      | .ok m1 => match m1.cellReconcile c 0 0 0 with
        | .error e => m1.noVote slot e
        | .ok r => r.2.2

/-- Reconciles every protected cell. -/
def Module.reconcileAll (m : Module) (slot : Nat) : Module :=
  (m.group slot).pmap.foldl (fun m e => match (m.group slot).cellAt e.1 with
    | some c => m.reconcileLine slot e.1 c
    | none => m) m

/-- The delta of an entry, none where it is zero. -/
def Module.deltaOf (m : Module) (g : Group) (e : JEntry) : Option (List Byte) :=
  match g.homeOfLine e.name with
  | none => none
  | some h =>
    let new := m.lineBytes g h
    let d := if e.init then new else gfAdd (leBytes e.data.toNat 64) new
    if leNat d = 0 then none else some d

/-- A run of adjacent lines: region, first offset, bytes, and the die of its first line. -/
structure DeltaRun where
  region : Nat
  offset : Nat
  bytes : List Byte
  die : Nat
  deriving DecidableEq, Repr

/-- The deltas of a chain, lines adjacent in a region in one run, up to 127 of them (R87); lines of two dies are in two runs, since each die's engine
sends the deltas of its own lines (R65; log entry 43). -/
def deltaRuns (l : List DeltaRun) : List DeltaRun :=
  l.foldl (fun acc d => match acc.getLast? with
    | some r => if r.region = d.region && r.die = d.die && r.offset + r.bytes.length = d.offset && decide (r.bytes.length < 127 * 64) then
        acc.dropLast ++ [{ r with bytes := r.bytes ++ d.bytes }] else acc ++ [d]
    | none => acc ++ [d]) []

/-- Sends one run to every parity member, from the coding engine of its die (R65, R87). -/
def Module.sendRun (m : Module) (slot : Nat) (r : DeltaRun) : Module :=
  let g := m.group slot
  (range' 0 g.m).foldl (fun m p =>
    let payload := leBytes g.round 6 ++ leBytes g.self 1 ++ leBytes r.region 1 ++ leBytes r.offset 8 ++ gfScale (coef p g.self) r.bytes
    let (tag, m1) := m.gsend slot (2048 + r.die) (g.k + p) 0x10 g.round 0 payload
    m1.modGroup slot fun x => { x with deltas := tag :: x.deltas }) m

/-- RPREP at the round controller: a data member reconciles, sends its deltas and is PREPARED when none is outstanding; a parity member is
PREPARED at once (R87, R488). A poisoned line leaves MEM_POISON as the NO reason (R90). Where a NO reason of its own has made a coordinator
decide ABORT meanwhile, the round is over. -/
def Module.prepareRound (m : Module) (slot : Nat) : Module :=
  if !(m.group slot).isData then m.reachPrepared slot
  else
    let m0 := m.reconcileAll slot
    if (m0.group slot).state ≠ 0 || (m0.group slot).round ≠ (m.group slot).round then m0
    else
      let m1 := m0.modGroup slot fun x => x.enter 1
      let g := m1.group slot
      let bad := fun e : JEntry => match g.homeOfLine e.name with
        | some h => m1.mm.poison.contains h
        | none => false
      let m2 := if g.chain.any bad then m1.noVote slot Cause.memPoison else m1
      if (m2.group slot).state ≠ 1 then m2
      else
        let runs := deltaRuns ((g.chain.filter fun e => !bad e).filterMap fun e =>
          (m2.deltaOf g e).map fun d => ⟨e.region, e.offset, d, homeDie (64 * (g.homeOfLine e.name).getD 0)⟩)
        let m3 := runs.foldl (fun m r => m.sendRun slot r) m2
        if (m3.group slot).deltas = [] then m3.reachPrepared slot else m3

/-- The first line of the round that the host holds modified; preparing waits for its snoop. -/
def Module.prepareBlocked (m : Module) (slot : Nat) : Option Nat :=
  let g := m.group slot
  if g.state = 0 && g.isData then
    firstWhere (fun h => m.held h == .M) (g.chain.filterMap fun e => g.homeOfLine e.name)
  else none

/-! ## Loss and takeover (R93 to R96, R104) -/

/-- Undoes retained round `n` on this member (R103). -/
def Module.revokeHere (m : Module) (slot n : Nat) : Module :=
  match (m.group slot).retained with
  | none => m
  | some (_, l) =>
    let m1 := if (m.group slot).isData then m.restore slot l else m.foldParity slot l
    let m2 := m1.modGroup slot fun x =>
      let y := x.setLog n 4 true 0
      let last := (range' 0 16).foldl (fun a i =>
        let w := (Tab.get glogEmpty y.glog i).toNat
        if fld w 61 3 = 3 then Nat.max a (fld w 0 48) else a) 0
      { y with state := if n = x.round then 4 else x.state, glast := last, retained := none, retB := [] }
    m2.journalLinks slot

/-- Whether every query of a takeover has been answered by every live member. -/
def Takeover.complete (t : Takeover) (live : List Nat) : Bool :=
  (t.rounds ++ t.retained.toList).all fun n => live.all fun j => t.answers.any fun a => a.1 == j && a.2.1 == n

/-- The rounds that a takeover must decide: PREPARING or PREPARED on some member. -/
def Group.undecided (g : Group) (t : Takeover) : List Nat :=
  t.rounds.filter fun n => (n == g.round && (g.state == 1 || g.state == 2)) || t.answers.any fun a => a.2.1 == n && (a.2.2.1 == 1 || a.2.2.1 == 2)

/-- Decides one round as a successor: COMMIT where any answer or the own log gives COMMITTED, else ABORT (R95). -/
def Module.succeed (m : Module) (slot : Nat) (t : Takeover) (n : Nat) : Module :=
  let g := m.group slot
  let commit := (t.answers.any fun a => a.2.1 == n && a.2.2.1 == 3) || g.stateOf n == 3
  if g.stateOf n = 3 || (g.logs n && g.stateOf n == 4) then
    m.gsendAll slot 0x12 n (b2n commit) (leBytes n 6 ++ [BitVec.ofNat 8 (b2n !commit)]) g.liveOthers
  else if commit && (g.state != 2 || g.round != n) then m
  else m.decideRound slot n commit (g.seen n)

/-- Ends a takeover whose answers are complete, with a quorum (R94, R95, R104). -/
def Module.takeoverCheck (m : Module) (slot : Nat) : Module :=
  let g := m.group slot
  match g.takeover with
  | none => m
  | some t =>
    if !t.complete g.liveOthers || !g.mayDecide then m
    else
      let m1 := m.modGroup slot fun x => { x with takeover := none }
      let m2 := match t.retained with
        | none => m1
        | some n =>
          if g.revokedAt n || t.answers.any fun a => a.2.1 == n && a.2.2.1 == 4 && a.2.2.2 then
            let owed := (t.answers.filter fun a => a.2.1 == n && a.2.2.1 == 3).map (·.1)
            ((if g.stateOf n = 3 then m1.revokeHere slot n else m1).modGroup slot fun x => { x with revoking := some (n, owed) }).gsendAll
              slot 0x15 n 0 (leBytes n 6) owed
          else m1
      (g.undecided t).foldl (fun m n => m.succeed slot t n) m2

/-- The round that a successor asks about for the sake of a revoke: the one it retains, or the one it has itself revoked (R104). -/
def Group.revocable (g : Group) : Option Nat :=
  match g.retained with
  | some r => some r.1
  | none => if g.revokedAt g.round then some g.round else if decide (0 < g.round) && g.revokedAt (g.round - 1) then some (g.round - 1) else none

/-- Becomes coordinator after the loss of the former one: queries its view for the current round and for the retained one (R95, R104). -/
def Module.takeOver (m : Module) (slot : Nat) : Module :=
  let g := m.group slot
  let kept := g.revocable
  let m1 := m.modGroup slot fun x => { x with takeover := some ⟨[x.round], kept, []⟩ }
  let m2 := (g.round :: kept.toList.filter (· != g.round)).foldl (fun m n => m.gsendAll slot 0x13 n 1 (leBytes n 6) g.liveOthers) m1
  m2.takeoverCheck slot

/-- Ends a revoke when every member has answered. -/
def Group.revokeAck (g : Group) (j : Nat) : Group :=
  { g with revoking := g.revoking.map fun r => (r.1, r.2.filter (· != j)) }

/-- Member `j` is found lost with a cause (R93, R96, R496). -/
def Module.memberLost (m : Module) (slot j : Nat) (c : Cause) : Module :=
  let g := m.group slot
  if !g.valid || !g.isLive j || j == g.self then m
  else
    let live := memberMask (g.lives.filter (· != j))
    let g1 := { g with live := live, lossCause := if g.lossCause.isSome then g.lossCause else some c, hbWait := g.hbWait.filter (· != j) }.look.revokeAck j
    let above := decide (g1.lives.length + g1.m < g1.size)
    let m1 := m.modGroup slot fun _ => { g1 with lost := g1.lost || above }
    let m2 := if above && !g.lost then m1.siloNotice slot Cause.groupLost (leBytes g.gid 2) else m1
    let m3 := m2.voteCheck slot
    let m4 := if j = g.coord && g1.coordinates then m3.takeOver slot else m3.takeoverCheck slot
    m4

end Sys2Proof.Machine
end

