-- ==== Sys2Proof/Machine/Members.lean ====
section
/-!
DEFINITION. Members of coding groups: regions, creation, dissolution, admission, rebuild, repair, heartbeats, and the group messages of other
members: rules R66 to R80, R83, R88 to R97, R103 to R109 and R498.
-/

namespace Sys2Proof.Machine

/-! ## Regions (R76 to R79) -/

/-- The pages of a region: offset of the first byte, leaf, length; none where one is not mapped, resident and writable (R78). -/
def Module.regionPages (m : Module) (g : Group) (base lines : Nat) : Option (List (Nat × Nat × Leaf)) :=
  allSome ((pagePieces base (64 * lines)).map fun p => match walk m g.asid p.2.1 with
    | .ok l => if permits l.w0 .write false && isHbm (leafPa l.w0 l.size p.2.1) then some (leafPa l.w0 l.size p.2.1, p.2.2, l) else none
    | .error _ => none)

/-- Takes a region's lines out of the protection map, and the pages that then hold none. -/
def Group.unbind (g : Group) (r : Nat) : Group :=
  let pm := g.pmap.filter fun e => !(e.2 != 0 && nameRegion (e.2 - 1) == r)
  { g with pmap := pm, written := g.written.filter fun x => nameRegion x != r,
           pages := g.pages.filter fun p => pm.any fun e => e.2 != 0 && decide (p.1 ≤ 64 * e.1) && decide (64 * e.1 < p.1 + p.2.2.2) }

/-- Puts a region's lines into the protection map, page by page. -/
def Group.bind (g : Group) (r : Nat) (l : List (Nat × Nat × Leaf)) : Group :=
  (l.foldl (fun (a : Group × Nat) p =>
    let n := p.2.1 / 64
    let pm := (range' 0 n).foldl (fun t i => Tab.set 0 t (p.1 / 64 + i) (lineName r (a.2 + i) + 1)) a.1.pmap
    let leaf := p.2.2
    let frame := fld leaf.w0 16 36 * 2 ^ 16
    let pg := if bit leaf.w0 60 && !(a.1.pages.any fun e => e.1 == frame) then
      (frame, BitVec.ofNat 64 leaf.w0, BitVec.ofNat 64 leaf.w1, leaf.size) :: a.1.pages else a.1.pages
    ({ a.1 with pmap := pm, pages := pg }, a.2 + n)) (g, 0)).1

/-- Whether a frame that a range maps also holds a line of another valid region of any slot (R78). -/
def Module.overlaps (m : Module) (slot r : Nat) (l : List (Nat × Nat × Leaf)) : Bool :=
  (range' 0 8).any fun s =>
    let g := m.group s
    g.pmap.any fun e => e.2 != 0 && !(s == slot && nameRegion (e.2 - 1) == r) && g.regionValid (nameRegion (e.2 - 1)) &&
      l.any fun p => let frame := fld p.2.2.w0 16 36 * 2 ^ 16; decide (frame ≤ 64 * e.1) && decide (64 * e.1 < frame + p.2.2.size)

/-- Fills the parity area of a region with zeros (R78). -/
def Module.zeroArea (m : Module) (slot r : Nat) : Module :=
  (range' 0 ((m.group slot).regionLines r)).foldl (fun m l => m.lineWrite slot (lineName r l) (List.replicate 64 0)) m

/-- Sets a command's failure (R67). -/
def Group.fail (g : Group) (c : Cause) : Group := { g with err := true, errCause := c, busy := .idle }

/-- Word 0 of a region with VALID and INIT. -/
def regionWord (w : Word64) (valid init : Bool) : Word64 :=
  BitVec.ofNat 64 (b2n valid * 2 ^ 63 + b2n init * 2 ^ 62 + fld w.toNat 6 46 * 64)

/-- Writes a region's words. Setting VALID is checked, binds the protection map, sets INIT and clears a parity area; the answer tells whether it
was refused (R78, R79). -/
def Module.setRegion (m : Module) (slot r : Nat) (w0 w1 : Word64) : Option Cause × Module :=
  let put := fun (valid init : Bool) (g : Group) =>
    { g with greg0 := Tab.set 0 g.greg0 r (regionWord w0 valid init), greg1 := Tab.set 0 g.greg1 r (w1 &&& 0x3FFFFFFF) }
  if !bit w0.toNat 63 then (none, m.modGroup slot fun g => put false false (g.unbind r))
  else
    let lines := fld w1.toNat 0 30
    let bad := (some Cause.groupRegion, m)
    if lines = 0 then bad
    else match m.regionPages (m.group slot) (fld w0.toNat 6 46 * 64) lines with
      | none => bad
      | some l =>
        if m.overlaps slot r l then bad
        else
          let m1 := m.modGroup slot fun g => put true true ((g.unbind r).bind r l)
          let g := m1.group slot
          (none, if g.valid && !g.isData then m1.zeroArea slot r else m1)

/-- A write of a word of GREG by Meadow (R76 to R78): ignored while a round is undecided. A write of word 1 of a region in force, or of word 0
with VALID, sets the region afresh. -/
def Module.gregWrite (m : Module) (slot r : Nat) (second : Bool) (v : Word64) : Module :=
  let g := m.group slot
  if g.state < 3 then m
  else
    let w0 := Tab.get 0 g.greg0 r
    let w1 := Tab.get 0 g.greg1 r
    if second then
      if g.regionValid r then match m.setRegion slot r w0 v with
        | (none, m1) => m1
        | (some c, _) => m.modGroup slot fun x => { x.fail c with busy := x.busy }
      else m.modGroup slot fun x => { x with greg1 := Tab.set 0 x.greg1 r (v &&& 0x3FFFFFFF) }
    else match m.setRegion slot r v w1 with
      | (none, m1) => m1
      | (some c, _) => m.modGroup slot fun x =>
        { ((x.unbind r).fail c) with busy := x.busy, greg0 := Tab.set 0 x.greg0 r (regionWord v false false) }

/-- GREG_WRITE (R76, R78). -/
def execGregWrite (slot : BitVec 3) (region : BitVec 6) (second : Bool) (v : Word64) (s : State) : Out :=
  .next (s.on fun m => m.gregWrite slot.toNat region.toNat second v)

/-! ## Creation and dissolution (R72 to R75) -/

/-- How many members of a list share the value a field of GMEM has at `j`. -/
def Group.share (g : Group) (lo : Nat) (j : Nat) : Nat :=
  ((range' 0 g.size).filter fun i => fld (Tab.get 0 g.gmem i).toNat lo 8 == fld (Tab.get 0 g.gmem j).toNat lo 8).length

/-- Whether too many members share a power or cooling domain. -/
def Group.crowded (g : Group) : Bool := (range' 0 g.size).any fun j => decide (g.share 26 j > g.m) || decide (g.share 18 j > g.m)

/-- The local checks of CREATE (R72). -/
def Module.createCheck (m : Module) (slot : Nat) : Option Cause :=
  let g := m.group slot
  let valid := fun j => bit (Tab.get 0 g.gmem j).toNat 63
  let ids := (range' 0 g.size).map g.dev
  if g.k = 0 || decide (g.k > 14) || g.m = 0 || decide (g.m > 4) || decide (g.size > 16) then some Cause.groupConfig
  else if !((range' 0 16).all fun j => valid j == decide (j < g.size)) || !ids.Nodup then some Cause.groupConfig
  else if (g.memberOf m.devid).isNone then some Cause.groupConfig
  else if g.valid || (range' 0 8).any (fun s => s != slot && (m.group s).valid && (m.group s).gid == g.gid) then some Cause.groupConfig
  else if g.crowded then some Cause.groupPlacement
  else if g.jblocks < 2 then some Cause.journalFull
  else none

/-- The descriptor of a group: K, M, GID and every GMEM entry, on which all members must agree (R73). -/
def Group.descriptor (g : Group) : List Word64 := (g.cfg >>> 41) :: (range' 0 16).map (Tab.get 0 g.gmem)

/-- Sends the State query for round 0, with the group's descriptor, to the members that have not answered (R73, R106). -/
def Module.queryZero (m : Module) (slot : Nat) (l : List Nat) : Module :=
  let g := m.group slot
  l.foldl (fun m j => (m.tunnel 2048 (g.dev j) 0x13 0 g.gid (leBytes 0 6) { Carried.none with desc := g.descriptor }
    (.group slot j 0x13 0 0 m.clk.cycle)).2) m

/-- GCTL with CMD CREATE (R67, R72, R73). -/
def Module.create (m : Module) (slot : Nat) : Module :=
  if (m.group slot).busy ≠ .idle then m
  else match m.createCheck slot with
    | some c => m.modGroup slot fun g => g.fail c
    | none =>
      let m1 := m.modGroup slot fun g =>
        { g with err := false, errCause := 0, busy := .creating m.clk.cycle [], hbAt := m.clk.cycle, self := (g.memberOf m.devid).getD 0 }
      m1.queryZero slot (m1.group slot).others

/-- CREATE (R72). -/
def execCreate (s : State) : Out := .next (s.on fun m => m.create m.gfocus)

/-- The regions of a slot that are in force. -/
def Group.regions (g : Group) : List Nat := (range' 0 64).filter g.regionValid

/-- What a slot of a new group no longer keeps of the group that held it before: the rounds noted at passed known-answer tests (R102). -/
def Module.forgetPassed (m : Module) (slot : Nat) : Module := { m with cx := { m.cx with passed := Tab.drop (fun k => k % 8 == slot) m.cx.passed } }

/-- The group comes into force with round 0 COMMITTED (R73, R74, R76). -/
def Module.createDone (m : Module) (slot : Nat) : Module :=
  let m1 := (m.forgetPassed slot).modGroup slot fun g =>
    { g with valid := true, lost := false, fenced := false, self := (g.memberOf m.devid).getD 0, live := memberMask (range' 0 g.size), busy := .idle, state := 3, round := 0, glast := 0,
             glog := [], chain := [], chainB := [], retained := none, retB := [], written := [], spares := [], noReason := none, closedAt := none, gstage := [],
             lossCause := none, greg0 := g.regions.foldl (fun t r => Tab.set 0 t r (regionWord (Tab.get 0 t r) true true)) g.greg0 }.look
  let g := m1.group slot
  let m2 := if g.isData then m1 else g.regions.foldl (fun m r => m.zeroArea slot r) m1
  m2.journalLinks slot

/-- Every member has answered: the group comes into force, unless the slot no longer passes the checks of CREATE (R64, R72, R73). -/
def Module.createEnd (m : Module) (slot : Nat) : Module :=
  match m.createCheck slot with
  | some c => m.modGroup slot fun g => g.fail c
  | none => m.createDone slot

/-- A slot's state after DISSOLVE: the configuration, the regions and the log stay (R75). -/
def Group.dissolved (g : Group) : Group :=
  { g with valid := false, lost := false, fenced := false, degraded := false, live := 0, coord := 0, busy := .idle, chain := [], chainB := [],
           gstage := [], retained := none, retB := [], written := [], noReason := none, closedAt := none, lossCause := none, deltas := [], prepHeld := [], held := [], vote := none,
           voteReq := false, takeover := none, spares := [], revoking := none, hbWait := [] }

/-- GCTL with CMD DISSOLVE (R75). -/
def Module.dissolve (m : Module) (slot : Nat) : Module :=
  let g := m.group slot
  if g.busy ≠ .idle then m
  else if g.state = 3 || g.state = 4 || g.lost || g.fenced then m.modGroup slot fun x => { x.dissolved with err := false, errCause := 0 }
  else m.modGroup slot fun x => x.fail Cause.roundClosed

/-- DISSOLVE (R75). -/
def execDissolve (s : State) : Out := .next (s.on fun m => m.dissolve m.gfocus)

/-- CREATE_TIMEOUT: GTLIM has passed since CREATE (R73). -/
def execCreateTimeout (s : State) : Out :=
  .next (s.on fun m => m.modGroup m.gfocus fun g => match g.busy with
    | .creating start _ => if start + g.gtlim ≤ m.clk.cycle then g.fail Cause.roundTimeout else g
    | _ => g)

/-! ## Admission (R106, R498) -/

/-- GCTL with CMD ADMIT and RIDX t: on a survivor the spare takes the place of member t, with GMEM t as it has been written (R70); on the spare,
admission starts (R106). A group that is LOST refuses it with GROUP_CONFIG (R96; log entry 43). -/
def Module.admitMember (m : Module) (slot t : Nat) : Module :=
  let g := m.group slot
  if g.busy ≠ .idle then m
  else
    let bad := fun c => m.modGroup slot fun x => x.fail c
    if g.valid then
      let w := (Tab.get none g.gstage t).getD (Tab.get 0 g.gmem t)
      let g1 := { g with gmem := Tab.set 0 g.gmem t w }
      if g.lost || decide (t ≥ g.size) || g.isLive t || (range' 0 g.size).any fun j => j != t && g.dev j == fld w.toNat 0 10 then bad Cause.groupConfig
      else if g1.crowded then bad Cause.groupPlacement
      else if g.state < 3 then bad Cause.roundClosed
      else m.modGroup slot fun _ =>
        { g1 with spares := if g.spares.contains t then g.spares else t :: g.spares, err := false, errCause := 0, gstage := Tab.set none g.gstage t none }
    else match m.createCheck slot with
      | some c => bad c
      | none =>
        if t ≥ g.size || g.dev t != m.devid then bad Cause.groupConfig
        else
          let m1 := m.modGroup slot fun x => { x with err := false, errCause := 0, busy := .admitting t m.clk.cycle [], self := t }
          m1.queryZero slot (m1.group slot).others

/-- ADMIT (R106). -/
def execAdmit (slot : BitVec 3) (ridx : BitVec 4) (s : State) : Out := .next (s.on fun m => m.admitMember slot.toNat ridx.toNat)

/-- ADMIT_TIMEOUT: GTLIM has passed since ADMIT on the spare (R106). -/
def execAdmitTimeout (s : State) : Out :=
  .next (s.on fun m => m.modGroup m.gfocus fun g => match g.busy with
    | .admitting _ start _ => if start + g.gtlim ≤ m.clk.cycle then g.fail Cause.roundTimeout else g
    | _ => g)

/-- Chunks of a region of `n` lines: offsets and lengths in bytes, 127 lines each. -/
def regionChunks (r n : Nat) : List (Nat × Nat × Nat) :=
  (range' 0 ((n + 126) / 127)).map fun i => (r, 127 * 64 * i, 64 * Nat.min 127 (n - 127 * i))

/-- The source set: the k live members with the lowest indices, other than this one (R106); none where there are not so many. -/
def Group.sources (g : Group) : Option (List Nat) := let l := g.liveOthers.take g.k; if l.length = g.k then some l else none

/-- Asks every source for the oldest open chunk. -/
def Module.askShares (m : Module) (slot : Nat) : Module :=
  match (m.group slot).busy with
  | .rebuilding r => match r.open_ with
    | (reg, off, n) :: _ =>
      m.gsendAll slot 0x14 r.round (reg * 2 ^ 36 + off) (leBytes r.round 6 ++ [BitVec.ofNat 8 reg, 0] ++ leBytes off 8 ++ leBytes n 4) r.sources
    | [] => m
  | _ => m

/-- The group is lost in this module's view (R96). -/
def Module.groupIsLost (m : Module) (slot : Nat) : Module :=
  if (m.group slot).lost then m
  else (m.modGroup slot fun x => { x with lost := true, busy := .idle }).siloNotice slot Cause.groupLost (leBytes (m.group slot).gid 2)

/-- Rebuild is finished: the spare is live, and Silo posts REBUILD_DONE (R106 step 5). -/
def Module.rebuildDone (m : Module) (slot : Nat) : Module :=
  (m.modGroup slot fun x => { x with busy := .idle, live := memberMask (x.self :: x.lives), retained := none, retB := [] }.look).siloNotice slot Cause.rebuildDone
    (leBytes (m.group slot).gid 2)

/-- A region with no open chunk is established (R106 step 4). -/
def Group.establish (g : Group) (open_ : List (Nat × Nat × Nat)) : Group :=
  { g with greg0 := g.regions.foldl (fun t r => if open_.any fun e => e.1 == r then t else Tab.set 0 t r (regionWord (Tab.get 0 t r) true false)) g.greg0 }

/-- Starts or resumes a rebuild with the source set that the view now gives. -/
def Module.startRebuild (m : Module) (slot t c : Nat) (open_ : List (Nat × Nat × Nat)) : Module :=
  match (m.group slot).sources with
  | none => m.groupIsLost slot
  | some s =>
    let m1 := m.modGroup slot fun x => { x.establish open_ with busy := .rebuilding ⟨t, c, s, open_, []⟩ }
    if open_ = [] then m1.rebuildDone slot else m1.askShares slot

/-- Looks at the answers of an admission: every other member has answered or has not responded at all, and all answers give one and the same
last committed round (R106 step 3). The current round and its state are the coordinator's (R498). -/
def Module.admitCheck (m : Module) (slot : Nat) : Module :=
  let g := m.group slot
  match g.busy with
  | .admitting t _ l =>
    let alive := l.filter fun a : Nat × Nat × Nat × Nat => a.2.2.2 != 255
    if !(g.others.all fun j => l.any fun a => a.1 == j) || alive = [] || !(alive.all fun a => a.2.1 == ((alive.head?.map (·.2.1)).getD 0)) then m
    else
      let c := (alive.head?.map (·.2.1)).getD 0
      let co := g.lowest (alive.map (·.1))
      let a := (firstWhere (fun a : Nat × Nat × Nat × Nat => a.1 == co) alive).getD (0, 0, 0, 3)
      let bad := if t ≥ g.size || g.dev t != m.devid then some Cause.groupConfig else m.createCheck slot
      if bad.isSome then m.modGroup slot fun x => x.fail (bad.getD 0)
      else
      let m1 := (m.forgetPassed slot).modGroup slot fun x =>
        { x with valid := true, lost := false, fenced := false, live := memberMask (alive.map Prod.fst), round := a.2.2.1, state := a.2.2.2, glast := c,
                 glog := [], chain := [], chainB := [], retained := none, retB := [], written := [], spares := [], gstage := [],
                 noReason := none, closedAt := none, lossCause := none }.look
      (m1.journalLinks slot).startRebuild slot t c ((m1.group slot).regions.flatMap fun r => regionChunks r ((m1.group slot).regionLines r))
  | _ => m

/-- A rebuild or repair fails with a cause: a rebuild leaves the slot as after DISSOLVE (R105, R106). -/
def Module.shareFail (m : Module) (slot : Nat) (c : Cause) : Module :=
  match (m.group slot).busy with
  | .rebuilding _ => m.modGroup slot fun x => x.dissolved.fail c
  | .repairing _ _ _ _ => m.modGroup slot fun x => x.fail c
  | _ => m

/-- Writes the lines of a chunk through the protection map. -/
def Module.writeChunk (m : Module) (slot reg off : Nat) (bs : List Byte) : Module :=
  (range' 0 (bs.length / 64)).foldl (fun m i => m.lineWrite slot (lineName reg (off / 64 + i)) ((bs.drop (64 * i)).take 64)) m

/-- A share has arrived: with all k of a chunk it is decoded and written (R106, R107). -/
def Module.shareArrived (m : Module) (slot j arg : Nat) (bs : List Byte) : Module :=
  let g := m.group slot
  match g.busy with
  | .rebuilding r =>
    match r.open_ with
    | (reg, off, n) :: rest =>
      if arg ≠ reg * 2 ^ 36 + off || !r.sources.contains j || r.shares.any (fun e => e.1 == j) then m
      else
        let sh := r.shares ++ [(j, reg, off, bs)]
        if sh.length < g.k then m.modGroup slot fun x => { x with busy := .rebuilding { r with shares := sh } }
        else
          let parts := r.sources.map fun i => ((firstWhere (fun e : Nat × Nat × Nat × List Byte => e.1 == i) sh).map (·.2.2.2)).getD []
          let m1 := m.writeChunk slot reg off (decodeChunk g.k r.sources r.target n parts)
          let m2 := m1.modGroup slot fun x => { x.establish rest with busy := .rebuilding { r with open_ := rest, shares := [] } }
          if rest = [] then m2.rebuildDone slot else m2.askShares slot
    | [] => m
  | .repairing reg line s sh =>
    if arg ≠ reg * 2 ^ 36 + 64 * line || !s.contains j || sh.any fun e => e.1 == j then m
    else
      let sh1 := sh ++ [(j, bs)]
      if sh1.length < g.k then m.modGroup slot fun x => { x with busy := .repairing reg line s sh1 }
      else
        let parts := s.map fun i => ((firstWhere (fun e : Nat × List Byte => e.1 == i) sh1).map (·.2)).getD []
        let out := decodeChunk g.k s g.self 64 parts
        let done := fun x : Group => { x with busy := .idle }
        if g.isData && g.chain.any fun e => e.name == lineName reg line then
          let chain := g.chain.map fun e => if e.name = lineName reg line then { e with data := BitVec.ofNat 512 (leNat out), poison := false } else e
          let m1 := m.modGroup slot fun x => { done x with chain := chain }
          (range' 0 chain.length).foldl (fun m i => if ((nth? i chain).map JEntry.name) = some (lineName reg line) then m.journalEntry slot i else m) m1
        else (m.modGroup slot done).lineWrite slot (lineName reg line) out
  | _ => m

/-! ## Loss, with what runs on this member (R93, R106) -/

/-- A member is lost: as `memberLost`, and a rebuild that used it forms a new source set; a repair that used it fails. -/
def Module.loseMember (m : Module) (slot j : Nat) (c : Cause) : Module :=
  let m1 := m.memberLost slot j c
  match (m1.group slot).busy with
  | .rebuilding r => if r.sources.contains j then m1.startRebuild slot r.target r.round r.open_ else m1
  | .repairing _ _ s _ => if s.contains j then m1.shareFail slot c else m1
  | _ => m1

/-- A member that has been answered GROUP_FENCED is fenced, and takes the sender for lost (R93). -/
def Module.fencedBy (m : Module) (slot j : Nat) : Module :=
  (m.modGroup slot fun x => { x with fenced := true }).loseMember slot j Cause.groupFenced

/-- A live spare enters the view; after a rebuild nothing is retained (R104, R106 step 5). -/
def Group.enliven (g : Group) (j : Nat) : Group :=
  let g1 := { g with live := memberMask (j :: g.lives), spares := g.spares.filter (· != j), retained := none, retB := [] }.look
  { g1 with lossCause := if g1.degraded then g1.lossCause else none }

/-! ## Repair (R105) -/

/-- GREPAIR with GO (R105): ignored while a command or repair runs. A slot not in force refuses it with GROUP_CONFIG, a degraded group with
GROUP_DEGRADED, a line that no region has with GROUP_REGION (log entry 43). -/
def Module.lineRepair (m : Module) (slot reg line : Nat) : Module :=
  let g := m.group slot
  if g.busy ≠ .idle then m
  else if !g.valid then m.modGroup slot fun x => x.fail Cause.groupConfig
  else if g.degraded then m.modGroup slot fun x => x.fail Cause.groupDegraded
  else if !g.regionValid reg || decide (line ≥ g.regionLines reg) then m.modGroup slot fun x => x.fail Cause.groupRegion
  else match g.sources with
    | none => m.modGroup slot fun x => x.fail Cause.groupDegraded
    | some s =>
      (m.modGroup slot fun x => { x with err := false, errCause := 0, busy := .repairing reg line s [] }).gsendAll slot 0x14 g.glast
        (reg * 2 ^ 36 + 64 * line) (leBytes g.glast 6 ++ [BitVec.ofNat 8 reg, 0] ++ leBytes (64 * line) 8 ++ leBytes 64 4) s

/-- LINE_REPAIR (R105). -/
def execLineRepair (slot : BitVec 3) (region : BitVec 6) (line : BitVec 30) (s : State) : Out :=
  .next (s.on fun m => m.lineRepair slot.toNat region.toNat line.toNat)

/-! ## Messages of other members -/

/-- The slot and the sender's index of a group message, or the error it draws: a query of CREATE or ADMIT whose descriptor is not this member's is no query
of its group (R64, R73, R93; log entry 43). -/
def Module.groupGate (m : Module) (q : TunnelMsg) : Except Cause (Nat × Nat) :=
  let inForce := fun s => let g := m.group s
    (g.valid || match g.busy with
      | .creating _ _ => true
      | .admitting _ _ _ => true
      | _ => false) && g.gid == q.aux.toNat
  match firstWhere inForce (range' 0 8) with
  | none => .error Cause.groupConfig
  | some s =>
    let g := m.group s
    match g.memberOf (fld q.src.toNat 0 10) with
    | none => .error Cause.groupConfig
    | some j =>
      if g.valid && !g.isLive j && !g.spares.contains j then .error Cause.groupFenced
      else if q.carried.desc != [] && q.carried.desc != g.descriptor then .error Cause.groupConfig
      else .ok (s, j)

/-- Length of a message's payload that its kind gives (R39); none for a kind not assigned. -/
def kindLen (q : TunnelMsg) : Option Nat :=
  let p := q.payload
  let n := q.payload.length
  match q.kind.toNat with
  | 0x01 => some 0
  | 0x02 => some 72
  | 0x03 => some 0
  | 0x04 => match skOf q.aux.toNat with
    | some k => some (skSize k)
    | none => some n
  | 0x05 => some (16 + 4 * leNat ((p.drop 8).take 2))
  | 0x10 => if n % 64 = 16 && decide (80 ≤ n) && decide (n ≤ 16 + 127 * 64) then some n else some 80
  | 0x11 => some 6 | 0x12 => some 7 | 0x13 => some 6 | 0x14 => some 20 | 0x15 => some 6 | 0x16 => some 6
  | _ => none

/-- Whether a request message draws REMOTE_KIND (R40): an unassigned kind, a reserved bit, an illegal AUX, a length that disagrees, a misaligned
OFFSET, or a message area that disagrees with its header. -/
def badMessage (q : TunnelMsg) : Bool :=
  let k := q.kind.toNat
  let o := q.offset.toNat
  let kindBad := match kindLen q with
    | none => true
    | some n => q.payload.length != n
  let auxBad := match k with
    | 0x01 => q.aux != 0
    | 0x02 => q.aux != 0
    | 0x03 => decide (q.aux.toNat ≥ 16)
    | 0x04 => (skOf q.aux.toNat).isNone
    | 0x05 => q.aux != 0 || leNat ((q.payload.drop 8).take 2) == 0 || decide (leNat ((q.payload.drop 8).take 2) > 240)
    | _ => false
  let offBad := match k with
    | 0x01 => o % 64 != 0
    | 0x02 => o % 64 != 0
    | 0x03 => o % 64 != 0
    | 0x04 => o % 64 != 0
    | 0x05 => o % 16 != 0
    | 0x10 => o != 0 || leNat ((q.payload.drop 8).take 8) % 64 != 0
    | _ => o != 0
  kindBad || auxBad || offBad || q.len.toNat != q.payload.length || fld q.flags.toNat 2 6 != 0 || bit q.flags.toNat 0 || bit q.tag.toNat 15 ||
    fld q.src.toNat 10 6 != 0 || fld q.src.toNat 0 10 != q.areaSrc.toNat || q.areaRsp || bit k 7

/-- Serves a request message of a kind, once its form and its group are good; nothing while the stations carry no traffic (R31). -/
def Module.groupMsg (m : Module) (kind : Nat) (q : TunnelMsg) (body : Nat → Nat → Module) : Module :=
  if q.kind.toNat ≠ kind || !m.carries then m
  else if badMessage q then m.refuse q Cause.remoteKind
  else match m.groupGate q with
    | .error c => m.refuse q c
    | .ok (slot, j) => body slot j

/-- Acknowledges a group message. -/
def Module.ack (m : Module) (q : TunnelMsg) : Module := m.respond q false false q.aux.toNat []

/-- The round number of a group message. -/
def msgRound (q : TunnelMsg) : Nat := leNat (q.payload.take 6)

/-- Keeps a message unanswered until the decision of the current round has been applied (R92). -/
def Module.holdMsg (m : Module) (slot : Nat) (q : TunnelMsg) : Module := m.modGroup slot fun x => { x with held := x.held ++ [q] }

/-- XORs the deltas of a message into the journal entries of the round (R88); without a free block the content is dropped (R85). -/
def Module.takeDelta (m : Module) (slot : Nat) (q : TunnelMsg) : Module :=
  let reg := leNat ((q.payload.drop 7).take 1)
  let off := leNat ((q.payload.drop 8).take 8)
  let ls := chunked 64 128 (q.payload.drop 16)
  ((range' 0 ls.length).zip ls).foldl (fun m e =>
    let o := off + 64 * e.1
    let d := BitVec.ofNat 512 (leNat e.2)
    let g := m.group slot
    let bad := bit q.flags.toNat 1
    let m1 := match firstWhere (fun i => ((nth? i g.chain).map JEntry.name) == some (lineName reg (o / 64))) (range' 0 g.chain.length) with
      | some i => (m.modGroup slot fun x => { x with chain := modifyAt (fun y => { y with data := y.data ^^^ d, poison := y.poison || bad }) i x.chain }).journalEntry slot i
      | none => match m.journalAppend slot ⟨reg, o, false, false, bad, d⟩ with
        | some m1 => m1
        | none => m.noVote slot Cause.journalFull
    if bad then m1.noVote slot Cause.memPoison else m1) m

/-- ROUND_DELTA (R86, R88, R92): only a parity member with the region takes deltas. -/
def Module.onDelta (m : Module) (slot : Nat) (q : TunnelMsg) : Module :=
  let g := m.group slot
  let n := (msgRound q)
  let reg := leNat ((q.payload.drop 7).take 1)
  let off := leNat ((q.payload.drop 8).take 8)
  if g.valid && n == g.round + 1 && g.state == 2 then m.holdMsg slot q
  else if !g.valid || g.isData || decide (reg ≥ 64) || !g.regionValid reg || decide (off + (q.payload.length - 16) > 64 * g.regionLines reg) then
    m.refuse q Cause.groupRegion
  else if n = g.round && (g.state = 0 || g.state = 2) then (m.takeDelta slot q).ack q
  else if n = g.round + 1 && (g.state = 3 || g.state = 4) then ((m.openRound slot n).takeDelta slot q).ack q
  else m.refuse q Cause.roundClosed

/-- ROUND_DELTA (R88). -/
def execRoundDelta (q : TunnelMsg) (s : State) : Out := .next (s.on fun m => m.groupMsg 0x10 q fun slot _ => m.onDelta slot q)

/-- Answers Prepare with a vote (R90). -/
def Module.vote (m : Module) (q : TunnelMsg) (no : Option Cause) : Module :=
  m.respond q false false q.aux.toNat ([BitVec.ofNat 8 (b2n no.isSome), 0, 0, 0] ++ leBytes ((no.map (·.toNat)).getD 0) 4)

/-- Whether a spare's rebuild is still running (R106). -/
def Group.rebuilding (g : Group) : Bool := match g.busy with
  | .rebuilding _ => true
  | _ => false

/-- Whether a spare is still being admitted (R106). -/
def Group.admitting (g : Group) : Bool := match g.busy with
  | .admitting _ _ _ => true
  | _ => false

/-- A data member that has not opened round `n` votes NO with ROUND_CLOSED, and has seen that cause in it (R71, R90, R92). -/
def Module.voteClosed (m : Module) (slot n : Nat) (q : TunnelMsg) : Module :=
  (m.modGroup slot fun x => { x with closedAt := some n }).vote q (some Cause.roundClosed)

/-- PREPARE by the state table (R90, R92). -/
def Module.onPrepare (m : Module) (slot : Nat) (q : TunnelMsg) : Module :=
  let g := m.group slot
  let n := (msgRound q)
  if g.rebuilding || g.admitting then m.vote q (some Cause.groupDegraded)
  else if !g.valid then m.refuse q Cause.roundClosed
  else if n = g.round then
    if g.state = 3 || g.state = 4 then m.refuse q Cause.roundClosed
    else if g.state = 0 && !g.isData then (m.reachPrepared slot).vote q g.noReason
    else if g.noReason.isSome then m.vote q g.noReason
    else if g.state = 2 then m.vote q none
    else m.modGroup slot fun x => { x with prepHeld := x.prepHeld ++ [q] }
  else if n = g.round + 1 && g.state = 2 then m.holdMsg slot q
  else if n > g.round && (g.state = 3 || g.state = 4) then
    if g.isData then m.voteClosed slot n q
    else if n = g.round + 1 then ((m.openRound slot n).reachPrepared slot).vote q none
    else m.refuse q Cause.roundClosed
  else m.refuse q Cause.roundClosed

/-- PREPARE (R90). -/
def execPrepare (q : TunnelMsg) (s : State) : Out := .next (s.on fun m => m.groupMsg 0x11 q fun slot _ => m.onPrepare slot q)

/-- DECIDE by the state table (R92). -/
def Module.onDecide (m : Module) (slot : Nat) (q : TunnelMsg) : Module :=
  let g := m.group slot
  let n := (msgRound q)
  let abort := leNat ((q.payload.drop 6).take 1) == 1
  if !g.valid then m.refuse q Cause.roundClosed
  else if n = g.round && g.state < 3 then
    if abort then (m.abortRound slot (g.seen n)).ack q
    else if g.state = 2 then (m.commitRound slot).ack q
    else m.refuse q Cause.roundClosed
  else if g.stateOf n = (if abort then 4 else 3) then m.ack q
  else if n = g.round + 1 && abort && (g.state = 3 || g.state = 4) then (m.takeAborted slot n (g.seen n)).ack q
  else m.refuse q Cause.roundClosed

/-- DECIDE (R92). -/
def execDecide (q : TunnelMsg) (s : State) : Out := .next (s.on fun m => m.groupMsg 0x12 q fun slot _ => m.onDecide slot q)

/-- What a slot answers a State query: in creation or admission that of a new group (R73). -/
def Group.asQueried (g : Group) : Group := if g.valid then g else { g with state := 3, round := 0, glast := 0, glog := [] }

/-- STATE_QUERY (R39, R73). A query of an admitted spare that is no query of admission is a heartbeat, and shows that its rebuild is done (R106 step
5). -/
def Module.onQuery (m : Module) (slot j : Nat) (q : TunnelMsg) : Module :=
  let g := m.group slot
  let n := (msgRound q)
  let m1 := if g.valid && g.spares.contains j && q.carried.desc == [] then (m.modGroup slot fun x => x.enliven j).journalLinks slot else m
  let a := g.asQueried
  m1.respond q false false q.aux.toNat (leBytes a.glast 6 ++ [BitVec.ofNat 8 (a.stateOf n), BitVec.ofNat 8 (b2n (a.revokedAt n))] ++
    leBytes a.round 6 ++ [BitVec.ofNat 8 a.state, 0])

/-- STATE_QUERY (R39). -/
def execStateQuery (q : TunnelMsg) (s : State) : Out := .next (s.on fun m => m.groupMsg 0x13 q fun slot j => m.onQuery slot j q)

/-- Committed content of a line: the journal's pre-image where the current round has journalled it, else memory or the parity area; and whether
it is poisoned (R105). -/
def Module.committed (m : Module) (g : Group) (name : Nat) : List Byte × Bool :=
  match (if g.isData then firstWhere (fun e : JEntry => e.name == name) g.chain else none) with
  | some e => (leBytes e.data.toNat 64, false)
  | none => match g.homeOfLine name with
    | some h => (m.lineBytes g h, m.mm.poison.contains h)
    | none => (List.replicate 64 0, false)

/-- SHARE_REQUEST (R105, R106). -/
def Module.onShare (m : Module) (slot : Nat) (q : TunnelMsg) : Module :=
  let g := m.group slot
  let reg := leNat ((q.payload.drop 6).take 1)
  let off := leNat ((q.payload.drop 8).take 8)
  let n := leNat ((q.payload.drop 16).take 4)
  if !g.valid || (msgRound q) != g.glast then m.refuse q Cause.roundClosed
  else if reg ≥ 64 || !g.regionValid reg || decide (n > 8160) || decide (off + n > 64 * g.regionLines reg) then m.refuse q Cause.groupRegion
  else
    let first := off / 64
    let ls := (range' first ((off + n + 63) / 64 - first)).map fun l => m.committed g (lineName reg l)
    let bs := ((ls.flatMap (·.1)).drop (off - 64 * first)).take n
    m.respond q false (ls.any (·.2)) q.aux.toNat (leBytes off 8 ++ bs)

/-- SHARE_REQUEST (R105). -/
def execShareRequest (q : TunnelMsg) (s : State) : Out := .next (s.on fun m => m.groupMsg 0x14 q fun slot _ => m.onShare slot q)

/-- REVOKE (R103, R104): a repeat is acknowledged. A member that is in round n+1, undecided, first aborts it: the coordinator has decided it ABORT or has not
opened it (log entry 43). -/
def Module.onRevoke (m : Module) (slot : Nat) (q : TunnelMsg) : Module :=
  let g := m.group slot
  let n := (msgRound q)
  if g.valid && g.revokedAt n then m.ack q
  else if g.valid && (g.retained.map (·.1)) == some n then
    let m1 := if g.state < 3 then m.abortRound slot (g.seen g.round) else m
    (m1.revokeHere slot n).ack q
  else m.refuse q Cause.roundClosed

/-- REVOKE (R103). -/
def execRevoke (q : TunnelMsg) (s : State) : Out := .next (s.on fun m => m.groupMsg 0x15 q fun slot _ => m.onRevoke slot q)

/-- VOTE_REQUEST (R89). -/
def Module.onVoteRequest (m : Module) (slot : Nat) (q : TunnelMsg) : Module :=
  let g := m.group slot
  let n := (msgRound q)
  if !g.valid || !g.coordinates then m.refuse q Cause.roundClosed
  else if n = g.round && g.state < 3 then (m.beginVote slot n).ack q
  else if n = g.round + 1 && 3 ≤ g.state then
    if g.isData then (m.beginVote slot n).ack q else (((m.openRound slot n).prepareRound slot).beginVote slot n).ack q
  else if n = g.round || g.logs n then m.ack q
  else m.refuse q Cause.roundClosed

/-- VOTE_REQUEST (R89). -/
def execVoteRequest (q : TunnelMsg) (s : State) : Out := .next (s.on fun m => m.groupMsg 0x16 q fun slot _ => m.onVoteRequest slot q)

/-! ## Responses (R91 to R95, R106) -/

/-- A member answers a State query without error. -/
def Module.queryAnswer (m : Module) (slot j round arg : Nat) (p : List Byte) : Module :=
  let g := m.group slot
  let last := leNat (p.take 6)
  let st := leNat ((p.drop 6).take 1)
  let rv := bit (leNat ((p.drop 7).take 1)) 0
  let cr := leNat ((p.drop 8).take 6)
  let cs := leNat ((p.drop 14).take 1)
  match g.busy with
  | .creating start l =>
    let l1 := if last = 0 && !l.contains j then j :: l else l
    let m1 := m.modGroup slot fun x => { x with busy := .creating start l1 }
    if l1.length = g.size - 1 then m1.createEnd slot else m1
  | .admitting t start l =>
    (m.modGroup slot fun x => { x with busy := .admitting t start ((j, last, cr, cs) :: l.filter fun a => a.1 != j) }).admitCheck slot
  | _ =>
    if arg = 1 then
      match g.takeover with
      | none => m
      | some t =>
        let t1 := { t with answers := (j, round, st, rv) :: t.answers }
        if (cs = 1 || cs = 2) && !t1.rounds.contains cr then
          (m.modGroup slot fun x => { x with takeover := some { t1 with rounds := t1.rounds ++ [cr] } }).gsendAll slot 0x13 cr 1 (leBytes cr 6) g.liveOthers
        else (m.modGroup slot fun x => { x with takeover := some t1 }).takeoverCheck slot
    else m.modGroup slot fun x => { x with hbWait := x.hbWait.filter (· != j) }

/-- A vote arrives at the coordinator (R90, R91). -/
def Module.voteArrived (m : Module) (slot j round : Nat) (no : Option Cause) : Module :=
  match (m.group slot).vote with
  | none => m
  | some v =>
    if v.round ≠ round then m
    else match no with
      | some c => if (m.group slot).mayDecide then m.decideRound slot round false c else m
      | none => (m.modGroup slot fun x => { x with vote := some { v with yes := if v.yes.contains j then v.yes else j :: v.yes } }).voteCheck slot

/-- The response to a message of the round controller. `tag` is the message's tag. A delta that draws an error leaves its cause as the NO reason (R90), and
any error but those of R92 is a loss of the member (R93). -/
def Module.groupAnswer (m : Module) (slot j kind round arg tag : Nat) (q : TunnelMsg) : Module :=
  let g := m.group slot
  let starting := match g.busy with
    | .creating _ _ => true
    | .admitting _ _ _ => true
    | _ => false
  if bit q.flags.toNat 0 then
    let c : Cause := BitVec.ofNat 7 (leNat (q.payload.take 4))
    if starting then m
    else if kind = 0x10 then
      let m1 := m.noVote slot c
      if c = Cause.groupFenced then m1.fencedBy slot j
      else if c = Cause.roundClosed || c = Cause.groupRegion then m1
      else m1.loseMember slot j c
    else if c = Cause.groupFenced then m.fencedBy slot j
    else if c = Cause.roundClosed || c = Cause.groupRegion then
      if kind = 0x11 then m.voteArrived slot j round (some c)
      else if kind = 0x14 then m.shareFail slot c
      else if kind = 0x15 then m.modGroup slot fun x => x.revokeAck j
      else m
    else m.loseMember slot j c
  else match kind with
    | 0x10 =>
      let m1 := m.modGroup slot fun x => { x with deltas := x.deltas.filter (· != tag) }
      if g.state = 1 && g.round = round && (m1.group slot).deltas = [] then m1.reachPrepared slot else m1
    | 0x11 =>
      m.voteArrived slot j round (if leNat (q.payload.take 1) = 0 then none else some (BitVec.ofNat 7 (leNat ((q.payload.drop 4).take 4))))
    | 0x13 => m.queryAnswer slot j round arg q.payload
    | 0x14 => if bit q.flags.toNat 1 then m.shareFail slot Cause.memPoison else m.shareArrived slot j arg (q.payload.drop 8)
    | 0x15 => m.modGroup slot fun x => x.revokeAck j
    | _ => m

/-- A message of the round controller has had no response within DEVFRLIM (R36, R93). -/
def Module.groupTimeout (m : Module) (slot j kind : Nat) : Module :=
  match (m.group slot).busy, kind with
  | .creating _ _, _ => m
  | .admitting t start l, 0x13 => (m.modGroup slot fun x => { x with busy := .admitting t start ((j, 0, 0, 255) :: l.filter fun a => a.1 != j) }).admitCheck slot
  | _, _ => m.loseMember slot j Cause.remoteTimeout

/-! ## Heartbeat and limits -/

/-- Cycles of a heartbeat period (R68). -/
def Group.period (g : Group) : Nat := Nat.max 1 (fld g.cfg.toNat 32 8) * 16384

/-- Whether a heartbeat of a slot is due: a slot in force or in creation sends queries every period (R73, R93). -/
def Module.heartbeatDue (m : Module) (slot : Nat) : Bool :=
  let g := m.group slot
  let on := match g.busy with
    | .creating _ _ | .admitting _ _ _ => true
    | _ => g.valid && !g.lost && !g.fenced && !g.rebuilding
  on && decide (g.hbAt + g.period ≤ m.clk.cycle)

/-- HEARTBEAT of a slot (R73, R89, R93, R106): queries not answered show a loss; new queries go out, and an open Vote request is repeated. -/
def Module.beat (m : Module) (slot : Nat) : Module :=
  let g := m.group slot
  match g.busy with
  | .creating _ l => m.queryZero slot (g.others.filter fun j => !l.contains j)
  | .admitting _ _ l => m.queryZero slot (g.others.filter fun j => !(l.any fun a => a.1 == j && a.2.2.2 != 255))
  | _ =>
    if !g.valid || g.lost || g.fenced || g.rebuilding then m
    else
      let m1 := g.hbWait.foldl (fun m j => m.loseMember slot j Cause.remoteTimeout) m
      let live := (m1.group slot).liveOthers
      let m2 := (m1.modGroup slot fun x => { x with hbWait := live }).gsendAll slot 0x13 (m1.group slot).round 0 (leBytes (m1.group slot).round 6) live
      let g2 := m2.group slot
      if g2.voteReq && !g2.coordinates then (m2.gsend slot 2048 g2.coord 0x16 g2.round 0 (leBytes g2.round 6)).2
      else if g2.voteReq && g2.state < 3 && g2.takeover.isNone then m2.beginVote slot g2.round
      else m2

/-- HEARTBEAT of a slot, with the cycle at which it was. -/
def Module.heartbeat (m : Module) (slot : Nat) : Module := (m.modGroup slot fun g => { g with hbAt := m.clk.cycle }).beat slot

/-- HEARTBEAT (R93). -/
def execHeartbeat (s : State) : Out := .next (s.on fun m => m.heartbeat m.gfocus)

/-- VOTE_TIMEOUT: votes are missing GTLIM after Prepare; a NO reason of the coordinator, or the cause of a loss, comes first (R91). -/
def Module.voteTimeout (m : Module) (slot : Nat) : Module :=
  let g := m.group slot
  match g.vote with
  | none => m
  | some v =>
    if g.noReason.isSome then m.voteCheck slot
    else if v.start + g.gtlim ≤ m.clk.cycle && g.mayDecide then m.decideRound slot v.round false (g.lossCause.getD Cause.roundTimeout)
    else m

/-- VOTE_TIMEOUT (R91). -/
def execVoteTimeout (s : State) : Out := .next (s.on fun m => m.voteTimeout m.gfocus)

end Sys2Proof.Machine
end

