-- ==== Sys2Proof/Machine/RoundOps.lean ====
section
/-!
DEFINITION. The round instructions, ROUND_ANSWER and RCMT_TIMEOUT, and what the replay record keeps of them: rules R101, R126 and R486 to R491.
-/

namespace Sys2Proof.Machine

/-! ## Launches and the replay record (R126) -/

/-- Changes a taken launch. -/
def Module.modLaunch (m : Module) (id : Nat) (f : Launch → Launch) : Module :=
  { m with lu := { m.lu with launches := m.lu.launches.map fun l => if l.id = id then f l else l } }

/-- Adds `n` bytes to a queue's replay record, or gives the stretch up where the record would exceed SIZE (R126). -/
def Queue.keep (q : Queue) (n : Nat) (f : Replay → Replay) : Queue :=
  let size := fld q.rpl.toNat 56 8
  if size = 0 || q.noreplay then q
  else if q.record.bytes + n > size * 2 ^ 20 then { q with noreplay := true }
  else { q with record := f { q.record with bytes := q.record.bytes + n } }

/-- The name of a thread in a replay record: its launch's entry and its TID. -/
def Module.threadKey (m : Module) (cx : Nat) : Nat :=
  let t := m.ctx cx
  (((m.launchOf t.launch).map (·.entry.toNat)).getD 0) * 1024 + fld t.csr.tid.toNat 0 10

/-- The recorded answer of the next round instruction of a thread (R101). -/
def Module.recorded (m : Module) (cx : Nat) : Option Word64 :=
  let t := m.ctx cx
  (firstWhere (fun e : Nat × Nat × Word64 => e.1 == m.threadKey cx && e.2.1 == t.u.roundIdx) (m.queue t.queue).record.answers).map (·.2.2)

/-- A round instruction of the thread in focus completes with its status word. -/
def State.roundDone (s : State) (d : RegNo) (w : Word64) : State :=
  (s.on fun m =>
    let t := m.th
    let key := m.threadKey m.focus
    let old := (m.queue t.queue).record.answers
    let m1 := if old.any fun e => e.1 == key && e.2.1 == t.u.roundIdx then m
      else m.modQueue t.queue fun q => q.keep 16 fun r => { r with answers := r.answers ++ [(key, t.u.roundIdx, w)] }
    m1.modTh fun t => t.modU fun u => { u with roundHold := none, roundIdx := u.roundIdx + 1 }).wrS d w

/-! ## Status words (R487) -/

/-- The status word for the current round. -/
def Group.report (g : Group) (refusal : Cause) : Word64 :=
  let w := (g.log g.round).toNat
  let has := g.logs g.round
  let c : Cause := if refusal ≠ 0 then refusal else if g.state = 4 && has then BitVec.ofNat 7 (fld w 52 7) else 0
  roundWord g.state (refusal != 0) (has && bit w 60) (has && bit w 59) g.degraded c g.round

/-- The status word for a round of the log; STATE 7 where the log does not hold it (R488). -/
def Group.reportLog (g : Group) (n : Nat) : Word64 :=
  let w := (g.log n).toNat
  if g.logs n then
    roundWord (fld w 61 3) false (bit w 60) (bit w 59) g.degraded (if fld w 61 3 = 4 then BitVec.ofNat 7 (fld w 52 7) else 0) n
  else roundWord 7 false false false g.degraded 0 n

/-- The status word of a round that has been decided, wherever it now stands. -/
def Group.reportDecided (g : Group) (n : Nat) : Word64 := if n = g.round then g.report 0 else g.reportLog n

/-- The status word where no slot answers. -/
def noSlotWord : Word64 := roundWord 7 true false false false Cause.groupConfig 0

/-! ## What comes before a round instruction (R486) -/

/-- Changes the module for good: a request made of the round controller is not withdrawn with its bundle (R486). -/
def State.both (s : State) (f : Module → Module) : State := ⟨f s.now, s.pre.map f⟩

/-- The slot that a GID selects in an address space. -/
def Module.slotOf (m : Module) (gid asid : Nat) : Option Nat :=
  firstWhere (fun s => let g := m.group s; g.valid && g.gid == gid && g.asid == asid) (range' 0 8)

/-- GROUP_FENCED at a round instruction; the spec gives its EDATA no value (log entry 4). -/
def State.fencedFault (s : State) : State :=
  let (bs, m) := s.back.freeBytes 8
  (⟨m, some m⟩ : State).fault Cause.groupFenced (BitVec.ofNat 64 (leNat bs))

/-- The checks that apply before anything else, a recorded answer first (R101, R486). An instruction that waits already is not refused for a
loss: it waits for the decision or its limit (R94). -/
def State.onGroup (s : State) (d : RegNo) (a : Word64) (body : State → Nat → State) : State :=
  match s.now.recorded s.now.focus with
  | some w => s.roundDone d w
  | none =>
    match (if a.toNat < 2 ^ 16 then s.now.slotOf a.toNat s.now.th.asid else none) with
    | none => s.roundDone d noSlotWord
    | some slot =>
      let g := s.now.group slot
      if g.fenced then s.fencedFault
      else
        let s1 := s.both fun m => m.noteGroup (some m.th.queue) slot
        if g.lost && s.back.th.u.roundHold.isNone then s1.roundDone d (g.report Cause.groupLost) else body s1 slot

/-! ## The operations of the round controller (R488, R490) -/

/-- ROPEN for round `n`: the refusal, 0 where there is none, and the module. -/
def Module.ropen (m : Module) (slot n : Nat) : Cause × Module :=
  let g := m.group slot
  if g.state = 3 || g.state = 4 then
    if g.degraded || g.rebuilding then (Cause.groupDegraded, m)
    else if n = g.round + 1 then (0, m.openRound slot n)
    else (Cause.roundClosed, m)
  else if g.state = 0 && n = g.round then (0, m)
  else (Cause.roundClosed, m)

/-- RPREP: the refusal and the module. In PREPARING or PREPARED it completes as done, as R488 says; the table of R92 says Refused there (log entry 43). -/
def Module.rprep (m : Module) (slot : Nat) : Cause × Module :=
  let g := m.group slot
  if g.state = 0 then (0, m.prepareRound slot)
  else if g.state = 1 || g.state = 2 then (0, m)
  else (Cause.roundClosed, m)

/-- RCMT asks for the vote: it begins on the coordinator, and elsewhere a Vote request goes to the coordinator (R89). -/
def Module.rcmtStart (m : Module) (slot : Nat) : Module :=
  let m1 := if (m.group slot).state = 0 then m.prepareRound slot else m
  let g := m1.group slot
  if g.state = 3 || g.state = 4 then m1
  else
    let m2 := m1.modGroup slot fun x => { x with voteReq := true }
    if g.coordinates then m2.beginVote slot g.round
    else (m2.gsend slot 2048 g.coord 0x16 g.round 0 (leBytes g.round 6)).2

/-- Whether round `n` has been decided on this member. -/
def Group.decidedAt (g : Group) (n : Nat) : Bool := (n == g.round && (g.state == 3 || g.state == 4)) || (n != g.round && g.logs n)

/-- Whether RREVOKE of round `n` is accepted (R103); RETAIN is the bit of GCFG as last written, beside what is retained (log entry 43). -/
def Group.mayRevoke (g : Group) (n : Nat) : Bool :=
  g.coordinates && bit g.cfg.toNat 40 && !g.degraded && (g.retained.map (·.1)) == some n &&
    ((g.round == n && g.state == 3) || (g.round == n + 1 && g.state != 3))

/-- RREVOKE accepted: an undecided round n+1 is decided ABORT, the revoke is applied here and sent to every other member (R103). -/
def Module.rrevokeStart (m : Module) (slot n : Nat) : Module :=
  let g := m.group slot
  let m1 := if g.round = n + 1 && g.state < 3 then m.decideRound slot (n + 1) false (g.seen (n + 1)) else m
  let m2 := (m1.revokeHere slot n).modGroup slot fun x => { x with revoking := some (n, x.others) }
  m2.gsendAll slot 0x15 n 0 (leBytes n 6) (m2.group slot).others

/-- Whether a revoke of round `n` has been answered by every member. -/
def Group.revokeDone (g : Group) (n : Nat) : Bool := match g.revoking with
  | some (k, l) => k == n && l.isEmpty
  | none => true

/-! ## Meanings -/

/-- Whether the release that RPREP performs still waits for S-queue or M-queue accesses (R489). -/
def Thread.releasing (t : Thread) : Bool := (t.x.sq.any fun e => !e.kind.isMarker) || t.x.mq.any fun e => !e.kind.isMarker

/-- Holds a bundle until its thread's accesses are performed, in every state of the round or in OPEN alone, and no line of the round awaits a snoop,
then goes on (R488, R489). -/
def State.released (s : State) (slot : Nat) (always : Bool) (body : State) : State :=
  if (always || decide ((s.now.group slot).state = 0)) && s.now.th.releasing then s.hold fun t => t
  else match s.now.prepareBlocked slot with
    | some h => s.holdM fun m => m.askSnoop h
    | none => body

/-- ROPEN (R488). -/
def execRopen (d a b : RegNo) (s : State) : Out :=
  .next (s.onGroup d (s.rdS a) fun s slot =>
    let n := (s.rdS b).toNat
    let c := (s.now.ropen slot n).1
    let s1 := s.both fun m => (m.ropen slot n).2
    s1.roundDone d ((s1.now.group slot).report c))

/-- RPREP (R488, R489). -/
def execRprep (d a : RegNo) (s : State) : Out :=
  .next (s.onGroup d (s.rdS a) fun s slot =>
    s.released slot true
      (let c := (s.now.rprep slot).1
       let s1 := s.both fun m => (m.rprep slot).2
       s1.roundDone d ((s1.now.group slot).report c)))

/-- Holds on a request of the round controller, which is not withdrawn (R486). -/
def State.roundWait (s : State) (op : Instr) (slot n : Nat) : State :=
  s.holdM fun m => m.modTh fun t => t.modU fun u => { u with roundHold := some ⟨op, slot, n, m.clk.cycle, none⟩ }

/-- RCMT: holds until this member applies the decision (R488, R489). -/
def execRcmt (d a : RegNo) (s : State) : Out :=
  .next (s.onGroup d (s.rdS a) fun s slot =>
    match s.back.th.u.roundHold with
    | some h => match h.answer with
      | some w => s.roundDone d w
      | none => s.hold fun t => t
    | none =>
      let g := s.now.group slot
      if g.state = 3 || g.state = 4 then s.roundDone d (g.report 0)
      else s.released slot false
        (let s1 := s.both fun m => m.rcmtStart slot
         let g1 := s1.now.group slot
         if g1.decidedAt g.round then s1.roundDone d (g1.reportDecided g.round)
         else s1.roundWait (.rcmt d a) slot g.round))

/-- RSTAT (R488). -/
def execRstat (d a b : RegNo) (s : State) : Out :=
  .next (s.onGroup d (s.rdS a) fun s slot =>
    let g := s.now.group slot
    let n := s.rdS b
    if n = BitVec.allOnes 64 then s.roundDone d (g.report 0)
    else if n.toNat ≥ 2 ^ 48 then s.roundDone d (g.report Cause.roundClosed)
    else s.roundDone d (g.reportLog n.toNat))

/-- RREVOKE (R490): PRIV_INSTR outside a launch of queues 60 to 63. -/
def execRrevoke (d a b : RegNo) (s : State) : Out :=
  .next (if s.now.th.queue < 60 then s.faultSyl Cause.privInstr (.rrevoke d a b)
    else s.onGroup d (s.rdS a) fun s slot =>
      match s.back.th.u.roundHold with
      | some h => match h.answer with
        | some w => s.roundDone d w
        | none => s.hold fun t => t
      | none =>
        let n := fld (s.rdS b).toNat 0 48
        let g := s.now.group slot
        if g.mayRevoke n then
          let s1 := s.both fun m => m.rrevokeStart slot n
          if (s1.now.group slot).revokeDone n then s1.roundDone d ((s1.now.group slot).reportDecided n)
          else s1.roundWait (.rrevoke d a b) slot n
        else s.roundDone d (g.report Cause.roundClosed))

/-- The 16 bytes that PROTR reads, as an S-queue load through aperture 0x0 (R491). -/
def Module.protrRead (m : Module) (cx : Nat) (user : Bool) (x : Word64) : Except Stop (List Byte × Module) :=
  if x.toNat % 8 ≠ 0 then .error (.fault Cause.addrAlign x.toNat)
  else if x.toNat ≥ 2 ^ 52 then .error (.fault Cause.addrAperture x.toNat)
  else m.readG (m.acc cx user false) x.toNat 16

/-- PROTR (R491): its read takes its turn behind the S queue's (R236); a read fault is raised at the next boundary and writes nothing; a refusal writes
no region, and one for the region's sake sets ERR (R78). -/
def execProtr (d a b : RegNo) (k : BitVec 6) (s : State) : Out :=
  .next (s.onGroup d (s.rdS a) fun s slot =>
    let user := !s.src.th.system
    let imprecisely := fun (c : Cause) (x : Nat) => s.upd fun t => t.hold user (imprecise c 0 (BitVec.ofNat 64 x))
    if !s.now.sAhead s.now.focus ⟨.load false 0, 16, s.rdS b, .none, user, none, 0⟩ s.now.th.x.sq then s.hold fun t => t
    else match s.now.protrRead s.now.focus user (s.rdS b), s.back.th.u.pf.cause with
    | .error (.page x _), some c => imprecisely c x
    | .error (.fault c x), _ => imprecisely c x
    | .error st, _ => s.bundleStop (s.now.acc s.now.focus user false) .read st
    | .ok (bs, _), _ =>
      let g := s.now.group slot
      if g.state ≠ 3 && g.state ≠ 4 then s.roundDone d (g.report Cause.roundClosed)
      else
        let w0 := BitVec.ofNat 64 (leNat (bs.take 8))
        let w1 := BitVec.ofNat 64 (leNat (bs.drop 8))
        match (s.now.setRegion slot k.toNat w0 w1).1 with
        | some c =>
          let s1 := s.both fun m => m.modGroup slot fun x => { x.fail c with busy := x.busy }
          s1.roundDone d (g.report c)
        | none =>
          let s1 := s.both fun m => (m.setRegion slot k.toNat w0 w1).2
          s1.roundDone d ((s1.now.group slot).report 0))

/-! ## Answers and limits -/

/-- The controller's answer to a held round instruction, once it is there. -/
def Group.answerOf (g : Group) (h : RoundHold) : Option Word64 :=
  match h.op with
  | .rrevoke _ _ _ => if g.revokeDone h.round then some (g.reportDecided h.round) else none
  | _ => if g.decidedAt h.round then some (g.reportDecided h.round) else none

/-- Answers the held round instructions of a slot (R486). -/
def Module.roundAnswers (m : Module) (slot : Nat) (f : RoundHold → Option Word64) : Module :=
  (m.cx.ctxs.map (·.1)).foldl (fun m cx => m.modCtx cx fun t => t.modU fun u =>
    { u with roundHold := u.roundHold.map fun h =>
        if h.slot = slot && h.answer.isNone then { h with answer := f h } else h }) m

end Sys2Proof.Machine
end

