-- ==== Sys2Proof/Machine/System.lean ====
section
/-!
DEFINITION. Control registers and their access, OVTLD and TRAP: rules R471 to R479, R483 and R485.
-/

namespace Sys2Proof.Machine

/-- Access codes of a control register at one level (R475). -/
inductive CsrAcc where
  | none | ro | rw | wo
  deriving DecidableEq, Repr

/-- The control registers of R475: number, access at user level, access at system level, and the writable bits. -/
def csrTable : List (Nat × CsrAcc × CsrAcc × Nat) :=
  [(0x800, .ro, .ro, 0), (0x801, .ro, .ro, 0), (0x802, .ro, .ro, 0), (0x803, .ro, .ro, 0), (0x810, .ro, .ro, 0),
   (0x811, .ro, .ro, 0), (0x812, .ro, .ro, 0), (0x813, .rw, .rw, 0xFFFFFFFF), (0x818, .rw, .rw, 0xFFFFFFFF), (0x819, .rw, .rw, 1),
   (0x81A, .rw, .rw, 0x3F3F3F3F3F3F3F3F), (0x81B, .rw, .rw, 0x00003F3F3F3F3F3F), (0x81C, .rw, .rw, 0xFFFFFFFFFFFFFFFF),
   (0x81D, .rw, .rw, 0xFFFFFFFFFFFFFFFF), (0x81E, .rw, .rw, 0xFFFFFFFFFFFFFFFF), (0x81F, .rw, .rw, 0xFFFFFFFFFFFFFFFF)] ++
  [(0x820, .rw, .rw, 0xFFFFFFFF00000001), (0x821, .rw, .rw, 0x80000000000003FF), (0x822, .rw, .rw, 0x80FFFFFE000FFF80),
   (0x823, .rw, .rw, 0x0000FFFF00001FFF), (0x824, .rw, .rw, 0x1FF), (0x825, .ro, .rw, 0xFFFFFFFF), (0x880, .ro, .rw, 0x83),
   (0x881, .none, .rw, 0xFFFFFFFF), (0x882, .none, .rw, 0xFFFFFFFFFFFFFFFF), (0x883, .none, .rw, 0xFFFFFFFFFFFFFFFF),
   (0x884, .none, .rw, 0xFFFFFFFFFFFFFFFF), (0x885, .none, .rw, 0x800FFFFFFFFFFFFC), (0x886, .none, .rw, 0xFFFFFFFFFFFFFFFF),
   (0x887, .none, .rw, 0xFFFFFFFFFFFFFFFF), (0x888, .none, .wo, 0x7F)]

/-- A control register's row. -/
def csrRow (n : Nat) : Option (CsrAcc × CsrAcc × Nat) := (firstWhere (fun e : Nat × CsrAcc × CsrAcc × Nat => e.1 == n) csrTable).map (·.2)

/-- TBUSY: bit t while tile t is busy (R189). -/
def Thread.tbusy (t : Thread) : Word64 :=
  (range' 0 8).foldl (fun w k => if t.u.busy.contains k then w ||| BitVec.ofNat 64 (2 ^ k) else w) 0

/-- Reads a control register's contents. -/
def Thread.csrGet (t : Thread) (n : Nat) : Word64 :=
  match n with
  | 0x800 => t.csr.tid | 0x801 => t.csr.nthr | 0x802 => t.csr.lnum | 0x803 => t.csr.wctr | 0x810 => t.csr.cbstat
  | 0x811 => t.tbusy | 0x812 => t.csr.fmtcap | 0x813 => t.csr.tmrcnt | 0x818 => t.csr.waitlim | 0x819 => t.csr.windowchk
  | 0x81A => t.csr.ovtab | 0x81B => t.csr.ovtabx | 0x81C => t.csr.stepm | 0x81D => t.csr.stepc0 | 0x81E => t.csr.stepc1
  | 0x81F => t.csr.skseed | 0x820 => t.csr.skctl | 0x821 => t.csr.jbind | 0x822 => t.csr.cwin | 0x823 => t.csr.cwcnt
  | 0x824 => t.csr.rmwbth | 0x825 => t.csr.frlim | 0x880 => t.csr.estat | 0x881 => t.csr.cause | 0x882 => t.csr.epc
  | 0x883 => t.csr.edata | 0x884 => t.csr.mfaddr | 0x885 => t.csr.tvec | 0x886 => t.csr.hsave0 | 0x887 => t.csr.hsave1
  | _ => 0

/-- Sets a control register's contents whole. -/
def Csrs.put (c : Csrs) (n : Nat) (v : Word64) : Csrs :=
  match n with
  | 0x800 => { c with tid := v } | 0x801 => { c with nthr := v } | 0x802 => { c with lnum := v } | 0x803 => { c with wctr := v }
  | 0x810 => { c with cbstat := v } | 0x812 => { c with fmtcap := v } | 0x813 => { c with tmrcnt := v }
  | 0x818 => { c with waitlim := v } | 0x819 => { c with windowchk := v } | 0x81A => { c with ovtab := v }
  | 0x81B => { c with ovtabx := v } | 0x81C => { c with stepm := v } | 0x81D => { c with stepc0 := v }
  | 0x81E => { c with stepc1 := v } | 0x81F => { c with skseed := v } | 0x820 => { c with skctl := v }
  | 0x821 => { c with jbind := v } | 0x822 => { c with cwin := v } | 0x823 => { c with cwcnt := v }
  | 0x824 => { c with rmwbth := v } | 0x825 => { c with frlim := v } | 0x880 => { c with estat := v }
  | 0x881 => { c with cause := v } | 0x882 => { c with epc := v } | 0x883 => { c with edata := v }
  | 0x884 => { c with mfaddr := v } | 0x885 => { c with tvec := v } | 0x886 => { c with hsave0 := v }
  | 0x887 => { c with hsave1 := v }
  | _ => c

/-- The access code of a register at a thread's level. -/
def csrAccess (row : CsrAcc × CsrAcc × Nat) (system : Bool) : CsrAcc := if system then row.2.1 else row.1

/-- What CSRR and CSRX read: a WO register reads zero (R473). -/
def Thread.csrRead (t : Thread) (n : Nat) (acc : CsrAcc) : Word64 :=
  match acc with
  | .wo => 0 | .none => 0 | .ro => t.csrGet n | .rw => t.csrGet n

/-- FEND's write ends the launch with CODE, or with KILLED when CODE is 0 (R479). -/
def Module.fend (m : Module) (cx : Nat) (code : Nat) : Module :=
  let t := m.ctx cx
  m.endLaunch cx (if code % 128 = 0 then Cause.killed else BitVec.ofNat 7 code) 0 t.csr.epc t.csr.edata

/-- A control register write at a level that allows it: reserved and RO bits keep what they hold (R6, R7, R473). -/
def State.csrWrite (s : State) (n : Nat) (mask : Nat) (acc : CsrAcc) (v : Word64) : State :=
  match acc with
  | .none => s
  | .ro => s
  | .wo => s.on fun m => m.fend m.focus (v.toNat % 128)
  | .rw =>
    let k : Word64 := BitVec.ofNat 64 mask
    s.upd fun t =>
      let t1 := t.modC fun c => c.put n ((t.csrGet n &&& ~~~ k) ||| (v &&& k))
      if n = 0x820 then t1.modU fun u => { u with ir := { u.ir with skctlSet := true } } else t1

/-- The checks of R473 in order, then an access. -/
def State.csr (s : State) (n : BitVec 12) (f : CsrAcc → Nat → State) : State :=
  match csrRow n.toNat with
  | none => s.fault Cause.illegalCsr (n.setWidth 64)
  | some row =>
    let acc := csrAccess row s.src.th.system
    if acc = .none then s.fault Cause.privCsr (n.setWidth 64) else f acc row.2.2

/-- CSRR (R472). -/
def execCsrr (d : RegNo) (csr : BitVec 12) (s : State) : Out :=
  .next (s.csr csr fun acc _ => s.wrS d (s.src.th.csrRead csr.toNat acc))

/-- CSRW (R472). -/
def execCsrw (csr : BitVec 12) (a : RegNo) (s : State) : Out :=
  .next (s.csr csr fun acc mask => s.csrWrite csr.toNat mask acc (s.rdS a))

/-- CSRX (R472). -/
def execCsrx (d : RegNo) (csr : BitVec 12) (a : RegNo) (s : State) : Out :=
  .next (s.csr csr fun acc mask => (s.csrWrite csr.toNat mask acc (s.rdS a)).wrS d (s.src.th.csrRead csr.toNat acc))

/-- TRAP: the bundle issues, and TRAP_CALL is due at the boundary (R483). -/
def execTrap (n : BitVec 12) (s : State) : Out :=
  .next (s.upd fun t => t.modU fun u => { u with held := ⟨Cause.trapCall, n.setWidth 25, 0, .A⟩ :: u.held })

/-- OVTLD: both overflow registers at one instant, reserved bits ignored (R485). -/
def execOvtld (a b : RegNo) (s : State) : Out :=
  .next (s.upd fun t => t.modC fun c =>
    { c with ovtab := s.rdS a &&& 0x3F3F3F3F3F3F3F3F, ovtabx := s.rdS b &&& 0x00003F3F3F3F3F3F })

/-- OVTLD.rst: both overflow registers take their reset values (R270, R485). -/
def execOvtldRst (s : State) : Out :=
  .next (s.upd fun t => t.modC fun c => { c with ovtab := Csrs.zero.ovtab, ovtabx := Csrs.zero.ovtabx })

end Sys2Proof.Machine
end

