-- ==== Sys2Proof/Machine/Launch.lean ====
section
/-!
DEFINITION. Event counters, and the launch unit: taking a launch, readiness, the candidate, placement, pre-emption, saving and restoring, the
two banks of a core, triggers, and the end of threads and launches: rules R120, R138 to R174, R199, R374 and R375.
-/

namespace Sys2Proof.Machine

/-! ## Event counters (R120, R126, R128) -/

/-- A queue stops with a cause, its entry at HEAD, and a notice is posted (R119). -/
def Module.haltQueue (m : Module) (q : Nat) (c : Cause) : Module := (m.stopQueue q c).notice 1 q c 0 []

/-- The value of an event counter. -/
def Module.counter (m : Module) (n : Nat) : Nat := (Tab.get 0 m.fe.evcnt n).toNat

/-- The greatest value of a counter. -/
def counterMax : Nat := 2 ^ 48 - 1

/-- Whether one dependence word of a launch is satisfied (R150, R151). -/
def Module.depMet (m : Module) (l : Launch) (w : Word64) : Bool :=
  let x := w.toNat
  let producer := firstWhere (fun p : Launch => p.queue == l.queue && p.entry.toNat == fld x 0 32 && decide (p.id < l.id)) m.lu.launches
  match fld x 62 2 with
  | 0 => true
  | 1 => producer.isNone
  | 2 => match producer with
    | some p => p.trigComplete
    | none => true
  | _ => decide (fld x 0 48 ≤ m.counter (fld x 48 12))

/-- Launches whose dependences are now all satisfied become ready, and age from this moment (R147, R149). -/
def Module.settleReady (m : Module) : Module :=
  { m with lu := { m.lu with launches := m.lu.launches.map fun l =>
      if l.state == .waiting && l.ready.isNone && l.deps.all (m.depMet l) then { l with ready := some m.ticks } else l } }

/-- ADD or MAX on a counter (R120). A sum above the greatest value saturates, and COUNTER_SATURATED is posted. -/
def Module.countUp (m : Module) (n v : Nat) (isMax : Bool) : Module :=
  let old := m.counter n
  let new := if isMax then Nat.max old v else Nat.min counterMax (old + v)
  let m1 := { m with fe := { m.fe with evcnt := Tab.set 0 m.fe.evcnt n (BitVec.ofNat 48 new) } }
  let m2 := if !isMax && decide (old + v > counterMax) then m1.notice 1 n Cause.counterSaturated 0 [] else m1
  m2.settleReady

/-- Whether a post or completion event of a queue has been delivered before the replay that is running, so that it is not delivered again
(R128). -/
def Queue.skips (q : Queue) : Bool := q.replaying && decide (q.skipPosts > 0)

/-- Counts a post or completion event of a queue: one that is skipped, or one more delivered (R126, R128). -/
def Module.countPost (m : Module) (q : Nat) : Module :=
  m.modQueue q fun x =>
    if x.skips then { x with skipPosts := x.skipPosts - 1 }
    else if fld x.rpl.toNat 56 8 != 0 && !x.noreplay then { x with record := { x.record with posts := x.record.posts + 1 } }
    else x

/-- Delivers an increment of a counter on behalf of a queue. -/
def Module.deliver (m : Module) (q n v : Nat) (isMax : Bool) : Module :=
  let m1 := m.countPost q
  if (m.queue q).skips then m1 else m1.countUp n v isMax

/-- A command completes: its CEV counter gains 1 (R116). -/
def Module.cevent (m : Module) (q : Nat) (h : CmdHdr) : Module := if h.cev then m.deliver q h.evt.toNat 1 false else m

/-! ## Kernel boundaries (R125) -/

/-- The launches of a queue that have been taken and have not ended. -/
def Module.launchesOf (m : Module) (q : Nat) : List Launch := m.lu.launches.filter fun l => l.queue == q

/-- Whether no command of a queue is running. -/
def Module.queueIdle (m : Module) (q : Nat) : Bool :=
  (m.launchesOf q).isEmpty && (m.queue q).mems.isEmpty && (m.queue q).busy.isNone

/-- The command that a queue holds as a WAIT. -/
def heldWait (q : Nat) (w : CmdHdr × List WaitCond) : List Instr :=
  match w.2 with
  | [a, b, c, d] => [.wait (BitVec.ofNat 6 q) w.1 a b c d]
  | _ => []

/-- A queue at a kernel boundary: the record is emptied; NOREPLAY, NDSEEN and REPLAYS are cleared. A WAIT that is held belongs to the stretch that
begins (log entry 50). -/
def Queue.boundary (x : Queue) (q : Nat) : Queue :=
  let y := { x with record := Replay.empty, noreplay := false, ndseen := false, replays := 0, skipPosts := 0, pos := 0, clusters := [] }
  match x.waiting with
  | none => y
  | some w => { y.keep 64 fun r => { r with entries := heldWait q w } with pos := 1 }

/-- A kernel boundary, where every command of the stretch has been taken, in a replay again (log entry 50). -/
def Module.kernelBoundary (m : Module) (q : Nat) : Module :=
  if (m.queue q).replaying && decide ((m.queue q).pos < (m.queue q).record.entries.length) then m
  else m.modQueue q fun x => x.boundary q

/-! ## Cores (R142) -/

/-- Whether a core is enabled. -/
def Module.enabled (m : Module) (k : Nat) : Bool := !(m.core k).disabled

/-- The context of the bank that the primary of a core does not use. -/
def Module.otherBank (m : Module) (k : Nat) : Nat := 2 * k + (1 - b2n (m.core k).primary)

/-- Whether a context holds no thread. -/
def Module.emptyCtx (m : Module) (c : Nat) : Bool := (m.ctx c).status == .empty

/-- A core that a primary may take, were the launches named gone: a shadow left in it would become its primary (R142, R160). -/
def Module.coreFree (m : Module) (gone : List Nat) (k : Nat) : Bool :=
  let out := fun c => m.emptyCtx c || gone.contains (m.ctx c).launch
  let byGone := m.cx.ctxs.any fun e => decide (e.1 < 2048) && clusterOf (coreOf e.1) == clusterOf k && gone.contains e.2.launch &&
    e.2.status != .empty
  m.enabled k && out (m.primary k) && out (m.otherBank k) && (!m.cx.fused.contains (clusterOf k) || byGone)

/-- Whether a launch is being pre-empted. -/
def Module.leaving (m : Module) (id : Nat) : Bool := (m.launchOf id).any fun l => l.state == .saving

/-- A core that a shadow may take: it holds a primary, and its other bank is free (R159). A primary that is being pre-empted leaves its core to the
launch that it makes room for (R152). -/
def Module.coreShadow (m : Module) (k : Nat) : Bool :=
  m.enabled k && !m.emptyCtx (m.primary k) && !m.leaving (m.ctx (m.primary k)).launch && m.emptyCtx (m.otherBank k) &&
    !m.cx.fused.contains (clusterOf k)

/-- The cores a launch may use: those of each die where all must lie on one die, else all of them. -/
def coreSets (samedie : Bool) : List (List Nat) :=
  if samedie then (range' 0 4).map fun d => range' (256 * d) 256 else [range' 0 1024]

/-- The cores of threads 0 to n - 1 among a set of cores (R142). -/
def pickCores (free : Nat → Bool) (n tpc : Nat) (fuse : Bool) (cores : List Nat) : Option (List Nat) :=
  let l := cores.filter free
  if tpc = 0 then (if l.length < n then none else some (l.take n))
  else
    let groups := ((range' 0 128).map fun c => l.filter fun k => clusterOf k == c).filter fun g =>
      decide (g.length ≥ if fuse then 8 else tpc)
    let need := (n + tpc - 1) / tpc
    if groups.length < need then none else some (((groups.take need).flatMap fun g => g.take tpc).take n)

/-- The cores of a launch that has not been placed (R142). -/
def Launch.cores (l : Launch) (free : Nat → Bool) : Option (List Nat) :=
  (firstWhere Option.isSome ((coreSets l.samedie).map (pickCores free l.nthr l.tpc l.fuse))).join

/-- The saved contexts of a launch: context and thread, in ascending TID. -/
def Module.savedOf (m : Module) (id : Nat) : List (Nat × Thread) :=
  sortBy (fun a b : Nat × Thread => decide (a.2.tidN ≤ b.2.tidN))
    (m.cx.ctxs.filter fun e => decide (e.1 ≥ 2048) && e.2.launch == id && e.2.status != .empty)

/-- The groups of threads that shared a cluster, in ascending order of their lowest TID: the contexts of each. -/
def savedGroups : List (Nat × Thread) → List (List Nat)
  | l =>
    let cl := (l.map fun e => clusterOf (coreOf e.1)).foldl (fun acc c => if acc.contains c then acc else acc ++ [c]) []
    cl.map fun c => (l.filter fun e => clusterOf (coreOf e.1) == c).map Prod.fst

/-- Finds a cluster for each group, the lowest-numbered one not yet chosen in which its core indices are free (R156): pairs of saved context
and core. -/
def placeGroups (free : Nat → Bool) (fuse : Bool) : List (List Nat) → List Nat → Option (List (Nat × Nat))
  | [], _ => some []
  | g :: gs, clusters =>
    let need := if fuse then range' 0 8 else g.map fun c => coreOf c % 8
    match firstWhere (fun c => need.all fun i => free (8 * c + i)) clusters with
    | none => none
    | some c => (placeGroups free fuse gs (clusters.filter (· != c))).map fun r => (g.map fun x => (x, 8 * c + coreOf x % 8)) ++ r

/-- Where the threads of a pre-empted launch are restored (R156). -/
def Module.restoreCores (m : Module) (l : Launch) (free : Nat → Bool) : Option (List (Nat × Nat)) :=
  let sets := if l.samedie then (range' 0 4).map fun d => range' (32 * d) 32 else [range' 0 128]
  (firstWhere Option.isSome (sets.map (placeGroups free l.fuse (savedGroups (m.savedOf l.id))))).join

/-- Whether a launch, fresh or saved, fits the cores that a test calls free. -/
def Module.fits (m : Module) (l : Launch) (free : Nat → Bool) : Bool :=
  if l.state == .saved then (m.restoreCores l free).isSome else (l.cores free).isSome

/-! ## Taking a launch (R138 to R141, R145, R150) -/

/-- The fields of a crew descriptor. -/
structure CrewDesc where
  gang : Bool
  stride : Nat
  count : Nat
  first : Nat
  deriving DecidableEq, Repr

/-- Reads a crew descriptor; none where VALID is 0. -/
def crewDesc (w : Word64) : Option CrewDesc :=
  if bit w.toNat 63 then some ⟨bit w.toNat 31, fld w.toNat 21 10, fld w.toNat 10 11, fld w.toNat 0 10⟩ else none

/-- The TIDs of a crew's members. -/
def CrewDesc.tids (d : CrewDesc) : List Nat := (range' 0 d.count).map fun i => d.first + i * d.stride

/-- Whether a crew descriptor keeps R145. -/
def crewOkFor (w : Word64) (nthr tpc : Nat) : Bool :=
  match crewDesc w with
  | none => w == 0
  | some d =>
    fld w.toNat 32 31 == 0 && d.stride != 0 && decide (1 ≤ d.count) && decide (d.count ≤ 1024) &&
      decide (d.first + (d.count - 1) * d.stride < nthr) &&
      (!d.gang || (decide (2 ≤ d.count) && decide (d.count ≤ 4) && tpc != 0 && d.tids.all fun j => j / tpc == d.first / tpc))

/-- Whether a dependence word keeps R150. -/
def depOk (w : Word64) (entry : Word32) : Bool :=
  let x := w.toNat
  let back := (entry.toNat + 2 ^ 32 - fld x 0 32) % 2 ^ 32
  match fld x 62 2 with
  | 0 => x == 0
  | 3 => fld x 60 2 == 0
  | _ => fld x 32 30 == 0 && decide (1 ≤ back) && decide (back ≤ 2 ^ 31)

/-- A little-endian number in a byte string. -/
def numOf (b : List Byte) (o n : Nat) : Nat := leNat ((b.drop o).take n)

/-- The claimed priority that a queue's level caps: its LEVEL, 7 for queues 60 to 63 (R113, R141). -/
def Module.level (m : Module) (q : Nat) : Nat := if q ≥ 60 then 7 else fld (m.queue q).cfg.toNat 1 3

/-- The launch a record describes, none where the record breaks a condition of R139 that draws LAUNCH_FORMAT. -/
def parseLaunch (q level asid : Nat) (entry : Word32) (h : CmdHdr) (b : List Byte) : Option Launch :=
  let code := numOf b 0 8
  let ctxbase := numOf b 16 8
  let nthr := numOf b 24 2
  let shape := numOf b 26 1
  let flags := numOf b 27 1
  let tevt := numOf b 28 2
  let tpc := fld shape 0 4
  let crews := (range' 0 4).map fun i => BitVec.ofNat 64 (numOf b (32 + 8 * i) 8)
  let deps := (range' 0 8).map fun i => BitVec.ofNat 64 (numOf b (64 + 8 * i) 8)
  let ok := code % 4 == 0 && decide (code < 2 ^ 52) && ctxbase % 65536 == 0 && decide (ctxbase < 2 ^ 52) && decide (1 ≤ nthr) &&
    decide (nthr ≤ 1024) && [0, 1, 2, 4, 8].contains tpc && fld shape 6 2 == 0 && !(bit shape 4 && tpc == 0) && fld flags 5 3 == 0 &&
    fld tevt 12 3 == 0 && numOf b 30 2 == 0 && numOf b 128 128 == 0 && crews.all (fun w => crewOkFor w nthr tpc) &&
    deps.all fun w => depOk w entry
  if ok then some
    { id := 0, queue := q, entry := entry, hdr := h, asid := asid, code := code, arg := BitVec.ofNat 64 (numOf b 8 8), ctxbase := ctxbase,
      nthr := nthr, tpc := tpc, fuse := bit shape 4, samedie := bit shape 5, prio := Nat.min (fld flags 0 3) level, nondet := bit flags 3,
      shadowOk := bit flags 4, tevt := if bit tevt 15 then some (fld tevt 0 12) else none, crews := crews, deps := deps, lnum := 0, lrnd := 0,
      state := .waiting, asShadow := false, ready := none, placed := 0, ended := [], trigComplete := false }
  else none

/-- The round of the lowest-numbered valid group slot, 0 where there is none (R285). -/
def Module.lrnd (m : Module) : Nat := ((firstWhere (fun s => (m.group s).valid) (range' 0 8)).map fun s => (m.group s).round).getD 0

/-- The cause of a launch that fits no enabled cores: in a replay it fails the replay (R128, R139, R167). -/
def Module.sizeCause (m : Module) (q : Nat) : Cause := if (m.queue q).replaying then Cause.replayFailed else Cause.launchSize

/-- Takes the launch of a record (R139): the module with the launch taken, or the cause that stops the queue, or what its record waits for. `kept` is
the LNUM and LRND of a launch that a replay takes again. -/
def Module.takeLaunch (m : Module) (q : Nat) (entry : Word32) (h : CmdHdr) (record : Nat) (kept : Option (Nat × Nat)) : Except Miss Module :=
  let asid := fld (m.queue q).cfg.toNat 8 16
  if record % 256 ≠ 0 || record ≥ 2 ^ 52 then .error (.cause Cause.launchFormat)
  else match m.readV 0 asid record 256 with
    | .error c => .error c
    | .ok (b, m0) => match parseLaunch q (m.level q) asid entry h b with
      | none => .error (.cause Cause.launchFormat)
      | some l =>
        if (l.cores m.enabled).isNone then .error (.cause (m.sizeCause q))
        else match translate m0 0 none asid l.code .fetch true with
          | .error c => .error c
          | .ok (_, m1) =>
            let lnum := (kept.map Prod.fst).getD m1.lu.lnum
            let lrnd := (kept.map Prod.snd).getD m1.lrnd
            let next := if kept.isSome then m1.lu.lnum else (m1.lu.lnum + 1) % 2 ^ 20
            let l1 := { l with id := m1.lu.next, lnum := lnum, lrnd := lrnd }
            let m2 := { m1 with lu := { m1.lu with launches := m1.lu.launches ++ [l1], next := m1.lu.next + 1, lnum := next } }
            let m3 := if l1.nondet then m2.modQueue q fun x => { x with ndseen := true } else m2
            .ok m3.settleReady

/-- Whether the launch unit holds 256 launches (R140). -/
def Module.launchFull (m : Module) : Bool := decide (m.lu.launches.length ≥ 256)

/-! ## Choosing the candidate (R147, R148, R167) -/

/-- Effective priority (R147): one step for each 400,000 ticks. -/
def Module.effective (m : Module) (l : Launch) : Nat :=
  if l.prio = 7 then 7 else Nat.min 6 (l.prio + (m.ticks - l.ready.getD m.ticks) / 400000)

/-- Launches that wait for a place and are ready. -/
def Module.readyLaunches (m : Module) : List Launch :=
  m.lu.launches.filter fun l => l.ready.isSome && (l.state == .waiting || l.state == .saved)

/-- How far a queue stands in the turns of a priority level. -/
def Module.turnOf (m : Module) (eff q : Nat) : Nat := (q + 64 - Tab.get 0 m.lu.turns eff) % 64

/-- The candidate among some launches: the greatest effective priority, the oldest of each queue, the queues in turn. -/
def Module.best (m : Module) (ls : List Launch) : Option Launch :=
  let top := (ls.map m.effective).foldl Nat.max 0
  let at_ := ls.filter fun l => m.effective l == top
  let oldest := at_.filter fun l => !at_.any fun o => o.queue == l.queue && decide (o.id < l.id)
  firstWhere (fun l => oldest.all fun o => decide (m.turnOf top l.queue ≤ m.turnOf top o.queue)) oldest

/-- Stops the queues of ready launches that no longer fit the enabled cores (R128, R167). -/
def Module.sizeStops (m : Module) : Module :=
  (m.readyLaunches.filter fun l => !m.fits l m.enabled).foldl (fun m l =>
    let x := m.queue l.queue
    let c := m.sizeCause l.queue
    if x.stopped && x.cause == c then m else m.haltQueue l.queue c) m

/-- The launch that is to be placed: the one victims make room for, else the candidate. One that was picked and could not be placed stays the
candidate while no ready launch has a greater effective priority (R148). -/
def Module.candidate (m : Module) : Option Launch :=
  let ready := m.readyLaunches.filter fun l => m.fits l m.enabled
  match m.lu.claim.bind m.launchOf, firstWhere (fun l => m.lu.pick == some l.id) ready with
  | some l, _ => some l
  | none, some l => if ready.any fun o => decide (m.effective l < m.effective o) then m.best ready else some l
  | none, none => m.best ready

/-- Whether enough crew handles are free for a launch that has not been placed (R146). -/
def Module.handlesFor (m : Module) (l : Launch) : Bool :=
  l.state == .saved ||
    decide ((l.crews.filter fun w => bit w.toNat 63).length ≤ ((range' 0 1024).filter fun h => m.crew h == Crew.free).length)

/-! ## Placement (R142 to R146) -/

/-- A thread as placement leaves it (R144, R285, R475, R478). -/
def Launch.thread (l : Launch) (j : Nat) (hvec : Word64) (handles : List (Option Nat × List Nat)) : Thread :=
  let base : Thread := { Thread.idle with
    status := .running, launch := l.id, queue := l.queue, asid := l.asid, pc := BitVec.ofNat 64 l.code,
    csr := { Csrs.zero with tid := BitVec.ofNat 64 j, nthr := BitVec.ofNat 64 l.nthr, lnum := BitVec.ofNat 64 l.lnum, tvec := hvec,
                            skseed := mix64 (BitVec.ofNat 64 l.lrnd ^^^ BitVec.ofNat 64 (j * 2 ^ 48)) } }
  ((range' 2 4).zip handles).foldl (fun t e => t.wrS e.1 (match e.2.1 with
    | some h => if e.2.2.contains j then BitVec.ofNat 64 h else BitVec.allOnes 64
    | none => BitVec.allOnes 64)) (base.wrS 1 l.arg)

/-- Creates the initial crews of a launch on the lowest free handles, in descriptor order (R146): the handle and the members of each. -/
def Module.initialCrews (m : Module) (l : Launch) : List (Option Nat × List Nat) × Module :=
  l.crews.foldl (fun acc w => match crewDesc w with
    | none => (acc.1 ++ [(none, [])], acc.2)
    | some d => match acc.2.freeCrew with
      | none => (acc.1 ++ [(none, [])], acc.2)
      | some h => (acc.1 ++ [(some h, d.tids)], acc.2.newCrew h l.id d.tids)) ([], m)

/-- Fuses or unfuses the clusters of some cores: their L1s drop their registrations and invalidate themselves (R213). -/
def Module.fuseClusters (m : Module) (cores : List Nat) (on : Bool) : Module :=
  let cl := (cores.map clusterOf).foldl (fun acc c => if acc.contains c then acc else acc ++ [c]) []
  cl.foldl (fun m c =>
    let m1 := (range' (8 * c) 8).foldl Module.l1Flush m
    { m1 with cx := { m1.cx with fused := (m1.cx.fused.filter (· != c)) ++ (if on then [c] else []) } }) m

/-- Notes the clusters on which a launch of a queue's stretch has run (R127). -/
def Module.ranOn (m : Module) (q : Nat) (cores : List Nat) : Module :=
  m.modQueue q fun x => { x with clusters := (cores.map clusterOf).foldl (fun acc c => if acc.contains c then acc else acc ++ [c]) x.clusters }

/-- Unfuses the clusters that no thread occupies. -/
def Module.unfuse (m : Module) : Module :=
  m.fuseClusters ((m.cx.fused.filter fun c => (range' (16 * c) 16).all m.emptyCtx).map (8 * ·)) false

/-- Puts threads on their cores: the context of a primary is bank 0 of an empty core, that of a shadow the free bank (R158, R159). Placement acts
as an acquire, a shadow's too (R144, R241). -/
def Module.seat (m : Module) (l : Launch) (cores : List Nat) (shadow : Bool) : Module :=
  let (handles, m1) := m.initialCrews l
  let m2 := ((range' 0 cores.length).zip cores).foldl (fun m e =>
    let k := e.2
    let m' := (if shadow then m else m.modCore k fun c => { c with primary := false, active := false }).acquire k
    m'.setCtx (if shadow then m'.otherBank k else 2 * k) (l.thread e.1 m'.fe.hvec handles)) m1
  let m3 := if l.fuse then m2.fuseClusters cores true else m2
  (m3.ranOn l.queue cores).modLaunch l.id fun x => { x with state := .running, asShadow := shadow, placed := m.ticks }

/-- The turn passes the queue last served (R148); the candidate is picked anew, and the claim on freed cores ends. -/
def Module.served (m : Module) (l : Launch) : Module :=
  { m with lu := { m.lu with turns := Tab.set 0 m.lu.turns (m.effective l) (l.queue + 1),
                             pick := if m.lu.pick == some l.id then none else m.lu.pick,
                             claim := if m.lu.claim == some l.id then none else m.lu.claim } }

/-! ## Renaming contexts -/

/-- Renames the contexts that a pending request, a gang or a queue entry names. -/
def Pending.rename (f : Nat → Nat) (p : Pending) : Pending :=
  match p with
  | .access c s t => .access (f c) s t
  | .scalar c s t => .scalar (f c) s t
  | .tunnel c s t => .tunnel (f c) s t
  | .copy c s d n t => .copy (f c) s d n t
  | .row c t => .row (f c) t
  | .none => .none
  | .group s j k r a t => .group s j k r a t
  | .post q h t => .post q h t
  | .drop d t => .drop d t
  | .orphan i t => .orphan i t

/-- Renames the contexts of a gang. -/
def Gang.rename (f : Nat → Nat) (g : Gang) : Gang :=
  { g with leader := f g.leader, members := g.members.map f, entered := g.entered.map f, ran := g.ran.map fun e => (f e.1, e.2),
           finished := g.finished.map fun e => (f e.1, e.2) }

/-- Renames the leader that a slice names, and the members of an armed MMAG. A wait for a remote push starts afresh (R378). -/
def Thread.rename (f : Nat → Nat) (t : Thread) : Thread :=
  let arm := fun a : Armed => { a with members := a.members.map f }
  let entry := fun e : MEntry => match e.kind with
    | .slice l g r => { e with kind := .slice (f l) g r, since := none }
    | _ => { e with since := none }
  (t.modX fun x => { x with mq := x.mq.map entry }).modU fun u => { u with
    waitFrom := none, armM := u.armM.map arm, frame := u.frame.map fun r => { r with armM := r.armM.map arm } }

/-- Maps the values of a store, none of which becomes what an unlisted key reads as. -/
def Tab.mapVals {α : Type} (f : α → α) (t : Tab α) : Tab α := t.map fun e => (e.1, f e.2)

/-- Moves a thread from one context to another, with everything that names it. -/
def Module.moveCtx (m : Module) (a b : Nat) : Module :=
  let f := fun c => if c = a then b else c
  let m1 := (m.setCtx b (m.ctx a)).setCtx a Thread.idle
  { m1 with
    cx := { m1.cx with ctxs := Tab.mapVals (Thread.rename f) m1.cx.ctxs, gangs := Tab.mapVals (Gang.rename f) m1.cx.gangs }
    fb := { m1.fb with pending := Tab.mapVals (Pending.rename f) m1.fb.pending,
                       chunks := m1.fb.chunks.map fun e => (f e.1, e.2),
                       spilled := m1.fb.spilled.map fun e => (f e.1, e.2) } }

/-! ## The two banks of a core (R158, R160, R199) -/

/-- A primary leaves its core: a shadow becomes the primary in place, without a move of its bank (R160). A launch all of whose threads have become
primaries is no shadow launch. -/
def Module.promote (m : Module) (k : Nat) : Module :=
  if m.emptyCtx (m.primary k) then
    let m1 := if m.emptyCtx (m.otherBank k) then m else m.modCore k fun c => { c with primary := !c.primary }
    let id := (m1.ctx (m1.primary k)).launch
    let shadows := m1.cx.ctxs.any fun e => decide (e.1 < 2048) && e.2.status != .empty && e.2.launch == id && m1.primary (coreOf e.1) != e.1
    if m1.emptyCtx (m1.primary k) || shadows then m1 else m1.modLaunch id fun x => { x with asShadow := false }
  else m

/-- Whether the primary of a core is stopped on a page fault (R158, R198). -/
def Module.primaryStopped (m : Module) (k : Nat) : Bool := (m.ctx (m.primary k)).pfStopped

/-- The bank whose thread should issue: the shadow's while the primary is stopped on a page fault, else the primary's. -/
def Module.wantedBank (m : Module) (k : Nat) : Bool :=
  let c := m.core k
  if m.primaryStopped k && !m.emptyCtx (m.otherBank k) then !c.primary else c.primary

/-- Whether started C1 operations of a thread still touch its scratchpad: those that wait for Meadow have stopped. -/
def Thread.c1Touches (t : Thread) : Bool :=
  t.x.c1q.any fun e => e.phase != .queued && !e.pf.waits && !e.kind.isMarker && (e.kind.isJob || aperture e.addr == 1 || (match e.kind with
    | .cld _ _ => true
    | .crcn _ _ _ _ => true
    | _ => false))

/-- BANK_SWITCH on core `k`: the exchange with the bank store begins. It discards the hidden tile (R199, R430). -/
def Module.bankSwitch (m : Module) (k : Nat) : Module :=
  let c := m.core k
  if m.wantedBank k = c.active || c.exchange || c.frozen || (m.ctx (m.active k)).c1Touches then m
  else m.modCore k fun c => { c with exchange := true, kat := .none }

/-- BANK_SWITCH (R199). -/
def execBankSwitch (s : State) : Out := .next (s.on fun m => m.bankSwitch (coreOf m.focus))

/-- The exchange with the bank store is over: the other bank's scratchpad and tiles are in the core, and its thread's wait starts afresh (R199, R378). -/
def Module.exchangeDone (m : Module) (k : Nat) : Module :=
  if !(m.core k).exchange then m
  else
    let m1 := m.modCore k fun c => { c with exchange := false, active := !c.active }
    m1.modCtx (m1.active k) fun t => t.modU fun u => { u with waitFrom := none }

/-- BANK_EXCHANGE_COMPLETE (R199). -/
def execBankExchangeComplete (s : State) : Out :=
  .next (s.on fun m => m.exchangeDone (coreOf m.focus))

/-! ## Pre-emption (R152, R374) -/

/-- Victims in the order in which they are taken: ascending claimed priority, the most recently placed first. `now` is a launch that YIELD treats
as placed long enough ago. -/
def Module.victims (m : Module) (h : Launch) (now : Option Nat) : List Launch :=
  let eff := m.effective h
  sortBy (fun a b : Launch => decide (a.prio < b.prio) || (a.prio == b.prio && decide (a.placed ≥ b.placed)))
    (m.lu.launches.filter fun l => l.state == .running && !l.asShadow && decide (l.prio < eff) && l.ctxbase != 0 &&
      (decide (m.ticks ≥ l.placed + 100000) || eff == 7 || now == some l.id))

/-- The shortest run of victims whose cores, with the free ones, let a launch be placed. -/
def Module.enough (m : Module) (h : Launch) : List Launch → List Nat → Option (List Nat)
  | [], _ => none
  | v :: vs, acc =>
    let gone := acc ++ [v.id]
    if m.fits h (m.coreFree gone) then some gone else m.enough h vs gone

/-- PREEMPT: the candidate, where it cannot be placed, has victims chosen for it; their threads stop at their next boundaries (R152). -/
def Module.preempt (m : Module) (now : Option Nat) : Module :=
  match m.lu.claim, m.candidate with
  | none, some h =>
    if !m.handlesFor h || m.fits h (m.coreFree []) then m
    else match m.enough h (m.victims h now) [] with
      | none => m
      | some gone =>
        let m1 := gone.foldl (fun m v => m.modLaunch v fun l => { l with state := .saving }) m
        { m1 with lu := { m1.lu with claim := some h.id } }
  | _, _ => m

/-- YIELD: the launch counts as placed at least 1 ms earlier at this moment (R374). -/
def execYield (s : State) : Out :=
  .next (s.on fun m => match m.launchOf m.th.launch with
    | some l => if l.ctxbase = 0 then m else m.preempt (some l.id)
    | none => m)

/-- The candidate is picked: it goes before every launch of equal or lower effective priority (R148). -/
def Module.picked (m : Module) (l : Launch) : Module := { m with lu := { m.lu with pick := some l.id } }

/-- LAUNCH_PLACE: the candidate is placed whole, or room is made for it (R142, R148, R152, R172). -/
def Module.launchPlace (m : Module) : Module :=
  let m1 := m.sizeStops
  match m1.candidate with
  | none => m1
  | some l =>
    let m2 := m1.picked l
    if l.state != .waiting || !m2.handlesFor l then m2.preempt none
    else match l.cores (m2.coreFree []) with
      | some cores => (m2.served l).seat l cores false
      | none => m2.preempt none

/-- Whether a launch that has not been placed could be placed as a primary: cores and handles are free for it, and no candidate that goes before it is
blocked (R148, R159). -/
def Module.primaryNow (m : Module) (l : Launch) : Bool :=
  let open_ := fun x : Launch => m.handlesFor x && m.fits x (m.coreFree [])
  open_ l && (match m.candidate with
    | none => true
    | some c => c.id == l.id || open_ c || decide (m.effective c < m.effective l))

/-- LAUNCH_PLACE (R142). -/
def execLaunchPlace (s : State) : Out := .next (s.on Module.launchPlace)

/-- Ready launches in the order in which R148 would choose them. -/
def Module.inOrder (m : Module) : Nat → List Launch → List Launch
  | 0, _ => []
  | n + 1, ls => match m.best ls with
    | none => []
    | some l => l :: m.inOrder n (ls.filter fun o => o.id != l.id)

/-- SHADOW_PLACE: the first launch in the order of R148 that may be a shadow, cannot be placed as a primary, and finds banks (R159). -/
def Module.shadowPlace (m : Module) : Module :=
  let ls := (m.inOrder 256 m.readyLaunches).filter fun l =>
    l.state == .waiting && l.shadowOk && !l.fuse && m.lu.claim != some l.id && m.handlesFor l && !m.primaryNow l
  match firstWhere (fun l => (l.cores m.coreShadow).isSome) ls with
  | none => m
  | some l => match l.cores m.coreShadow with
    | some cores => (m.served l).seat l cores true
    | none => m

/-- SHADOW_PLACE (R159). -/
def execShadowPlace (s : State) : Out := .next (s.on Module.shadowPlace)

/-! ## Ending launches -/

/-- The contexts of a launch, on cores and saved. -/
def Module.ctxsOf (m : Module) (id : Nat) : List Nat :=
  (m.cx.ctxs.filter fun e => e.2.status != .empty && e.2.launch == id).map Prod.fst

/-- Empties a context: requests it has made are answered to no one, copies of its multicasts count until they are (R48), its core's clock goes on,
and a shadow in its core becomes primary. -/
def Module.dropCtx (m : Module) (c : Nat) : Module :=
  let idx := fun serial : Nat => (firstWhere (fun e : C1Entry => e.serial == serial) (m.ctx c).x.c1q).bind fun e => match e.kind with
    | .mcast i _ => some i
    | _ => none
  let orphan := fun p : Pending => match p with
    | .access x _ _ => if x = c then .orphan none m.clk.cycle else p
    | .scalar x _ _ => if x = c then .orphan none m.clk.cycle else p
    | .tunnel x _ _ => if x = c then .orphan none m.clk.cycle else p
    | .copy x serial _ _ _ => if x = c then .orphan (idx serial) m.clk.cycle else p
    | .row x _ => if x = c then .orphan none m.clk.cycle else p
    | _ => p
  let m1 := m.setCtx c Thread.idle
  let m2 := { m1 with fb := { m1.fb with
      pending := Tab.mapVals orphan m1.fb.pending
      chunks := m1.fb.chunks.filter fun e => e.1 != c
      spilled := m1.fb.spilled.filter fun e => e.1 != c } }
  let m2 := if c < 2048 && m.active (coreOf c) == c then m2.thaw (coreOf c) else m2
  if c ≥ 2048 then m2
  else if m.primary (coreOf c) = c then (m2.modCore (coreOf c) fun k => { k with post := false }).promote (coreOf c)
  else m2

/-- Takes a launch out of the launch unit: its cores and handles are free (R146, R165). -/
def Module.removeLaunch (m : Module) (id : Nat) : Module :=
  let cs := m.ctxsOf id
  let m2 := (cs.foldl Module.dropCtx m).unfuse
  let gone := fun g : Gang => cs.contains g.leader || g.members.any cs.contains
  { m2 with
    cx := { m2.cx with crews := m2.cx.crews.filter (fun e => e.2.launch != id),
                       gangs := m2.cx.gangs.filter fun e => !gone e.2 }
    lu := { m2.lu with launches := m2.lu.launches.filter (fun l => l.id != id),
                       pick := if m2.lu.pick == some id then none else m2.lu.pick,
                       claim := if m2.lu.claim == some id then none else m2.lu.claim } }

/-- Ends a launch without saving it: DISCARD, RELEASE and replay (R119, R128, R174). -/
def Module.killLaunch (m : Module) (id : Nat) : Module := (m.removeLaunch id).settleReady

/-- The trigger of a launch is complete: TEVT gains 1, and TRIG dependants may go on (R151). -/
def Module.triggerDone (m : Module) (id : Nat) : Module :=
  match m.launchOf id with
  | none => m
  | some l =>
    if l.trigComplete then m
    else
      let m1 := m.modLaunch id fun x => { x with trigComplete := true }
      let m2 := match l.tevt with
        | some n => m1.deliver l.queue n 1 false
        | none => m1
      m2.settleReady

/-- Whether every thread of a launch has made its first trigger or has ended (R151). -/
def Module.allTriggered (m : Module) (l : Launch) : Bool :=
  l.state != .waiting && l.state != .failed && (m.ctxsOf l.id).all fun c => (m.ctx c).u.trigDone || (m.ctx c).status == .ended

/-- TRIGGER_COMPLETE (R151). -/
def execTriggerComplete (launch : Nat) (s : State) : Out :=
  .next (s.on fun m => match m.launchOf launch with
    | some l => if m.allTriggered l then m.triggerDone launch else m
    | none => m)

/-- LAUNCH_END: the trigger completes at the latest now (R168), handles and cores are freed, the command completes (R165), and the queue may
reach a kernel boundary (R125). -/
def Module.launchEnd (m : Module) (l : Launch) : Module :=
  let m1 := ((m.triggerDone l.id).removeLaunch l.id).cevent l.queue l.hdr
  let m2 := if m1.queueIdle l.queue then m1.kernelBoundary l.queue else m1
  m2.settleReady

/-- Ends a launch when its threads have all ended, also while it is being pre-empted. -/
def Module.launchEndIf (m : Module) (id : Nat) : Module :=
  match m.launchOf id with
  | none => m
  | some l => if (l.state == .running || l.state == .saving) && (m.ctxsOf id).all fun c => (m.ctx c).status == .ended then m.launchEnd l else m

/-- Whether a thread that halts has drained (R375). -/
def Thread.drained (t : Thread) : Bool :=
  t.x.sq.isEmpty && t.x.c1q.isEmpty && t.x.mq.isEmpty && t.x.retiring.isEmpty && t.u.held.isEmpty && t.u.closing.isEmpty

/-- THREAD_END: the thread leaves its crews, counts as triggered, and ends; its held post is dropped (R372, R375, R484). -/
def Module.threadEnd (m : Module) (cx : Nat) : Module :=
  let t := m.ctx cx
  if t.status == .halting && t.drained then
    let m1 := m.modCtx cx fun t => ({ t with status := .ended }).modU fun u => { u with land := [], frame := none, trigDone := true }
    let m2 := (m1.crewLeaveAll t.launch t.tidN).modCore (coreOf cx) fun k => { k with post := false }
    m2.gangSettle.launchEndIf t.launch
  else m

/-- THREAD_END (R165). -/
def execThreadEnd (s : State) : Out := .next (s.clocked s.now.focus fun m => m.threadEnd m.focus)

/-! ## Saving and restoring (R154 to R156) -/

/-- Bytes of one image (R155). -/
def ctxImageBytes : Nat := 0x15C000

/-- A bit map of the scratchpad's blocks. -/
def blockBits (l : List Nat) : List Byte :=
  (range' 0 32).map fun i => BitVec.ofNat 8 (natSum ((range' 0 8).map fun b => b2n (l.contains (8 * i + b)) * 2 ^ b))

/-- A saved ring descriptor (R414). -/
def Ring.image (r : Ring) : List Byte :=
  leBytes r.cfg.toNat 8 ++ leBytes r.layout.toNat 8 ++ leBytes (r.head + r.tail * 2 ^ 8 + r.rsv * 2 ^ 16) 8 ++
    leBytes (natSum ((range' 0 16).map fun s => Tab.get 0 r.tags s * 2 ^ (3 * s))) 8

/-- The parts of an image, offset and bytes. Those whose inner layout the spec does not give are free bytes (log entry 25). -/
def Thread.saveImage (t : Thread) (free : List Byte) : List (Nat × List Byte) :=
  let f := fun (o n : Nat) => (free.drop o).take n
  [(0, t.spBytes 0 1048576),
   (0x100000, (range' 0 8).flatMap fun i => (range' 0 9216).flatMap fun j => leBytes (Tab.get 0 (t.tile i) j).toNat 4),
   (0x148000, (range' 0 4).flatMap fun i => Tab.bytes (t.rdQ i) 0 4096),
   (0x14C000, (range' 0 64).flatMap fun i => leBytes (t.rdS i).toNat 8),
   (0x14C200, (range' 0 16).flatMap fun i => leBytes (t.rdP i).toNat 16),
   (0x14C300, padBytes ((range' 0 16).flatMap fun i => leBytes (t.rdE i).toNat 4) 256),
   (0x14C400, (range' 0 8).flatMap fun i => (t.ring i).image),
   (0x14C500, f 0 1024), (0x14C900, f 1024 1280), (0x14CE00, f 2304 512), (0x14D000, f 2816 4096),
   (0x14E000, (range' 0 64).flatMap fun i => leBytes (t.rdV i).toNat 128),
   (0x150000, (range' 0x800 512).flatMap fun n => leBytes (t.csrGet n).toNat 8),
   (0x151000, f 6912 512),
   (0x151200, blockBits t.b.filled ++ blockBits t.b.dirty),
   (0x151240, f 7424 1024),
   (0x151640, List.replicate 43456 0)]

/-- Writes bytes of an image up to the page that faults, or to the half-line whose snoop it waits for. -/
def Module.writeUpTo (m : Module) (die asid va : Nat) (bs : List Byte) : Module × Option Miss :=
  (pagePieces va bs.length).foldl (fun acc p => match acc.2 with
    | some _ => acc
    | none => match acc.1.writeV die asid p.2.1 ((bs.drop p.1).take p.2.2) with
      | .ok m1 => (m1, none)
      | .error c => (acc.1, some c)) (m, none)

/-- Writes the image of a thread. -/
def Module.writeImage (m : Module) (cx : Nat) (l : Launch) : Module × Option Miss :=
  let t := m.ctx cx
  let (free, m1) := m.freeBytes 8448
  (t.saveImage free).foldl (fun acc p => match acc.2 with
    | some _ => acc
    | none => acc.1.writeUpTo (dieOfCore (coreOf cx)) l.asid (l.ctxbase + t.tidN * ctxImageBytes + p.1) p.2) (m1, none)

/-- Whether an operation of the M queue has started and is not done: a drain or a load that has moved some of its rows. -/
def MEntry.begun (e : MEntry) : Bool := decide (0 < e.rows) || e.remote.isSome || e.buf.isSome

/-- Whether a thread's started work has reached the point at which its results exist (R154): nothing of the M queue has still to retire or stands half
done, no slice of a gang has still to retire, and every access that has left the S queue is done. -/
def Module.atRest (m : Module) (cx : Nat) : Bool :=
  let t := m.ctx cx
  t.x.retiring.isEmpty && (t.x.sq.all fun e => e.remote.isNone) && (t.x.mhalt || !(t.x.mq.head?.any MEntry.begun)) &&
    m.cx.gangs.all fun e => e.2.ran.all fun r => r.1 != cx

/-- A launch whose image cannot be written ends without being saved: its threads leave their cores, its queue stops, and its entry stays for its
dependants, which go on waiting (R154, R169). -/
def Module.saveFailed (m : Module) (l : Launch) : Module :=
  let m1 := ((m.ctxsOf l.id).foldl Module.dropCtx m).unfuse
  (m1.modLaunch l.id fun x => { x with state := .failed }).haltQueue l.queue Cause.ctxFault

/-- Takes a thread off its core into a saved context. -/
def Module.unseat (m : Module) (cx : Nat) : Module :=
  let id := (m.ctx cx).launch
  let k := coreOf cx
  let m1 := (m.moveCtx cx (savedCtx id cx)).modCore k fun c => { c with kat := .none }
  m1.promote k

/-- The launch has lost all its threads: it is ready again at once, and ages afresh (R156). -/
def Module.savedAll (m : Module) (l : Launch) : Module :=
  if (m.ctxsOf l.id).any (· < 2048) then m else (m.modLaunch l.id fun x => { x with state := .saved, ready := some m.ticks }).unfuse

/-- CONTEXT_SAVE on a thread of a launch that is pre-empted (R153, R154). A thread that has ended has no image. A thread that a power fault or a
thermal stop holds stays in place (R157). -/
def Module.contextSave (m : Module) (cx : Nat) : Module :=
  let t := m.ctx cx
  match m.launchOf t.launch with
  | none => m
  | some l =>
    if l.state != .saving || t.status == .empty || cx ≥ 2048 || (m.core (coreOf cx)).exchange || m.clockHeld cx || m.dieHalted (dieOfCore (coreOf cx)) then m
    else if t.status == .ended then
      ((m.modLaunch l.id fun x => { x with ended := t.tidN :: x.ended }).dropCtx cx).savedAll l
    else if !m.atRest cx then m
    else match m.writeImage cx l with
      | (m1, none) => (m1.unseat cx).savedAll l
      | (m1, some (.cause _)) => m1.saveFailed l
      | (_, some (.snoop h)) => m.askSnoop h
      | (_, some .wait) => m

/-- CONTEXT_SAVE (R154). -/
def execContextSave (s : State) : Out := .next (s.on fun m => m.contextSave m.focus)

/-- Whether nothing a saved thread started is still to come back (R154). -/
def Thread.settled (t : Thread) : Bool :=
  t.x.c1q.all (fun e => e.phase == .queued) && t.x.mq.all (fun e => e.remote.isNone) && t.b.fills.isEmpty && t.u.closing.isEmpty &&
    (t.u.land ++ (t.u.frame.map fun f => f.land).getD []).all fun e => e.load.isNone

/-- LAUNCH_RESTORE: the candidate's threads take their cores again, with the data and status words that arrived meanwhile in their images; restore
acts as an acquire (R156, R241). -/
def Module.launchRestore (m : Module) (id : Nat) : Module :=
  match m.candidate with
  | none => m
  | some l =>
    if l.id != id || l.state != .saved || (m.savedOf id).any (fun e => !e.2.settled) then m
    else match m.restoreCores l (m.coreFree []) with
      | none => m
      | some places =>
        let m1 := ((m.served l).ranOn l.queue (places.map Prod.snd)).modLaunch id fun x => { x with state := .running, placed := m.ticks }
        let m2 := places.foldl (fun m p =>
          let m' := ((m.writeImage p.1 l).1.modCore p.2 fun c => { c with primary := false, active := false }).acquire p.2
          (m'.moveCtx p.1 (2 * p.2)).modCtx (2 * p.2) fun t => t.modU fun u => { u with icode := [] }) m1
        let m3 := if l.fuse then m2.fuseClusters (places.map Prod.snd) true else m2
        m3.gangSettle.launchEndIf id

/-- LAUNCH_RESTORE (R156). -/
def execLaunchRestore (launch : Nat) (s : State) : Out := .next (s.on fun m => m.launchRestore launch)

end Sys2Proof.Machine
end

