-- ==== Sys2Proof/Machine/Front.lean ====
section
/-!
DEFINITION. The command front end: queue registers, command entries, the commands, stops, and replay: rules R113 to R130, and the ROUND commands'
part of R89 and R101 to R103.
-/

namespace Sys2Proof.Machine

/-! ## Queue registers (R114) -/

/-- Whether a queue is in service. -/
def Queue.enabled (x : Queue) : Bool := bit x.cfg.toNat 0

/-- Entries of a queue's ring. -/
def Queue.entries (x : Queue) : Nat := 2 ^ fld x.cfg.toNat 4 4

/-- The address space of a queue. -/
def Queue.asid (x : Queue) : Nat := fld x.cfg.toNat 8 16

/-- A write of CQCFG: while ENABLE is 1 the ring stays; a LOG2N outside 6 to 16 leaves ENABLE at 0; LEVEL is capped (R114). -/
def Queue.writeCfg (x : Queue) (q : Nat) (v : Word64) : Queue :=
  let w := v.toNat
  let level := if q ≥ 60 then 7 else Nat.min 6 (fld w 1 3)
  let ring := if x.enabled then x.cfg.toNat else w
  let low := decide (fld ring 4 4 < 6)
  let on := bit w 0 && !low
  { x with cfg := BitVec.ofNat 64 (putFld (putFld (ring % 2 ^ 64) 1 3 level) 0 1 (b2n on)),
           cause := if bit w 0 && low then Cause.cmdFormat else x.cause }

/-- CQCFG_WRITE (R114). -/
def execCqcfgWrite (q : BitVec 6) (v : Word64) (s : State) : Out := .next (s.on fun m => m.modQueue q.toNat fun x => x.writeCfg q.toNat v)

/-- A write of TAIL; one that passes the ring's size is ignored (R114). -/
def Queue.writeTail (x : Queue) (t : Word32) : Queue := if (t - x.head).toNat > x.entries then x else { x with tail := t }

/-- CQPTR_TAIL_WRITE (R114, R115). -/
def execCqptrTailWrite (q : BitVec 6) (tail : Word32) (s : State) : Out :=
  .next (s.on fun m => m.modQueue q.toNat fun x => x.writeTail tail)

/-- A write of an event counter; a value below VALUE is ignored (R120). -/
def Module.writeCounter (m : Module) (n : Nat) (v : Word64) : Module :=
  if fld v.toNat 0 48 < m.counter n then m
  else { m with fe := { m.fe with evcnt := Tab.set 0 m.fe.evcnt n (v.setWidth 48) } }.settleReady

/-- EVCNT_WRITE (R120). -/
def execEvcntWrite (n : BitVec 12) (v : Word64) (s : State) : Out := .next (s.on fun m => m.writeCounter n.toNat v)

/-- A write of NRCFG: OVF is cleared by writing 1 (R124). -/
def Module.writeNrcfg (m : Module) (v : Word64) : Module :=
  let keep : Word64 := m.fe.nrcfg &&& 8 &&& ~~~ v
  { m with fe := { m.fe with nrcfg := (v &&& 0xFFFFFFFFFFFFFFF1) ||| keep } }

/-- A write of HEAD by Meadow as it consumes notices. Where one was dropped meanwhile, NOTICE_DROPPED is posted (R124). -/
def Module.writeNrHead (m : Module) (head : Word32) : Module :=
  let m1 := { m with fe := { m.fe with nrptr := BitVec.ofNat 64 (fld m.fe.nrptr.toNat 32 32 * 2 ^ 32 + head.toNat), dropped := 0 } }
  if m.fe.dropped = 0 then m1 else m1.notice 1 0 Cause.noticeDropped 0 (leBytes m.fe.dropped 8)

/-- NRPTR_HEAD_WRITE (R124). -/
def execNrptrHeadWrite (head : Word32) (s : State) : Out := .next (s.on fun m => m.writeNrHead head)

/-! ## Command entries (R116, R117, R119) -/

/-- Whether bytes `o` to `o + n - 1` of an entry are zero. -/
def zeroAt (b : List Byte) (o n : Nat) : Bool := numOf b o n == 0

/-- A condition word of WAIT, none where a reserved bit is set. -/
def waitCond (w : Nat) : Option WaitCond :=
  if fld w 12 3 = 0 then some ⟨BitVec.ofNat 48 (fld w 16 48), bit w 15, BitVec.ofNat 12 (fld w 0 12)⟩ else none

/-- Whether an address of a memory command keeps the form of its space. `remote` marks the remote side of RDMA. -/
def spaceOk (a : Nat) (remote : Bool) : Bool :=
  match fld a 62 2 with
  | 0 => fld a 52 10 == 0
  | 3 => remote
  | _ => true

/-- A memory command from its bytes. -/
def parseMemory (q : BitVec 6) (h : CmdHdr) (b : List Byte) : Option Instr :=
  let src := numOf b 16 8
  let dst := numOf b 24 8
  let len := numOf b 32 8
  let w := fun n : Nat => BitVec.ofNat 64 n
  let param := numOf b 40 8
  let qp := BitVec.ofNat 24 param
  let key : Word32 := BitVec.ofNat 32 (fld param 32 32)
  if !(zeroAt b 9 7 && zeroAt b 48 16) || len == 0 || decide (len > 2 ^ 40) then none
  else match numOf b 8 1 with
    | 0 => if spaceOk src false && spaceOk dst false then some (.memoryCopy q h (w src) (w dst) (w len)) else none
    | 1 => if spaceOk dst false then some (.memoryFill q h (w dst) (w len) (w param)) else none
    | 2 => if spaceOk src false && spaceOk dst true && fld param 24 8 == 0 then some (.rdmaWrite q h (w src) (w dst) (w len) qp key) else none
    | 3 => if spaceOk dst false && spaceOk src true && fld param 24 8 == 0 then some (.rdmaRead q h (w src) (w dst) (w len) qp key) else none
    | _ => none

/-- A ROUND command from its bytes. -/
def parseRound (q : BitVec 6) (h : CmdHdr) (b : List Byte) : Option Instr :=
  let gid := BitVec.ofNat 16 (numOf b 10 2)
  let n := BitVec.ofNat 48 (numOf b 16 6)
  if !(zeroAt b 9 1 && zeroAt b 12 4 && zeroAt b 22 42) then none
  else match numOf b 8 1 with
    | 0 => some (.roundRopen q h gid n)
    | 1 => some (.roundRprep q h gid n)
    | 2 => some (.roundRcmt q h gid n)
    | 3 => some (.roundRrevoke q h gid n)
    | 4 => some (.suspect q h gid n)
    | _ => none

/-- A POST command from its bytes. -/
def parsePost (q : BitVec 6) (h : CmdHdr) (b : List Byte) : Option Instr :=
  let c := numOf b 8 2
  let r := numOf b 12 2
  let v := BitVec.ofNat 48 (numOf b 16 6)
  let remote := if bit r 15 then some (BitVec.ofNat 10 (fld r 0 10)) else none
  if !(fld c 12 4 == 0 && zeroAt b 11 1 && fld r 10 5 == 0 && zeroAt b 14 2 && zeroAt b 22 42) then none
  else match numOf b 10 1 with
    | 0 => some (.postAdd q h (BitVec.ofNat 12 c) remote v)
    | 1 => some (.postMax q h (BitVec.ofNat 12 c) remote v)
    | _ => none

/-- A command entry as the command it is, none where it draws CMD_FORMAT (R119). -/
def parseCommand (q : BitVec 6) (b : List Byte) : Option Instr :=
  let flags := numOf b 1 1
  let evt := numOf b 2 2
  let h : CmdHdr := ⟨bit flags 0, BitVec.ofNat 12 evt⟩
  if fld flags 1 7 ≠ 0 || fld evt 12 4 ≠ 0 || !zeroAt b 4 4 then none
  else match numOf b 0 1 with
    | 1 => if zeroAt b 16 48 then some (.launch q h (BitVec.ofNat 64 (numOf b 8 8))) else none
    | 2 => match waitCond (numOf b 8 8), waitCond (numOf b 16 8), waitCond (numOf b 24 8), waitCond (numOf b 32 8) with
      | some c0, some c1, some c2, some c3 => if zeroAt b 40 24 then some (.wait q h c0 c1 c2 c3) else none
      | _, _, _, _ => none
    | 3 => parseMemory q h b
    | 4 => parseRound q h b
    | 5 => parsePost q h b
    | _ => none

/-! ## Accepting a command (R115, R126, R128) -/

/-- The number of the entry that is being taken: the HEAD value at which it was first taken. -/
def Queue.entryNo (x : Queue) : Word32 :=
  if x.replaying then x.head - BitVec.ofNat 32 x.record.entries.length + BitVec.ofNat 32 x.pos else x.head

/-- The place of the command that is being taken in its stretch. -/
def Queue.place (x : Queue) : Nat := if x.replaying then x.pos else x.record.entries.length

/-- A command has been taken: HEAD advances and the entry is recorded, or the replay goes one entry on. -/
def Module.accept (m : Module) (q : Nat) (i : Instr) : Module :=
  m.modQueue q fun x =>
    if x.replaying then { x with pos := x.pos + 1 }
    else { x.keep 64 fun r => { r with entries := r.entries ++ [i] } with head := x.head + 1 }

/-- Whether one condition of a WAIT holds. -/
def Module.condMet (m : Module) (c : WaitCond) : Bool := !c.valid || decide (c.thresh.toNat ≤ m.counter c.counter.toNat)

/-- LAUNCH (R117, R139, R140). -/
def Module.cmdLaunch (m : Module) (q : Nat) (h : CmdHdr) (record : Nat) (i : Instr) : Module :=
  let x := m.queue q
  let kept := if x.replaying then (firstWhere (fun e : Nat × Nat × Nat => e.1 == x.pos) x.record.launches).map fun e => e.2 else none
  if m.launchFull then m
  else match m.takeLaunch q x.entryNo h record kept with
    | .error (.cause c) => m.haltQueue q c
    | .error (.snoop hl) => m.askSnoop hl
    | .error .wait => m
    | .ok m1 =>
      let m2 := m1.accept q i
      match x.replaying, m1.lu.launches.getLast? with
      | false, some l => m2.modQueue q fun y => y.keep 0 fun r => { r with launches := r.launches ++ [(x.place, l.lnum, l.lrnd)] }
      | _, _ => m2

/-- WAIT: completes at once, or holds every later command (R118). One that had completed before a replay completes at once in it, because counters
never decrease; one that was still held is held again (R128, R130). -/
def Module.cmdWait (m : Module) (q : Nat) (h : CmdHdr) (cs : List WaitCond) (i : Instr) : Module :=
  let m1 := m.accept q i
  if cs.all m.condMet then m1.cevent q h else m1.modQueue q fun x => { x with waiting := some (h, cs) }

/-- WAIT_SATISFIED: the held WAIT of the queue in focus completes (R118). -/
def Module.waitDone (m : Module) (q : Nat) : Module :=
  match (m.queue q).waiting with
  | none => m
  | some (h, cs) => if cs.all m.condMet then (m.modQueue q fun x => { x with waiting := none }).cevent q h else m

/-- WAIT_SATISFIED (R118). -/
def execWaitSatisfied (s : State) : Out := .next (s.on fun m => m.waitDone m.qfocus)

/-- Whether the bytes of a command come in from host memory, the pool or an RDMA READ (R126). -/
def MemCmd.inward (c : MemCmd) : Bool := c.mop == 3 || (c.mop == 0 && fld c.src.toNat 62 2 != 0)

/-- The bytes that a command brought in before the replay that is running (R126, R128). -/
def Module.inboundOf (m : Module) (q : Nat) (c : MemCmd) : Option (List Byte) :=
  let x := m.queue q
  if x.replaying && c.inward then (firstWhere (fun e : Nat × List Byte => e.1 == c.place) x.record.inbound).map Prod.snd else none

/-- A message leaves on a scale-out port, where one is up and the keys are installed (R53, R117, R131). -/
def Module.rdmaSend (m : Module) (x : RdmaOut) : Module :=
  if m.keyed && !m.fb.ethUp.isEmpty then { m with fb := { m.fb with rdmaOut := m.fb.rdmaOut ++ [x] } } else m

/-- MEMORY: the command starts, and an RDMA READ is asked for; it runs concurrently with those after it (R118). `mop` is 0 COPY, 1 FILL, 2 RDMA WRITE, 3 RDMA READ. -/
def Module.cmdMemory (m : Module) (q : Nat) (h : CmdHdr) (mop : Nat) (src dst len param : Word64) (qp rkey : Nat) (i : Instr) : Module :=
  let c : MemCmd := { id := m.fe.cmdNext, hdr := h, mop := mop, src := src, dst := dst, len := len.toNat, param := param, qp := qp, rkey := rkey,
                      place := (m.queue q).place, pf := .none }
  let m0 := if mop = 3 && (m.inboundOf q c).isNone then m.rdmaSend (.read (BitVec.ofNat 24 qp) (BitVec.ofNat 32 rkey) src c.len) else m
  let m1 := (m0.accept q i).modQueue q fun x => { x with mems := x.mems ++ [c] }
  { m1 with fe := { m1.fe with cmdNext := m1.fe.cmdNext + 1 } }

/-! ## Memory commands (R55, R117, R118, R126) -/

/-- How the front end makes accesses for a queue. -/
def Module.frontAcc (m : Module) (q : Nat) : Acc := ⟨0, (m.queue q).asid, 0, false, false, false, false, none⟩

/-- Reads a range of a memory command's space. Bytes of host memory arrive with the event, or stand as this module last wrote them. -/
def Module.spaceRead (m : Module) (q : Nat) (a : Word64) (n : Nat) (inbound : List Byte) : Except Stop (List Byte × Module) :=
  let x := a.toNat
  match fld x 62 2 with
  | 0 => m.readG (m.frontAcc q) (fld x 0 52) n
  | 1 =>
    if m.mm.hostDown then .error (.fault Cause.hostCompleter x)
    else .ok (if inbound.length = n then inbound else Tab.bytes m.mm.hostMem (fld x 0 62) n, m)
  | _ =>
    if fld x 0 62 + n > 2 ^ 42 then .error (.fault Cause.addrAperture x)
    else if m.poolBad (fld x 0 62) n false then .error (.fault Cause.memPoison x)
    else .ok (Tab.bytes m.mm.pool (fld x 0 62) n, m)

/-- Writes a range of a memory command's space. -/
def Module.spaceWrite (m : Module) (q : Nat) (a : Word64) (bs : List Byte) : Except Stop Module :=
  let x := a.toNat
  match fld x 62 2 with
  | 0 => m.writeG (m.frontAcc q) (fld x 0 52) bs
  | 1 =>
    if m.mm.hostDown then .error (.fault Cause.hostCompleter x)
    else .ok { m with mm := { m.mm with hostMem := Tab.putBytes m.mm.hostMem (fld x 0 62) bs } }
  | _ =>
    if fld x 0 62 + bs.length > 2 ^ 42 then .error (.fault Cause.addrAperture x)
    else if m.poolBad (fld x 0 62) bs.length true then .error (.fault Cause.memPoison x)
    else .ok (m.poolPut (fld x 0 62) bs)

/-- The bytes a memory command moves: of a fill its pattern, in a replay those recorded, else those of its source. -/
def Module.memSource (m : Module) (q : Nat) (c : MemCmd) (inbound : List Byte) : Except Stop (List Byte × Module) :=
  match c.mop, m.inboundOf q c with
  | _, some bs => .ok (bs, m)
  | 1, none => .ok ((range' 0 c.len).map fun j => BitVec.ofNat 8 (fld c.param.toNat (8 * (j % 8)) 8), m)
  | 3, none => if inbound.length = c.len then .ok (inbound, m) else .ok (m.freeBytes c.len)
  | _, none => m.spaceRead q c.src c.len inbound

/-- Writes what a memory command moves; an RDMA WRITE leaves the module with its queue pair, remote key and address (R53, R117). -/
def Module.memDest (m : Module) (q : Nat) (c : MemCmd) (bs : List Byte) : Except Stop Module :=
  if c.mop = 2 then .ok (m.rdmaSend (.write (BitVec.ofNat 24 c.qp) (BitVec.ofNat 32 c.rkey) c.dst bs)) else m.spaceWrite q c.dst bs

/-- Takes a memory command off its queue. -/
def Module.dropMem (m : Module) (q id : Nat) : Module := m.modQueue q fun x => { x with mems := x.mems.filter fun c => c.id != id }

/-- A memory command fails: the queue stops with the cause (R119). -/
def Module.memFail (m : Module) (q id : Nat) (c : Cause) : Module := (m.dropMem q id).haltQueue q c

/-- What a stopped memory command waits for, or its failure. -/
def Module.memStop (m : Module) (q : Nat) (c : MemCmd) (kind : PfKind) (st : Stop) : Module :=
  match st with
  | .fault e a => (m.noteFull e a).memFail q c.id e
  | .part e a _ m1 => (m1.noteFull e a).memFail q c.id e
  | st =>
    let (w, m1) := m.askStop (m.frontAcc q) kind st
    m1.modQueue q fun x => { x with mems := x.mems.map fun d => if d.id = c.id then { d with pf := w } else d }

/-- MEMORY_COMPLETE: the bytes are moved, the last one at its destination, and the command completes; or it fails with the cause that its port
reports. -/
def Module.memoryComplete (m : Module) (q id : Nat) (cause : Cause) (inbound : List Byte) : Module :=
  match firstWhere (fun c : MemCmd => c.id == id) (m.queue q).mems with
  | none => m
  | some c =>
    if cause ≠ 0 then m.memFail q id cause
    else if c.pf.waits then m
    else match c.pf.cause with
      | some e => m.memFail q id e
      | none => match m.memSource q c inbound with
        | .error st => m.memStop q c .read st
        | .ok (bs, m1) => match m1.memDest q c bs with
          | .error st => m.memStop q c .write st
          | .ok m2 =>
            let m3 := if c.inward && (m.inboundOf q c).isNone then
                m2.modQueue q fun x => x.keep c.len fun r => { r with inbound := r.inbound ++ [(c.place, bs)] }
              else m2
            (m3.dropMem q id).cevent q c.hdr

/-- MEMORY_COMPLETE (R118). -/
def execMemoryComplete (q : BitVec 6) (id : Nat) (cause : BitVec 7) (inbound : List Byte) (s : State) : Out :=
  .next (s.on fun m => m.memoryComplete q.toNat id cause inbound)

/-- A cancelled memory command leaves each destination byte at its old or its new value: a free bit of each decides (R119; log entry 4). -/
def Module.memCancel (m : Module) (q : Nat) (c : MemCmd) : Module :=
  if c.mop = 2 then m.dropMem q c.id
  else match m.memSource q c [], m.spaceRead q c.dst c.len [] with
  | .ok (new, m1), .ok (old, _) =>
    let (free, m2) := m1.freeBytes c.len
    let bs := ((new.zip old).zip free).map fun e => if bit e.2.toNat 0 then e.1.1 else e.1.2
    match m2.memDest q c bs with
    | .ok m3 => m3.dropMem q c.id
    | .error _ => m.dropMem q c.id
  | _, _ => m.dropMem q c.id

/-- Cancels every memory command of a queue. -/
def Module.cancelMems (m : Module) (q : Nat) : Module := (m.queue q).mems.foldl (fun m c => m.memCancel q c) m

/-! ## ROUND commands (R89, R101, R103, R117) -/

/-- A ROUND command completes; one with ROP RCMT is a kernel boundary (R125). HEAD advances only now: R117 leaves it at an entry that is refused, so
it has to stand there while the answer is awaited (log entry 67). -/
def Module.roundComplete (m : Module) (q : Nat) (h : CmdHdr) (i : Instr) : Module :=
  let place := (m.queue q).place
  let m1 := (m.accept q i).modQueue q fun x =>
    { x.keep 0 (fun r => { r with rounds := if r.rounds.contains place then r.rounds else r.rounds ++ [place] }) with busy := none }
  let m2 := m1.cevent q h
  match i with
  | .roundRcmt _ _ _ _ => m2.kernelBoundary q
  | _ => m2

/-- Whether a ROUND command has completed before the replay that is running (R128). -/
def Queue.roundKnown (x : Queue) : Bool := x.replaying && x.record.rounds.contains x.pos

/-- The checks of every ROUND command but SUSPECT, then its effect. -/
def Module.cmdRound (m : Module) (q : Nat) (h : CmdHdr) (gid : Nat) (i : Instr) (body : Nat → Module → Module) : Module :=
  let x := m.queue q
  if x.roundKnown then m.roundComplete q h i
  else match m.slotOf gid x.asid with
    | none => m.haltQueue q Cause.groupConfig
    | some slot =>
      let g := m.group slot
      if g.fenced then m.haltQueue q Cause.groupFenced
      else if g.lost then m.haltQueue q Cause.groupLost
      else body slot m

/-- A ROUND command whose answer is there: refused, or complete. -/
def Module.roundAnswered (m : Module) (q : Nat) (h : CmdHdr) (i : Instr) (r : Cause × Module) : Module :=
  if r.1 = 0 then r.2.roundComplete q h i else m.haltQueue q r.1

/-- Goes on once no line of the round awaits a snoop. -/
def Module.unblocked (m : Module) (slot : Nat) (body : Module) : Module :=
  match (if (m.group slot).state = 0 then m.prepareBlocked slot else none) with
  | some hl => m.askSnoop hl
  | none => body

/-- A ROUND command waits for the round controller. -/
def Module.roundHeld (m : Module) (q : Nat) (h : CmdHdr) (i : Instr) (slot n : Nat) : Module :=
  m.modQueue q fun x => { x with busy := some (.round i h slot n m.clk.cycle) }

/-- RCMT. -/
def Module.cmdRcmt (m : Module) (q : Nat) (h : CmdHdr) (gid : Nat) (i : Instr) : Module :=
  m.cmdRound q h gid i fun slot m =>
    let g := m.group slot
    if g.state = 3 || g.state = 4 then m.roundComplete q h i
    else m.unblocked slot
      (let m1 := m.rcmtStart slot
       if (m1.group slot).decidedAt g.round then m1.roundComplete q h i else m1.roundHeld q h i slot g.round)

/-- RREVOKE, from queues 60 to 63. -/
def Module.cmdRrevoke (m : Module) (q : Nat) (h : CmdHdr) (gid n : Nat) (i : Instr) : Module :=
  if q < 60 then m.haltQueue q Cause.cmdPriv
  else m.cmdRound q h gid i fun slot m =>
    if (m.group slot).mayRevoke n then
      let m1 := m.rrevokeStart slot n
      if (m1.group slot).revokeDone n then m1.roundComplete q h i else m1.roundHeld q h i slot n
    else m.haltQueue q Cause.roundClosed

/-- Sets SUSPECT in an entry of GLOG. -/
def Module.setSuspect (m : Module) (slot n : Nat) : Module :=
  m.modGroup slot fun g => { g with glog := Tab.set glogEmpty g.glog (n % 16) (g.log n ||| BitVec.ofNat 64 (2 ^ 60)) }

/-- ROUND_SUSPECT with the GID and the round. -/
def Module.suspectNotice (m : Module) (slot n : Nat) : Module :=
  m.notice 2 slot Cause.roundSuspect 0 (leBytes (m.group slot).gid 2 ++ leBytes n 6)

/-- SUSPECT, from queues 60 to 63 (R117). -/
def Module.cmdSuspect (m : Module) (q : Nat) (h : CmdHdr) (gid n : Nat) (i : Instr) : Module :=
  if q < 60 then m.haltQueue q Cause.cmdPriv
  else if (m.queue q).roundKnown then m.roundComplete q h i
  else match firstWhere (fun s => (m.group s).valid && (m.group s).gid == gid) (range' 0 8) with
    | none => m.haltQueue q Cause.groupConfig
    | some slot =>
      let g := m.group slot
      if g.logs n && fld (g.log n).toNat 61 3 == 3 then ((m.setSuspect slot n).suspectNotice slot n).roundComplete q h i
      else m.haltQueue q Cause.roundClosed

/-- ROUND_ANSWER on a slot: every held round instruction and ROUND command that has its answer (R486). -/
def Module.roundAnswer (m : Module) (slot : Nat) : Module :=
  let g := m.group slot
  (range' 0 64).foldl (fun m q => match (m.queue q).busy with
    | some (.round i h s n _) =>
      let done := match i with
        | .roundRrevoke _ _ _ _ => g.revokeDone n
        | _ => g.decidedAt n
      if s = slot && done then m.roundComplete q h i else m
    | _ => m) (m.roundAnswers slot g.answerOf)

/-- ROUND_ANSWER (R486). -/
def execRoundAnswer (s : State) : Out := .next (s.on fun m => m.roundAnswer m.gfocus)

/-- RCMT_TIMEOUT on a slot: what has waited GTLIM for a decision ends with ROUND_TIMEOUT; the round is left as it is (R89). -/
def Module.rcmtTimeout (m : Module) (slot : Nat) : Module :=
  let g := m.group slot
  let late := fun since : Nat => decide (since + g.gtlim ≤ m.clk.cycle)
  let word := fun h : RoundHold => match h.op with
    | .rcmt _ _ => if late h.since && !g.decidedAt h.round then some (g.report Cause.roundTimeout) else none
    | _ => none
  (range' 0 64).foldl (fun m q => match (m.queue q).busy with
    | some (.round (.roundRcmt _ _ _ _) _ s n since) =>
      if s = slot && late since && !g.decidedAt n then (m.modQueue q fun x => { x with busy := none }).haltQueue q Cause.roundTimeout else m
    | _ => m) (m.roundAnswers slot word)

/-- RCMT_TIMEOUT (R89). -/
def execRcmtTimeout (s : State) : Out := .next (s.on fun m => m.rcmtTimeout m.gfocus)

/-! ## POST (R118, R121, R122) -/

/-- First offset of the event counters in a window (R121). -/
def postBase : Nat := 0xFFFFFFFF0000

/-- A post from another module, or from this one through its own window: counters 2,048 to 4,095 accept it, and there are none above (R121). -/
def Module.remotePost (m : Module) (off v : Nat) (isMax : Bool) : Cause × Module :=
  let n := (off - postBase) / 8
  if off % 8 ≠ 0 then (Cause.addrAlign, m)
  else if n < 2048 then (Cause.remotePerm, m)
  else if n ≥ 4096 then (Cause.remoteUnmapped, m)
  else (0, m.countUp n v isMax)

/-- The response to a remote POST: the command has been delivered and completes, or stops its queue (R121, R126). -/
def Module.postAnswer (m : Module) (q cause : Nat) : Module :=
  match (m.queue q).busy with
  | some (.post i h) =>
    let m1 := m.modQueue q fun x => { x with busy := none }
    if cause = 0 then ((m1.accept q i).countPost q).cevent q h else m1.haltQueue q (BitVec.ofNat 7 cause)
  | _ => m

/-- POST (R117, R121). -/
def Module.cmdPost (m : Module) (q : Nat) (h : CmdHdr) (n : Nat) (remote : Option (BitVec 10)) (v : Nat) (isMax : Bool) (i : Instr) : Module :=
  match remote with
  | none => ((m.accept q i).deliver q n v isMax).cevent q h
  | some d =>
    let off := postBase + 8 * n
    if (m.queue q).skips then ((m.accept q i).countPost q).cevent q h
    else
      let m2 := m.modQueue q fun x => { x with busy := some (.post i h) }
      if m.isSelf d.toNat then
        let (c, m3) := m2.remotePost off v isMax
        m3.postAnswer q c.toNat
      else
        let op := if isMax then AmoOp.max true else .add
        (m2.request (2052 + q) d.toNat off (.atomic op true (BitVec.ofNat 64 v) 0) (.post q h m.clk.cycle)).2

/-! ## Meanings of the commands -/

/-- LAUNCH (R117). -/
def execLaunch (q : BitVec 6) (h : CmdHdr) (record : Word64) (s : State) : Out :=
  .next (s.on fun m => m.cmdLaunch q.toNat h record.toNat (.launch q h record))

/-- WAIT (R117). -/
def execWait (q : BitVec 6) (h : CmdHdr) (c0 c1 c2 c3 : WaitCond) (s : State) : Out :=
  .next (s.on fun m => m.cmdWait q.toNat h [c0, c1, c2, c3] (.wait q h c0 c1 c2 c3))

/-- MEMORY COPY (R117). -/
def execMemoryCopy (q : BitVec 6) (h : CmdHdr) (src dst len : Word64) (s : State) : Out :=
  .next (s.on fun m => m.cmdMemory q.toNat h 0 src dst len 0 0 0 (.memoryCopy q h src dst len))

/-- MEMORY FILL (R117). -/
def execMemoryFill (q : BitVec 6) (h : CmdHdr) (dst len pattern : Word64) (s : State) : Out :=
  .next (s.on fun m => m.cmdMemory q.toNat h 1 0 dst len pattern 0 0 (.memoryFill q h dst len pattern))

/-- RDMA WRITE (R53, R117). -/
def execRdmaWrite (q : BitVec 6) (h : CmdHdr) (src dst len : Word64) (qp : BitVec 24) (key : Word32) (s : State) : Out :=
  .next (s.on fun m => m.cmdMemory q.toNat h 2 src dst len 0 qp.toNat key.toNat (.rdmaWrite q h src dst len qp key))

/-- RDMA READ (R53, R117). -/
def execRdmaRead (q : BitVec 6) (h : CmdHdr) (src dst len : Word64) (qp : BitVec 24) (key : Word32) (s : State) : Out :=
  .next (s.on fun m => m.cmdMemory q.toNat h 3 src dst len 0 qp.toNat key.toNat (.rdmaRead q h src dst len qp key))

/-- ROUND with ROP ROPEN (R117). -/
def execRoundRopen (q : BitVec 6) (h : CmdHdr) (gid : BitVec 16) (round : BitVec 48) (s : State) : Out :=
  .next (s.on fun m => m.cmdRound q.toNat h gid.toNat (.roundRopen q h gid round) fun slot m =>
    m.roundAnswered q.toNat h (.roundRopen q h gid round) (m.ropen slot round.toNat))

/-- ROUND with ROP RPREP (R117). -/
def execRoundRprep (q : BitVec 6) (h : CmdHdr) (gid : BitVec 16) (round : BitVec 48) (s : State) : Out :=
  .next (s.on fun m => m.cmdRound q.toNat h gid.toNat (.roundRprep q h gid round) fun slot m =>
    m.unblocked slot (m.roundAnswered q.toNat h (.roundRprep q h gid round) (m.rprep slot)))

/-- ROUND with ROP RCMT (R117). -/
def execRoundRcmt (q : BitVec 6) (h : CmdHdr) (gid : BitVec 16) (round : BitVec 48) (s : State) : Out :=
  .next (s.on fun m => m.cmdRcmt q.toNat h gid.toNat (.roundRcmt q h gid round))

/-- ROUND with ROP RREVOKE (R117). -/
def execRoundRrevoke (q : BitVec 6) (h : CmdHdr) (gid : BitVec 16) (round : BitVec 48) (s : State) : Out :=
  .next (s.on fun m => m.cmdRrevoke q.toNat h gid.toNat round.toNat (.roundRrevoke q h gid round))

/-- ROUND with ROP SUSPECT (R117). -/
def execSuspect (q : BitVec 6) (h : CmdHdr) (gid : BitVec 16) (round : BitVec 48) (s : State) : Out :=
  .next (s.on fun m => m.cmdSuspect q.toNat h gid.toNat round.toNat (.suspect q h gid round))

/-- POST with POP ADD (R117). -/
def execPostAdd (q : BitVec 6) (h : CmdHdr) (counter : BitVec 12) (remote : Option (BitVec 10)) (value : BitVec 48) (s : State) : Out :=
  .next (s.on fun m => m.cmdPost q.toNat h counter.toNat remote value.toNat false (.postAdd q h counter remote value))

/-- POST with POP MAX (R117). -/
def execPostMax (q : BitVec 6) (h : CmdHdr) (counter : BitVec 12) (remote : Option (BitVec 10)) (value : BitVec 48) (s : State) : Out :=
  .next (s.on fun m => m.cmdPost q.toNat h counter.toNat remote value.toNat true (.postMax q h counter remote value))

/-! ## Taking commands, stopping and resuming (R115, R118, R119) -/

/-- Whether a command starts only when every earlier one of its queue has completed (R118). -/
def startsAlone (i : Instr) : Bool :=
  match i with
  | .roundRopen _ _ _ _ | .roundRprep _ _ _ _ | .roundRcmt _ _ _ _ | .roundRrevoke _ _ _ _ | .suspect _ _ _ _ | .postAdd _ _ _ _ _
  | .postMax _ _ _ _ _ => true
  | _ => false

/-- Runs a command of a queue. -/
def Module.command (m : Module) (i : Instr) : Module :=
  let run := fun o : Out => match o with
    | .next s => s.now
    | _ => m
  let s : State := ⟨m, none⟩
  match i with
  | .launch q h r => run (execLaunch q h r s)
  | .wait q h a b c d => run (execWait q h a b c d s)
  | .memoryCopy q h a b c => run (execMemoryCopy q h a b c s)
  | .memoryFill q h a b c => run (execMemoryFill q h a b c s)
  | .rdmaWrite q h a b c d e => run (execRdmaWrite q h a b c d e s)
  | .rdmaRead q h a b c d e => run (execRdmaRead q h a b c d e s)
  | .roundRopen q h g n => run (execRoundRopen q h g n s)
  | .roundRprep q h g n => run (execRoundRprep q h g n s)
  | .roundRcmt q h g n => run (execRoundRcmt q h g n s)
  | .roundRrevoke q h g n => run (execRoundRrevoke q h g n s)
  | .suspect q h g n => run (execSuspect q h g n s)
  | .postAdd q h n r v => run (execPostAdd q h n r v s)
  | .postMax q h n r v => run (execPostMax q h n r v s)
  | _ => m

/-- The command that a queue would take next, with the module once it has been read: of a replay the recorded one, else the entry at HEAD, or the
cause that stops the queue, or what reading it waits for. -/
def Module.nextCommand (m : Module) (q : Nat) : Option (Except Miss Instr × Module) :=
  let x := m.queue q
  if !x.enabled || x.stopped || x.waiting.isSome || x.busy.isSome then none
  else if x.replaying then
    (if x.clusters.any m.cx.suspect.contains then none else (nth? x.pos x.record.entries).map fun i => (.ok i, m))
  else if x.head = x.tail then none
  else match m.readV 0 x.asid (fld x.cfg.toNat 24 40 * 4096 + 64 * (x.head.toNat % x.entries)) 64 with
    | .error c => some (.error c, m)
    | .ok (b, m1) => match parseCommand (BitVec.ofNat 6 q) b with
      | none => some (.error (.cause Cause.cmdFormat), m1)
      | some i => some (.ok i, m1)

/-- COMMAND_TAKE on a queue (R115, R118, R119). -/
def Module.commandTake (m : Module) (q : Nat) : Module :=
  match m.nextCommand q with
  | none => m
  | some (.error (.cause c), m1) => m1.haltQueue q c
  | some (.error (.snoop h), m1) => m1.askSnoop h
  | some (.error .wait, m1) => m1
  | some (.ok i, m1) => if startsAlone i && !m1.queueIdle q then m else m1.command i

/-- COMMAND_TAKE (R118). -/
def execCommandTake (s : State) : Out := .next (s.on fun m => m.commandTake m.qfocus)

/-- CTL STOP: the queue takes no further entry; what has started goes on (R119). -/
def Module.queueStop (m : Module) (q : Nat) : Module := m.stopQueue q 0

/-- CTL RESUME (R119). -/
def Module.queueResume (m : Module) (q : Nat) : Module := m.modQueue q fun x => { x with stopped := false }

/-- CTL DISCARD, accepted while STOPPED is 1 (R119, R169). What is discarded leaves the stretch. -/
def Module.queueDiscard (m : Module) (q : Nat) : Module :=
  if !(m.queue q).stopped then m
  else
    let m1 := (m.launchesOf q).foldl (fun m l => m.killLaunch l.id) (m.cancelMems q)
    m1.modQueue q fun x => { x with head := x.tail, waiting := none, busy := none, replaying := false, record := Replay.empty, pos := 0,
                                    skipPosts := 0, clusters := [] }

/-- QUEUE_STOP (R119). -/
def execQueueStop (s : State) : Out := .next (s.on fun m => m.queueStop m.qfocus)
/-- QUEUE_RESUME (R119). -/
def execQueueResume (s : State) : Out := .next (s.on fun m => m.queueResume m.qfocus)
/-- QUEUE_DISCARD (R119). -/
def execQueueDiscard (s : State) : Out := .next (s.on fun m => m.queueDiscard m.qfocus)

/-- A write of CQSTAT: CTL alone acts (R114). -/
def Module.writeCqstat (m : Module) (q : Nat) (v : Word64) : Module :=
  match fld v.toNat 8 2 with
  | 1 => m.queueStop q
  | 2 => m.queueResume q
  | 3 => m.queueDiscard q
  | _ => m

/-! ## Replay (R101, R102, R127, R128) -/

/-- The groups of a queue's stretch that stand in PREPARING or PREPARED (R101). -/
def Module.closedGroups (m : Module) (q : Nat) : List Nat :=
  (m.queue q).record.groups.filter fun s => (m.group s).valid && ((m.group s).state == 1 || (m.group s).state == 2)

/-- Starts the replay of one queue, or stops it with REPLAY_FAILED. A remote POST in flight counts as delivered (log entry 50). -/
def Module.replayQueue (m : Module) (q : Nat) : Module :=
  let x := m.queue q
  let closed := m.closedGroups q
  if x.noreplay || decide (x.replays ≥ 2) || fld x.rpl.toNat 56 8 == 0 then m.haltQueue q Cause.replayFailed
  else if !closed.isEmpty then (closed.foldl (fun m s => m.noVote s Cause.replayFailed) m).haltQueue q Cause.replayFailed
  else
    let m0 := match x.busy with
      | some (.post i _) => (if x.replaying then m else m.accept q i).countPost q
      | _ => m
    let m1 := (m0.launchesOf q).foldl (fun m l => m.killLaunch l.id) (m0.cancelMems q)
    m1.modQueue q fun y => { y with replaying := true, pos := 0, skipPosts := y.record.posts, waiting := none, busy := none }

/-- What a mismatch does to the rounds of a data member: a NO vote while its round is open, else SUSPECT on the rounds committed since the
last passing MKCMP on the cluster (R102). -/
def Module.suspectRounds (m : Module) (cluster : Nat) (c : Cause) : Module :=
  (range' 0 8).foldl (fun m s =>
    let g := m.group s
    if !g.valid || !g.isData then m
    else if g.state < 3 then m.noVote s c
    else
      let since := Tab.get 0 m.cx.passed (8 * cluster + s)
      let bad := (range' 0 16).filterMap fun i =>
        let w := (Tab.get glogEmpty g.glog i).toNat
        if fld w 61 3 = 3 && decide (fld w 0 48 > since) then some (fld w 0 48) else none
      if bad == [g.round] && g.state == 3 && bit g.cfg.toNat 40 then m
      else (sortBy (fun a b : Nat => decide (a ≤ b)) bad).foldl (fun m n => (m.setSuspect s n).siloNotice s Cause.roundSuspect (leBytes (m.group s).gid 2 ++ leBytes n 6)) m) m

/-- REPLAY_START: a cluster is suspect, and every queue whose stretch holds a launch that ran on it is replayed (R127, R128). -/
def Module.replayStart (m : Module) (cluster : Nat) (c : Cause) : Module :=
  let m1 := if c = Cause.katMismatch || c = Cause.tmrDiverge then m.suspectRounds cluster c else m
  let m2 := { m1 with cx := { m1.cx with suspect := if m1.cx.suspect.contains cluster then m1.cx.suspect else cluster :: m1.cx.suspect } }
  ((range' 0 64).filter fun q => (m2.queue q).clusters.contains cluster).foldl Module.replayQueue m2

/-- REPLAY_START (R127). -/
def execReplayStart (cluster : Nat) (cause : BitVec 7) (s : State) : Out :=
  if cluster < 128 then .next (s.on fun m => m.replayStart cluster cause) else .fault .noSuchUnit

/-- KNOWN_ANSWER_SWEEP_COMPLETE: a cluster that passes is no longer suspect, one that fails is disabled (R128). -/
def Module.sweepDone (m : Module) (cluster : Nat) (passed : Bool) : Module :=
  if !m.cx.suspect.contains cluster then m
  else
    let m1 := { m with cx := { m.cx with suspect := m.cx.suspect.filter (· != cluster) } }
    if passed then m1 else (range' (8 * cluster) 8).foldl (fun m k => m.modCore k fun c => { c with disabled := true }) m1

/-- KNOWN_ANSWER_SWEEP_COMPLETE (R128). -/
def execKnownAnswerSweepComplete (cluster : Nat) (passed : Bool) (s : State) : Out := .next (s.on fun m => m.sweepDone cluster passed)

/-- REPLAY_DONE: the stretch has caught up with its queue; the notice carries NDSEEN (R128, R130). -/
def Module.replayDone (m : Module) (q : Nat) : Module :=
  let x := m.queue q
  if x.replaying && decide (x.pos ≥ x.record.entries.length) then
    (m.modQueue q fun y => { y with replaying := false, replays := y.replays + 1, skipPosts := 0 }).notice 1 q Cause.replayDone 0 [if x.ndseen then 1 else 0]
  else m

/-- REPLAY_DONE (R128). -/
def execReplayDone (s : State) : Out := .next (s.on fun m => m.replayDone m.qfocus)

end Sys2Proof.Machine
end

