-- ==== Sys2Proof/Machine/Jobs.lean ====
section
/-!
DEFINITION. Engine jobs: descriptors, footprints, edges, and the elements each job moves: rules R161 to R164, R445 to R453, R463, R464
and R468. A job moves its elements one after the other, with one request to another module at a time (log entry 24).
-/

namespace Sys2Proof.Machine

/-! ## Descriptors (R449, R452, R463) -/

/-- A dimension of a copy: iterations, source stride, destination stride. -/
structure Dim where
  bound : Nat
  sstr : Int
  dstr : Int
  deriving DecidableEq, Repr

/-- The descriptor of CPY or CPYR. -/
structure CopyDesc where
  src : Nat
  dst : Nat
  elog : Nat
  sspan : Nat
  lsz : Nat
  nline : Nat
  dims : List Dim
  deriving DecidableEq, Repr

/-- The descriptor of GATH or SCAT. -/
structure IdxDesc where
  tbl : Nat
  lin : Nat
  idx : Nat
  n : Nat
  rlen : Nat
  tstr : Int
  lstr : Int
  tlen : Nat
  wide : Bool
  deriving DecidableEq, Repr

/-- A level of a collective: iterations, peer coefficients, strides. -/
structure Level where
  bound : Nat
  a : Int
  b : Int
  sstr : Int
  dstr : Int
  deriving DecidableEq, Repr

/-- The record of COLL. -/
structure CollDesc where
  src : Nat
  ptab : Nat
  opk : Nat
  ring : Bool
  ridx : Nat
  key : Nat
  clen : Nat
  peers : Nat
  span : Nat
  doff : Nat
  levels : List Level
  deriving DecidableEq, Repr

/-- A signed number of `n` bytes at an offset. -/
def sNumAt (b : List Byte) (off n : Nat) : Int := toSigned (numAt b off n) (8 * n)

/-- The most bytes a job may move (R445). -/
def jobMax : Nat := 2 ^ 30 - 1

/-- The product of a list. -/
def natProd (l : List Nat) : Nat := l.foldl (· * ·) 1

/-- Iterations of a copy. -/
def CopyDesc.iters (d : CopyDesc) : Nat := natProd (d.dims.map (·.bound))
/-- Bytes of a copy element. -/
def CopyDesc.size (d : CopyDesc) : Nat := 2 ^ d.elog
/-- Transfers of a collective. -/
def CollDesc.iters (d : CollDesc) : Nat := natProd (d.levels.map (·.bound))
/-- Bytes of one transfer. -/
def CollDesc.size (d : CollDesc) : Nat := 64 * d.clen

/-- Reads and checks a copy descriptor of 128 bytes (R449). -/
def parseCopy (ring : Bool) (b : List Byte) : Option CopyDesc :=
  let ctl := numAt b 16 8
  let ndim := fld ctl 0 3
  let dim := fun k => (⟨numAt b (32 + 16 * k) 4, sNumAt b (36 + 16 * k) 6, sNumAt b (42 + 16 * k) 6⟩ : Dim)
  let d : CopyDesc := ⟨numAt b 0 8, numAt b 8 8, fld ctl 4 3, fld ctl 8 3, fld ctl 16 16, fld ctl 32 16, (range' 0 ndim).map dim⟩
  let dimOk := fun k => if k < ndim then (dim k).bound != 0 && (!ring || (dim k).dstr == 0) else numAt b (32 + 16 * k) 16 == 0
  let ok := decide (1 ≤ ndim) && decide (ndim ≤ 6) && !bit ctl 3 && !bit ctl 7 && fld ctl 11 5 == 0 && fld ctl 48 16 == 0 &&
    numAt b 24 8 == 0 && ((range' 0 6).all dimOk) &&
    (if ring then d.dst == 0 && d.lsz % 16 == 0 && (d.nline == 0 || decide (16 ≤ d.lsz)) else d.sspan == 0 && d.lsz == 0 && d.nline == 0) &&
    decide (d.size * d.iters ≤ jobMax)
  if ok then some d else none

/-- Reads and checks a gather or scatter descriptor of 64 bytes (R452). -/
def parseIdx (b : List Byte) : Option IdxDesc :=
  let d : IdxDesc := ⟨numAt b 0 8, numAt b 8 8, numAt b 16 8, numAt b 24 4, numAt b 28 4, sNumAt b 32 8, sNumAt b 40 8, numAt b 48 8,
    numAt b 56 1 == 1⟩
  if decide (1 ≤ d.n) && decide (d.n ≤ 2 ^ 24) && decide (1 ≤ d.rlen) && decide (d.rlen ≤ 2 ^ 20) && decide (1 ≤ d.tlen) &&
      decide (d.tlen ≤ 2 ^ 52) && decide (numAt b 56 1 ≤ 1) && numAt b 57 7 == 0 && decide (d.n * d.rlen ≤ jobMax) then some d else none

/-- Reads and checks a collective's record of 128 bytes (R463). -/
def parseColl (b : List Byte) : Option CollDesc :=
  let ctl := numAt b 16 8
  let doff := numAt b 24 8
  let nlev := fld ctl 0 2 + 1
  let ring := bit ctl 4
  let lev := fun l => (⟨numAt b (32 + 24 * l) 4, sNumAt b (36 + 24 * l) 2, sNumAt b (38 + 24 * l) 2, sNumAt b (40 + 24 * l) 8,
    sNumAt b (48 + 24 * l) 8⟩ : Level)
  let ls := (range' 0 4).map fun l => if l < nlev then lev l else { lev l with bound := 1 }
  let d : CollDesc := ⟨numAt b 0 8, numAt b 8 8, fld ctl 2 2, ring, fld ctl 5 3, fld ctl 8 6, fld ctl 16 16, fld ctl 32 11, fld ctl 48 3,
    fld doff 0 20, ls⟩
  let levOk := fun l => if l < nlev then (lev l).bound != 0 && (if ring then (lev l).dstr == 0 else (lev l).dstr % 64 == 0) else (lev l).bound == 0
  if decide (d.src / 2 ^ 60 ≤ 1) && d.ptab % 8 == 0 && fld ctl 14 2 == 0 && fld ctl 43 5 == 0 && fld ctl 51 13 == 0 && d.clen != 0 &&
      d.peers != 0 && decide (d.peers ≤ 1024) && doff / 2 ^ 20 == 0 && doff % 64 == 0 && (!ring || (doff == 0 && d.opk == 0)) &&
      ((range' 0 4).all levOk) && decide (d.size * d.iters ≤ jobMax) then some d else none

/-- A checked descriptor. -/
inductive Desc where
  | copy (d : CopyDesc)
  | idx (d : IdxDesc)
  | coll (d : CollDesc)
  deriving DecidableEq, Repr

/-- Bytes of a job's descriptor. -/
def C1Kind.descSize : C1Kind → Nat
  | .cpy | .cpyr _ | .coll => 128
  | .gath | .scat => 64
  | .rld _ _ _ | .rst _ _ | .amo _ _ _ _ _ | .rsc _ _ _ | .skamo _ _ | .cld _ _ | .cst _ _ _ _ | .crcn _ _ _ _ | .mcast _ _
  | .marker _ _ | .trigMark | .qfence => 0

/-- Reads and checks the descriptor of a job. -/
def C1Kind.parse (k : C1Kind) (b : List Byte) : Option Desc :=
  match k with
  | .cpy => (parseCopy false b).map .copy
  | .cpyr _ => (parseCopy true b).map .copy
  | .gath | .scat => (parseIdx b).map .idx
  | .coll => (parseColl b).map .coll
  | _ => none

/-! ## Footprints (R161, R448) -/

/-- The space of a generic address (R161), its offset there, and the space's size; none where the aperture's zero bits are not zero. -/
def spaceOf (a : Nat) : Option (Nat × Nat × Nat) :=
  let ap := fld a 60 4
  if !apertureZero a ap then none
  else match ap with
    | 0 => some (16, fld a 0 52, 2 ^ 52)
    | 1 => some (0, fld a 0 20, 2 ^ 20)
    | 2 => some (1 + fld a 20 3, fld a 0 20, 2 ^ 20)
    | 3 => some (32 + fld a 48 10, fld a 0 48, 2 ^ 48)
    | _ => some (17, fld a 0 42, 2 ^ 42)

/-- A region from `lo` to `hi` relative to a base; none where it would leave the base's space. -/
def regionAt (a : Nat) (lo hi : Int) : Option Region :=
  (spaceOf a).bind fun s =>
    let l := (s.2.1 : Int) + lo
    let h := (s.2.1 : Int) + hi
    if 0 ≤ l && h ≤ s.2.2 then some ⟨s.1, l.toNat, h.toNat⟩ else none

/-- The sum of a list of integers. -/
def intSum (l : List Int) : Int := l.foldl (· + ·) 0

/-- A box of items of a size, over iterations and strides. -/
def boxAt (a : Nat) (dims : List (Nat × Int)) (size : Nat) : Option Region :=
  let spans := dims.map fun d => ((d.1 : Int) - 1) * d.2
  regionAt a (intSum (spans.map fun x => min 0 x)) (intSum (spans.map fun x => max 0 x) + size)

/-- Read and write regions of a job; `ring` is the range a CPYR fills. -/
def footprint (k : C1Kind) (d : Desc) (ring : Region) : Option (List Region × List Region) :=
  match d with
  | .copy d =>
    let src := boxAt d.src (d.dims.map fun x : Dim => (x.bound, x.sstr)) d.size
    let dst := match k with
      | .cpyr _ => some ring
      | _ => boxAt d.dst (d.dims.map fun x : Dim => (x.bound, x.dstr)) d.size
    src.bind fun s => dst.map fun t => ([s], [t])
  | .idx d =>
    let list := regionAt d.idx 0 (d.n * (if d.wide then 8 else 4))
    let tbl := regionAt d.tbl 0 d.tlen
    let lin := boxAt d.lin [(d.n, d.lstr)] d.rlen
    list.bind fun i => tbl.bind fun t => lin.map fun l => if k = .gath then ([i, t], [l]) else ([i, l], [t])
  | .coll d =>
    (boxAt d.src (d.levels.map fun x : Level => (x.bound, x.sstr)) d.size).bind fun s =>
      (regionAt d.ptab 0 (8 * d.peers)).map fun t => ([s, t], [])

/-- Whether two regions overlap. -/
def Region.meets (a b : Region) : Bool := a.space == b.space && decide (a.lo < b.hi) && decide (b.lo < a.hi)

/-- Whether any two regions of two lists overlap. -/
def anyMeet (a b : List Region) : Bool := a.any fun x => b.any fun y => x.meets y

/-- Whether a later job has an edge to an earlier one (R162). The ring ranges of two CPYRs of one ring make none (R448). -/
def jobEdge (ri : Option Nat) (readsI writesI : List Region) (rj : Option Nat) (readsJ writesJ : List Region) : Bool :=
  let same := ri.isSome && ri == rj
  anyMeet writesI readsJ || anyMeet readsI writesJ || (!same && anyMeet writesI writesJ)

/-- The ring a job fills. -/
def C1Kind.ring : C1Kind → Option Nat
  | .cpyr g => some g
  | _ => none

/-! ## Starting (R162, R164, R414, R445, R451) -/

/-- Whether an MRCFG of a ring that issued before an entry is still to execute (R412). -/
def Thread.mrcfgBefore (t : Thread) (g serial : Nat) : Bool :=
  t.x.mq.any fun e => match e.kind with
    | .mrcfg r _ _ => r == g && decide (e.serial ≤ serial)
    | _ => false

/-- A ring as the MRCFGs issued before an entry will leave it. -/
def Thread.ringAt (t : Thread) (g serial : Nat) : Ring :=
  t.x.mq.foldl (fun r e => match e.kind with
    | .mrcfg k w _ => if k = g && decide (e.serial ≤ serial) then { r with cfg := w } else r
    | _ => r) (t.ring g)

/-- The range of a ring in the scratchpad. -/
def Ring.range (r : Ring) : Region := ⟨0, r.base, r.base + r.n * r.esz⟩

/-- Whether a job's descriptor may be read: every earlier job's has been, and no marker or queue fence stands before it. -/
def jobReachable (l : List C1Entry) : Bool :=
  l.all fun e => !e.kind.isMarker && e.kind != .qfence && (!e.kind.isJob || e.known)

/-- Reads the descriptor of job `i` (R445). -/
def Module.jobRead (m : Module) (cx i : Nat) (e : C1Entry) : Module :=
  let bad := fun (m : Module) (c : Cause) => (m.modC1 cx i fun x => { x with known := true }).c1Fail cx i c
  match e.pf.cause with
  | some c => bad m c
  | none =>
    match m.sourceBytes cx e e.addr e.kind.descSize 64 with
    | .error (.fault c _) => bad m c
    | .error (.part c _ _ _) => bad m c
    | .error st => m.c1Stop cx i e.user .read st
    | .ok (bs, m1) => match e.kind.parse bs with
      | none => bad m1 Cause.descFormat
      | some d => match footprint e.kind d ((m1.ctx cx).ringAt (e.kind.ring.getD 0) e.serial).range with
        | none => bad m1 Cause.addrAperture
        | some (r, w) => m1.modC1 cx i fun x => { x with known := true, desc := bs, reads := r, writes := w, pf := .none }

/-- Whether a job has an edge to an earlier one that has not completed. -/
def Thread.jobWaits (t : Thread) (i : Nat) (e : C1Entry) : Bool :=
  (t.x.c1q.take i).any fun x => x.kind.isJob && jobEdge x.kind.ring x.reads x.writes e.kind.ring e.reads e.writes

/-- Whether a job has an edge to one that faulted or was cancelled (R164). -/
def Thread.jobCancelled (t : Thread) (e : C1Entry) : Bool :=
  t.x.failed.any fun f => jobEdge f.1 f.2.1 f.2.2 e.kind.ring e.reads e.writes

/-- Whether a job runs. -/
def C1Entry.running (e : C1Entry) : Bool :=
  e.kind.isJob && match e.phase with
    | .started | .remote _ => true
    | .queued | .done _ _ _ _ => false

/-- Whether an entry is a ring-mode collective (R464). -/
def C1Entry.ringColl (e : C1Entry) : Bool :=
  match e.kind.parse e.desc with
  | some (.coll d) => d.ring
  | _ => false

/-- Whether a job whose edges are released must still wait: for an MRCFG or a free slot of its ring, or for the ring-mode collective that
runs (R412, R414, R464). -/
def Thread.jobHeld (t : Thread) (e : C1Entry) : Bool :=
  match e.kind with
  | .cpyr g => t.mrcfgBefore g e.serial || ((t.ring g).esz != 0 && (t.ring g).free == 0)
  | .coll => e.ringColl && t.x.c1q.any fun x => x.running && x.ringColl
  | _ => false

/-- Whether job `i` could start. -/
def Thread.jobReady (t : Thread) (i : Nat) : Bool :=
  match nth? i t.x.c1q with
  | none => false
  | some e => e.kind.isJob && e.known && e.phase == C1Phase.queued && !t.jobWaits i e && !t.jobHeld e

/-- Starts job `i`; a CPYR checks its ring and reserves a slot (R451). -/
def Module.jobBegin (m : Module) (cx i : Nat) (e : C1Entry) : Module :=
  let go := fun (m : Module) (slot : Option Nat) => m.modC1 cx i fun x => { x with phase := .started, slot := slot }
  match e.kind, e.kind.parse e.desc with
  | .cpyr g, some (.copy d) =>
    let r := (m.ctx cx).ring g
    if r.esz = 0 then m.c1Fail cx i Cause.ringConfig
    else if d.size * d.iters > r.esz then m.c1Fail cx i Cause.descFormat
    else
      let (s, r1) := r.reserve d.sspan
      go (m.modRing cx g fun _ => r1) (some s)
  | .coll, some (.coll d) => go (if d.opk = 1 || d.opk = 2 then m.orderDependent cx else m) none
  | _, _ => go m none

/-- JOB_START on entry `i`: its descriptor is read; once its edges are released it is cancelled or starts, in issue order, at most four at
once. -/
def Module.jobStart (m : Module) (cx i : Nat) : Module :=
  let t := m.ctx cx
  match nth? i t.x.c1q with
  | none => m
  | some e =>
    if !e.kind.isJob || e.phase != .queued || t.pfStopped || !jobReachable (t.x.c1q.take i) then m
    else
      let m1 := if e.known then m else m.jobRead cx i e
      let t1 := m1.ctx cx
      match nth? i t1.x.c1q with
      | none => m1
      | some e1 =>
        if !e1.known || e1.phase != .queued || t1.jobWaits i e1 then m1
        else if t1.jobCancelled e1 then m1.c1Done cx i 3 0 Cause.jobCancelled 0
        else if !t1.jobReady i || (range' 0 i).any t1.jobReady || decide ((t1.x.c1q.filter C1Entry.running).length ≥ 4) then m1
        else m1.jobBegin cx i e1

/-- JOB_START (R162, R445). -/
def execJobStart (ctx idx : Nat) (s : State) : Out := .next (s.clocked ctx fun m => m.jobStart ctx idx)

/-! ## Elements (R447, R450, R451, R453, R464) -/

/-- Elements of a job. -/
def Desc.count : Desc → Nat
  | .copy d => d.iters
  | .idx d => d.n
  | .coll d => d.iters

/-- The iteration counts of element `n`, dimension 0 fastest. -/
def iterOf : List Nat → Nat → List Nat
  | [], _ => []
  | b :: bs, n => n % b :: iterOf bs (n / b)

/-- A base plus strides, modulo 2^64. -/
def strided (base : Nat) (l : List (Nat × Int)) : Nat := ofInt ((base : Int) + intSum (l.map fun e => (e.1 : Int) * e.2)) 64

/-- Source and destination address of copy element `n`. -/
def CopyDesc.elem (d : CopyDesc) (n : Nat) : Nat × Nat :=
  let i := iterOf (d.dims.map (·.bound)) n
  (strided d.src (i.zip (d.dims.map (·.sstr))), strided d.dst (i.zip (d.dims.map (·.dstr))))

/-- Offset in its entry of byte `p` of a CPYR's stream (R451). -/
def CopyDesc.swizzle (d : CopyDesc) (p : Nat) : Nat :=
  if p < d.nline * d.lsz then p / d.lsz * d.lsz + ((p % d.lsz) ^^^ (16 * (p / d.lsz % 2 ^ d.sspan))) else p

/-- What one step of an element comes to: finished with bytes delivered; a change, after which the element goes on or waits; a request sent; a
stop; or a fault. -/
inductive Elem where
  | done (m : Module) (n : Nat)
  | again (m : Module)
  | sent (m : Module)
  | stop (kind : PfKind) (st : Stop)
  deriving DecidableEq, Repr

/-- Reads bytes for a job: here, or by a request. -/
def Module.jobFetch (m : Module) (cx i : Nat) (e : C1Entry) (a n : Nat) (put : Module → List Byte → Module) : Elem :=
  match m.place cx e.user (BitVec.ofNat 64 a) n with
  | .error st => .stop .read st
  | .ok p =>
    let here := match m.readP cx e.user false p n with
      | .ok (bs, m1) => Elem.again (put m1 bs)
      | .error st => .stop .read st
    match p with
    | .remote d o => if m.isSelf d then here else .sent (m.c1Send cx i e.serial d o (.read n))
    | _ => here

/-- Writes bytes for a job: here, or by a request. -/
def Module.jobStore (m : Module) (cx i : Nat) (e : C1Entry) (a : Nat) (bs : List Byte) : Elem :=
  match m.place cx e.user (BitVec.ofNat 64 a) bs.length with
  | .error st => .stop .write st
  | .ok p =>
    let here := match m.writeP cx e.user false p bs with
      | .ok m1 => Elem.done m1 bs.length
      | .error st => .stop .write st
    match p with
    | .remote d o => if m.isSelf d then here else .sent (m.c1Send cx i e.serial d o (.write bs))
    | _ => here

/-- Keeps bytes that an element has read. -/
def Module.keepBuf (m : Module) (cx i : Nat) (bs : List Byte) : Module := m.modC1 cx i fun x => { x with buf := some bs }
/-- Keeps the index or the peer that an element has read. -/
def Module.keepIdx (m : Module) (cx i : Nat) (bs : List Byte) : Module :=
  m.modC1 cx i fun x => { x with value := some (sext64 (leNat bs) (8 * bs.length)) }

/-- Moves bytes from one address to another. -/
def Module.jobMove (m : Module) (cx i : Nat) (e : C1Entry) (src dst n : Nat) : Elem :=
  match e.buf with
  | none => m.jobFetch cx i e src n fun m bs => m.keepBuf cx i bs
  | some bs => m.jobStore cx i e dst bs

/-- Writes the bytes of one element of a CPYR into its entry. -/
def Module.entryPut (m : Module) (cx : Nat) (e : C1Entry) (d : CopyDesc) (base p : Nat) (bs : List Byte) : Except Stop Module :=
  foldStop (fun m x => m.spWrite cx e.user true (base + d.swizzle (p + x.1)) [x.2]) ((range' 0 bs.length).zip bs) m

/-- An offset on the receiver's window or ring, and whether the write is the last of its chunk. -/
def CollDesc.target (d : CollDesc) (core off sent n : Nat) : Nat :=
  if d.ring then ringBase + core * 2 ^ 27 + d.ridx * 2 ^ 24 + b2n (sent + n == d.size) * 2 ^ 23 + sent
  else winBase + core * 2 ^ 28 + d.opk * 2 ^ 26 + d.key * 2 ^ 20 + off + sent

/-- The peer of transfer `n`. -/
def CollDesc.peer (d : CollDesc) (n : Nat) : Nat :=
  let i := iterOf (d.levels.map (·.bound)) n
  ((intSum ((i.zip d.levels).map fun e => e.2.a * e.1 + e.2.b)) % (d.peers : Int)).toNat

/-- The source address of transfer `n`. -/
def CollDesc.source (d : CollDesc) (n : Nat) : Nat := strided d.src ((iterOf (d.levels.map (·.bound)) n).zip (d.levels.map (·.sstr)))

/-- The receiver offset of transfer `n`; none outside the window's range. -/
def CollDesc.offset (d : CollDesc) (n : Nat) : Option Nat :=
  let o := (d.doff : Int) + intSum (((iterOf (d.levels.map (·.bound)) n).zip (d.levels.map (·.dstr))).map fun e => (e.1 : Int) * e.2)
  if 0 ≤ o && o < 2 ^ 20 then some o.toNat else none

/-- One write of a transfer: `bs` are the bytes still to send. A peer entry whose upper bits are not zero breaks the format (R463). A write to this
module is looped back (R35). -/
def Module.collSend (m : Module) (cx i : Nat) (e : C1Entry) (d : CollDesc) (off : Nat) (peer : Word64) (bs : List Byte) : Elem :=
  let dev := fld peer.toNat 0 10
  let sent := d.size - bs.length
  let pkt := bs.take 256
  let o := d.target (fld peer.toNat 10 10) off sent pkt.length
  if fld peer.toNat 20 44 ≠ 0 then .stop .read (.fault Cause.descFormat 0)
  else if m.isSelf dev then
    let r := if d.ring then m.ringArrival ⟨m.devid, 0, coreOf cx, BitVec.ofNat 3 d.span, o, pkt⟩ else m.windowArrival o pkt
    match r with
    | .ok m1 => .done m1 pkt.length
    | .reject => .stop .write (.fault Cause.collReject 0)
    | .hold => .stop .write .wait
  else .sent (m.c1Send cx i e.serial dev o (if d.ring then .chunk (coreOf cx) (BitVec.ofNat 3 d.span) pkt else .write pkt))

/-- One step of the element in progress. -/
def Module.elemStep (m : Module) (cx i : Nat) (e : C1Entry) (d : Desc) : Elem :=
  let n := e.next
  match d with
  | .copy d =>
    let (sa, da) := d.elem n
    match e.kind, e.slot, e.buf with
    | .cpyr g, some s, some bs =>
      (match m.entryPut cx e d (((m.ctx cx).ring g).entry s) (n * d.size) bs with
      | .ok m1 => .done m1 bs.length
      | .error st => .stop .fill st)
    | _, _, _ => m.jobMove cx i e sa da d.size
  | .idx d =>
    match e.value with
    | none => m.jobFetch cx i e ((d.idx + n * (if d.wide then 8 else 4)) % 2 ^ 64) (if d.wide then 8 else 4) fun m bs => m.keepIdx cx i bs
    | some x =>
      let t := ofInt ((d.tbl : Int) + x.toInt * d.tstr) 64
      let l := strided d.lin [(n, d.lstr)]
      if t < d.tbl || d.tbl + d.tlen < t + d.rlen then .stop .read (.fault Cause.indexRange t)
      else if e.kind = .gath then m.jobMove cx i e t l d.rlen
      else m.jobMove cx i e l t d.rlen
  | .coll d =>
    match d.offset n with
    | none => .stop .read (.fault Cause.descFormat 0)
    | some off => match e.value, e.buf with
      | none, _ => m.jobFetch cx i e ((d.ptab + 8 * d.peer n) % 2 ^ 64) 8 fun m bs => m.keepIdx cx i bs
      | some _, none => m.jobFetch cx i e (d.source n) d.size fun m bs => m.keepBuf cx i bs
      | some p, some bs => m.collSend cx i e d off p bs

/-- Bytes of the element in progress were delivered: a collective's transfer goes on to its next write, another element to the next one. -/
def C1Entry.delivered (e : C1Entry) (n : Nat) : C1Entry :=
  let e1 := { e with phase := .started, count := e.count + n, pf := .none }
  match e.kind, e.buf with
  | .coll, some bs =>
    if bs.length > n then { e1 with buf := some (bs.drop n) } else { e1 with next := e.next + 1, buf := none, value := none }
  | _, _ => { e1 with next := e.next + 1, buf := none, value := none }

/-- DETAIL of an element number. -/
def elemDetail (n : Nat) : BitVec 25 := BitVec.ofNat 25 (satNat n 25)

/-- The element in progress faults: what was delivered stays (R447). -/
def Module.jobFault (m : Module) (cx i : Nat) (e : C1Entry) (count : Nat) (c : Cause) : Module :=
  m.c1Done cx i (if count = 0 then 2 else 1) count c (elemDetail e.next)

/-- Moves elements until the job ends, stops or sends a request. Each element takes at most three steps, a transfer one more for each
write; `fuel` bounds them all. -/
def Module.jobRun : Nat → Module → Nat → Nat → Module
  | 0, m, _, _ => m
  | fuel + 1, m, cx, i =>
    match m.c1 cx i with
    | none => m
    | some e =>
      if e.phase != .started then m
      else match e.kind.parse e.desc with
        | none => m
        | some d =>
          if e.next ≥ d.count then m.c1Done cx i 0 e.count 0 0
          else match e.pf.cause with
            | some c => m.jobFault cx i e e.count c
            | none => match m.elemStep cx i e d with
              | .done m1 n => Module.jobRun fuel (m1.modC1 cx i fun x => x.delivered n) cx i
              | .again m1 => Module.jobRun fuel m1 cx i
              | .sent m1 => m1
              | .stop _ (.fault c a) => (m.noteFull c a).jobFault cx i e e.count c
              | .stop .write (.part c a n m1) => (m1.noteFull c a).jobFault cx i e (e.count + n) c
              | .stop _ (.part c a _ m1) => (m1.noteFull c a).jobFault cx i e e.count c
              | .stop k st => m.c1Stop cx i e.user k st

/-- Ends job `i`: its token, its arrival, the slot it filled, and where it failed its footprint for the jobs that have an edge to it
(R164, R446, R451). -/
def Module.jobEnd (m : Module) (cx i : Nat) (e : C1Entry) (st count : Nat) (c : Cause) (det : BitVec 25) : Module :=
  let m1 := m.modCtx cx fun t => t.c1Finish i e st count c det
  let m2 := if st = 0 then m1 else m1.modCtx cx fun t => t.modX fun x => { x with failed := x.failed ++ [(e.kind.ring, e.reads, e.writes)] }
  let m3 := match e.bound with
    | some (h, x) => m2.jobArrive h x (if st = 0 then 0 else c)
    | none => m2
  match e.kind.ring, e.slot with
  | some g, some s => m3.modRing cx g fun r => r.fillDone s (st != 0)
  | _, _ => m3

/-- Steps that surely end a job. -/
def jobFuel : Nat := 2 ^ 33

/-- JOB_COMPLETE on entry `i`: moves what is left of the job, and ends it where it has come to its end. -/
def Module.jobComplete (m : Module) (cx i : Nat) : Module :=
  let t := m.ctx cx
  match nth? i t.x.c1q with
  | none => m
  | some e =>
    if !e.kind.isJob || e.phase == .queued then m
    else
      let m1 := if e.phase == .started && !e.pf.waits then Module.jobRun jobFuel m cx i else m
      match m1.c1 cx i with
      | some e1 => match e1.phase with
        | .done st count c det => m1.jobEnd cx i e1 st count c det
        | _ => m1
      | none => m1

/-- JOB_COMPLETE (R447). -/
def execJobComplete (ctx idx : Nat) (s : State) : Out := .next (s.clocked ctx fun m => m.jobComplete ctx idx)

/-! ## Answers from other modules, and pool timeouts -/

/-- Whether the answer a job waits for is that of a read: an index, a peer, or the bytes of an element. -/
def C1Entry.reading (e : C1Entry) : Bool :=
  match e.kind with
  | .cpy | .cpyr _ => e.buf.isNone
  | _ => e.value.isNone || e.buf.isNone

/-- The response to a request of a job. -/
def Module.jobAnswer (m : Module) (cx i : Nat) (e : C1Entry) (cause count : Nat) (bs : List Byte) : Module :=
  if cause ≠ 0 then m.jobFault cx i e (e.count + (if e.reading then 0 else count)) (BitVec.ofNat 7 cause)
  else if !e.reading then m.modC1 cx i fun x => x.delivered count
  else
    let m1 := m.modC1 cx i fun x => { x with phase := .started }
    match e.kind, e.value with
    | .cpy, _ => m1.keepBuf cx i bs
    | .cpyr _, _ => m1.keepBuf cx i bs
    | _, none => m1.keepIdx cx i bs
    | _, some _ => m1.keepBuf cx i bs

/-- The response to a plain request of the C1 queue, of a job or of a single operation (R36, R45). -/
def Module.accessAnswer (m : Module) (cx serial cause count : Nat) (bs : List Byte) : Module :=
  match (m.ctx cx).c1Index serial with
  | none => m
  | some i => match m.c1 cx i with
    | none => m
    | some e => if e.kind.isJob then m.jobAnswer cx i e cause count bs else m.c1Answer cx serial cause count bs

/-- Addresses that the step in progress of a job reads or writes. -/
def C1Entry.addresses (e : C1Entry) : List Nat :=
  match e.kind.parse e.desc with
  | some (.copy d) => [(d.elem e.next).1, (d.elem e.next).2]
  | some (.idx d) => [d.idx, d.tbl, d.lin]
  | some (.coll d) => [d.src, d.ptab]
  | none => [e.addr.toNat]

end Sys2Proof.Machine
end

