-- ==== Sys2Proof/Machine/Matrix.lean ====
section
/-!
DEFINITION. The M slot and the matrix engine: operand images, products, ganged products, tiles, drains, rings and known-answer tiles: rules
R189, R201, R275, R276, R408 to R432, R451 and R500.
-/

namespace Sys2Proof.Machine

/-! ## Operand images (R413) -/

/-- Elements per side of a tile. -/
def tileSide : Nat := 96

/-- A number rounded up to a multiple of 16. -/
def up16 (n : Nat) : Nat := (n + 15) / 16 * 16

/-- Bytes of a line of `k` elements before rounding. -/
def lineBytes (f : Fmt) (k : Nat) : Nat := if fmtSx f then k / 32 * sxBytes f else k * fmtBits f / 8

/-- Line size LS. -/
def lineSize (f : Fmt) (k : Nat) : Nat := up16 (lineBytes f k)

/-- Bytes of an image of `l` lines. -/
def imageBytes (f : Fmt) (l k : Nat) : Nat := l * lineSize f k + if fmtMx f then up16 (l * (k / 32)) else 0

/-- RING_LAYOUT's conditions on an entry that is read (R413). -/
def Ring.layoutBad (r : Ring) (f : Fmt) (l k : Nat) : Bool :=
  lineSize f k % (16 * 2 ^ r.span) != 0 || decide (imageBytes f l k > r.esz) || (r.fmt != 0 && r.fmt != fmtCode f) ||
    Tab.get 0 r.tags (r.slot r.head) != r.span

/-- Line `i` of an image at an offset of the scratchpad, unswizzled. -/
def Thread.imageLine (t : Thread) (base : Nat) (span : Nat) (f : Fmt) (k i : Nat) : Nat :=
  let ls := lineSize f k
  leNat ((range' 0 (ls / 16)).flatMap fun q => t.spBytes (base + i * ls + 16 * (q ^^^ (i % 2 ^ span))) 16)

/-- Element `j` of a line, with its block's scale byte. -/
def lineElem (f : Fmt) (line scale j : Nat) : FVal :=
  if fmtSx f then sxValue f (fld line (8 * sxBytes f * (j / 32)) (8 * sxBytes f)) (j % 32)
  else
    let x := laneOf line (fmtBits f) j
    if fmtMx f then mxValue f scale x else decodeFP (fpOf f) x

/-- The lines of an image, decoded. -/
def Thread.image (t : Thread) (base span : Nat) (f : Fmt) (l k : Nat) : List (List FVal) :=
  (range' 0 l).map fun i =>
    let line := t.imageLine base span f k i
    (range' 0 k).map fun j =>
      let scale := if fmtMx f then leNat (t.spBytes (base + l * lineSize f k + i * (k / 32) + j / 32) 1) else 0
      lineElem f line scale j

/-! ## The dot product (R275) -/

/-- The magnitude of a term, in units of 2^u and truncated, with its sign. -/
def windowTerm (u : Int) : FVal → Int
  | .fin s m e =>
    let x : Nat := if u ≤ e then m * 2 ^ (e - u).toNat else m / 2 ^ (u - e).toNat
    if s then -(x : Int) else x
  | .nan => 0
  | .inf _ => 0

/-- The greatest exponent of the non-zero terms. -/
def topExp (l : List FVal) : Option Int :=
  l.foldl (fun acc v => match v with
    | .fin _ m e => if m = 0 then acc else match acc with
      | none => some (floorLog2 m e)
      | some x => some (max x (floorLog2 m e))
    | _ => acc) none

/-- One group of at most 32 products added to the accumulator, whose FINOV is that of the table. -/
def dotGroup (tbl : BitVec 128) (acc : Nat) (ps : List FVal) : Nat :=
  let l := ofF32 acc :: ps
  let pos := l.any fun v => v == .inf false
  let neg := l.any fun v => v == .inf true
  if l.any FVal.isNan || (pos && neg) then 0x7FC00000
  else if pos then infBits fpF32 false
  else if neg then infBits fpF32 true
  else match topExp l with
    | none => if l.all FVal.neg then 0x80000000 else 0
    | some top =>
      let u := top - 88
      finish fpF32 .rne (finov tbl 0) (ofScaled ((l.map (windowTerm u)).foldl (· + ·) 0) u false)

/-- The products of a list of pairs, in groups of 32 in ascending k. -/
def dotAll (tbl : BitVec 128) (acc : Nat) (a b : List FVal) : Nat :=
  let ps := (a.zip b).map fun e => e.1.mul e.2
  (chunked 32 (ps.length / 32 + 1) ps).foldl (fun acc g => if g = [] then acc else dotGroup tbl acc g) acc

/-- A tile after a product into rows `r0` on (R419, R422). -/
def mmaTile (tbl : BitVec 128) (old : Tab Word32) (r0 : Nat) (a b : List (List FVal)) : Tab Word32 :=
  let keep := fun p : Nat → Bool => old.filter fun e => p (e.1 / tileSide)
  let new := ((range' 0 a.length).zip a).flatMap fun ia =>
    ((range' 0 b.length).zip b).filterMap fun jb =>
      let n := (r0 + ia.1) * tileSide + jb.1
      let v := dotAll tbl (Tab.get 0 old n).toNat ia.2 jb.2
      if v = 0 then none else some (n, BitVec.ofNat 32 v)
  keep (fun r => decide (r < r0)) ++ new ++ keep fun r => decide (r0 + a.length ≤ r)

/-! ## Issue (R192, R278, R408, R409, R420) -/

/-- A precise fault of an M operation; that of a re-issue disarms it. -/
def State.mPrecise (s : State) (re : Bool) (f : State → State) : State :=
  f (if re then { s with pre := s.pre.map fun m => m.modTh fun t => t.modU fun u => { u with armM := none } } else s)

/-- Phases that an M operation issued now is held on: those at which the thread has arrived and which are not complete (R421). -/
def Module.mHolds (m : Module) (cx : Nat) : List (Nat × BitVec 32) :=
  let t := m.ctx cx
  m.cx.crews.filterMap fun e =>
    let c := e.2
    if c.inForce && c.launch == t.launch && (c.member t.tidN).isSome && decide (0 < c.ahead (c.nextOf t.tidN)) then
      some (e.1, c.nextOf t.tidN - 1) else none

/-- What newly arming an M operation does to the issues of the one that was armed at this level: their faults disarm nothing more (R193). -/
def Thread.freeM (t : Thread) : Thread := t.modX fun x => { x with mq := x.mq.map fun e => if e.user = !t.system then { e with re := false } else e }

/-- Enters an M operation with the control registers as they were read at issue (R176); `tile` is the tile it writes. -/
def State.mEnter (s : State) (re k : Bool) (i : Instr) (kind : MKind) (base addr : Word64) (token : Nat) (tile : Option Nat)
    (members : List Nat) : State :=
  s.on fun m =>
    let held := m.mHolds m.focus
    m.modTh fun t =>
      let e := { t.mEntry kind addr token with heldOn := held, ovtab := s.src.th.csr.ovt, re := re || k }
      let t1 := ((if re then t else t.freeM).enterM e).token token
      let t2 := match tile with
        | some n => t1.setBusy n
        | none => t1
      let armed : Option Armed := if k then
        some { op := i, step := 0, base := base, token := token, since := 0, outstanding := 0, count := 0, first := none, members := members } else none
      if re then t2 else t2.modU fun u => { u with armM := armed }

/-- FMTCAP.MAT of the formats an MMA names (R277, R278). -/
def Thread.matOk (t : Thread) (fa fb : Fmt) : Bool := bit t.csr.fmtcap.toNat (fmtCode fa) && bit t.csr.fmtcap.toNat (fmtCode fb)

/-- MMA (R418). -/
def State.mmaAt (s : State) (re k : Bool) (mt ga gb : BitVec 3) (fa fb : Fmt) (klen : BitVec 10) : State :=
  let i := Instr.mma k mt ga gb fa fb klen
  if s.src.th.matOk fa fb then
    s.mEnter re k i (.mma mt.toNat ga.toNat gb.toNat fa fb (klen.toNat + 1)) 0 0 0 (some mt.toNat) []
  else s.mPrecise re fun s => s.faultSyl Cause.fmtAbsent i

/-- The members of a gang, by context in ascending TID; none where the crew has not 2 to 4 members in the leader's cluster (R420). -/
def Module.gangOf (m : Module) (cx h : Nat) : Option (List Nat) :=
  let c := m.crew h
  let tids := sortBy (fun a b : Nat => decide (a ≤ b)) (c.members.map (·.tid))
  (allSome (tids.map fun t => m.ctxOfTid c.launch t)).bind fun l =>
    if decide (2 ≤ l.length) && decide (l.length ≤ 4) && l.all fun x => clusterOf (coreOf x) == clusterOf (coreOf cx) then some l else none

/-- A new gang for an MMAG, bound to its crew (R420). -/
def Module.newGang (m : Module) (h : Nat) (members : List Nat) (mt ga gb : Nat) (fa fb : Fmt) (k : Nat) : Nat × Module :=
  let g := m.cx.gangNext
  let (x, m1) := m.crewBind m.focus h
  let m2 := { m1 with cx := { m1.cx with gangNext := g + 1 } }
  (g, m2.setGang g { Gang.none with leader := m.focus, crew := h, phase := x, mt := mt, ga := ga, gb := gb, fa := fa, fb := fb, k := k,
                                    members := members })

/-- MMAG: the crew is checked, a re-issue keeps the gang it first had, and the bundle waits while the tile is busy in a partner (R189, R420,
R424). -/
def State.mmagAt (s : State) (kept : Option (List Nat)) (k : Bool) (mt ga gb : BitVec 3) (fa fb : Fmt) (klen : BitVec 10) (sa : RegNo)
    (handle : Word64) : State :=
  let i := Instr.mmag k mt ga gb fa fb klen sa
  let re := kept.isSome
  if !s.src.th.matOk fa fb then s.mPrecise re fun s => s.faultSyl Cause.fmtAbsent i
  else if !s.now.crewOk s.now.focus handle true then s.mPrecise re fun s => s.handleFault handle
  else match (match kept with | some l => some l | none => s.now.gangOf s.now.focus handle.toNat) with
    | none => s.mPrecise re fun s => s.fault Cause.gangShape handle
    | some l =>
      if l.any fun c => c != s.now.focus && (s.now.ctx c).u.busy.contains mt.toNat then s.hold fun t => t
      else
      let (g, m1) := s.now.newGang handle.toNat l mt.toNat ga.toNat gb.toNat fa fb (klen.toNat + 1)
      ((s.on fun _ => m1).mEnter re k i (.mmag mt.toNat ga.toNat gb.toNat fa fb (klen.toNat + 1) g) handle 0 0 (some mt.toNat) l).on
        Module.gangSettle

/-- MDRAIN at an address (R427). -/
def State.mdrainAt (s : State) (re k generic : Bool) (i : Instr) (mt : BitVec 3) (sb : RegNo) (fa : FTy) (ea eb : BitVec 4) (cl : Bool)
    (ec : BitVec 4) (base addr : Word64) : State :=
  let e := fun n : Nat => s.src.th.rdE n
  let clamp := if cl then some (e ec.toNat, e (ec.toNat + 1)) else none
  s.mEnter re k i (.mdrain mt.toNat generic fa (e ea.toNat) (e eb.toNat) clamp s.src.th.csr.ovt) base addr sb.toNat none []

/-- MLDACC at an address (R426). -/
def State.mldaccAt (s : State) (re k generic : Bool) (i : Instr) (mt : BitVec 3) (sb : RegNo) (base addr : Word64) : State :=
  s.mEnter re k i (.mldacc mt.toNat generic) base addr sb.toNat (some mt.toNat) []

/-- Enters an M operation that cannot be armed. -/
def State.mPlain (s : State) (i : Instr) (kind : MKind) (tile : Option Nat) : State := s.mEnter false false i kind 0 0 0 tile []

/-! ## Meanings: what a bundle issues -/

/-- MMA (R418). -/
def execMma (k : Bool) (mt ga gb : BitVec 3) (fa fb : Fmt) (klen : BitVec 10) (s : State) : Out := .next (s.mmaAt false k mt ga gb fa fb klen)

/-- MMAG (R420). -/
def execMmag (k : Bool) (mt ga gb : BitVec 3) (fa fb : Fmt) (klen : BitVec 10) (sa : RegNo) (s : State) : Out :=
  .next (s.mmagAt none k mt ga gb fa fb klen sa (s.rdS sa))

/-- MZERO (R425). -/
def execMzero (mt : BitVec 3) (s : State) : Out := .next (s.mPlain (.mzero mt) (.mzero mt.toNat) (some mt.toNat))

/-- MDRAIN to the scratchpad (R427). -/
def execMdrainScratchpad (k : Bool) (mt : BitVec 3) (sa sb : RegNo) (fa : FTy) (ea eb : BitVec 4) (cl : Bool) (ec : BitVec 4) (s : State) :
    Out :=
  .next (s.mdrainAt false k false (.mdrainScratchpad k mt sa sb fa ea eb cl ec) mt sb fa ea eb cl ec (s.rdS sa) (s.rdS sa))

/-- MDRAIN to a generic address (R427). -/
def execMdrainGeneric (k : Bool) (mt : BitVec 3) (sa sb : RegNo) (fa : FTy) (ea eb : BitVec 4) (cl : Bool) (ec : BitVec 4) (s : State) : Out :=
  .next (s.mdrainAt false k true (.mdrainGeneric k mt sa sb fa ea eb cl ec) mt sb fa ea eb cl ec (s.rdS sa) (s.rdS sa))

/-- MLDACC from the scratchpad (R426). -/
def execMldaccScratchpad (k : Bool) (mt : BitVec 3) (sa sb : RegNo) (s : State) : Out :=
  .next (s.mldaccAt false k false (.mldaccScratchpad k mt sa sb) mt sb (s.rdS sa) (s.rdS sa))

/-- MLDACC from a generic address (R426). -/
def execMldaccGeneric (k : Bool) (mt : BitVec 3) (sa sb : RegNo) (s : State) : Out :=
  .next (s.mldaccAt false k true (.mldaccGeneric k mt sa sb) mt sb (s.rdS sa) (s.rdS sa))

/-- MRCFG (R412). -/
def execMrcfg (ga : BitVec 3) (sa sb : RegNo) (s : State) : Out :=
  .next (s.mPlain (.mrcfg ga sa sb) (.mrcfg ga.toNat (s.rdS sa) (s.rdS sb)) none)

/-- MRPUSH (R415). -/
def execMrpush (ga : BitVec 3) (sa : RegNo) (s : State) : Out := .next (s.mPlain (.mrpush ga sa) (.mrpush ga.toNat (s.rdS sa)) none)

/-- MRPOP (R416). -/
def execMrpop (ga : BitVec 3) (s : State) : Out := .next (s.mPlain (.mrpop ga) (.mrpop ga.toNat) none)

/-- MKAT (R430). -/
def execMkat (n : BitVec 4) (s : State) : Out := .next (s.mPlain (.mkat n) (.mkat n.toNat) none)

/-- MKCMP (R432). -/
def execMkcmp (n : BitVec 4) (const : Word64) (s : State) : Out := .next (s.mPlain (.mkcmp n const) (.mkcmp n.toNat const) none)

/-- Whether some slice of a thread's MMAGs has still to retire or fault. -/
def Module.gangsOf (m : Module) (cx : Nat) : Bool := m.cx.gangs.any fun e => e.2.leader == cx && !e.2.members.isEmpty

/-- MWAIT holds its bundle until the named tiles are not busy, or until the M queue and the slices are done (R429). -/
def execMwait (mask : BitVec 8) (s : State) : Out :=
  let t := s.src.th
  let wait := if mask = 0 then !t.x.mq.isEmpty || s.src.gangsOf s.src.focus else t.u.busy.any fun b => bit mask.toNat b
  .next (if wait then s.hold fun t => t else s)

/-- Re-issues an armed M operation (R192, R424). -/
def State.reissueM (s : State) (a : Armed) (addr : Word64) : State :=
  match a.op with
  | .mma k mt ga gb fa fb klen => s.mmaAt true k mt ga gb fa fb klen
  | .mmag k mt ga gb fa fb klen sa => s.mmagAt (some a.members) k mt ga gb fa fb klen sa a.base
  | .mdrainScratchpad k mt sa sb fa ea eb cl ec => s.mdrainAt true k false (.mdrainScratchpad k mt sa sb fa ea eb cl ec) mt sb fa ea eb cl ec addr addr
  | .mdrainGeneric k mt sa sb fa ea eb cl ec => s.mdrainAt true k true (.mdrainGeneric k mt sa sb fa ea eb cl ec) mt sb fa ea eb cl ec addr addr
  | .mldaccScratchpad k mt sa sb => s.mldaccAt true k false (.mldaccScratchpad k mt sa sb) mt sb addr addr
  | .mldaccGeneric k mt sa sb => s.mldaccAt true k true (.mldaccGeneric k mt sa sb) mt sb addr addr
  | _ => s

/-! ## The head of the M queue -/

/-- Takes the head out of the M queue. -/
def Thread.dropM (t : Thread) : Thread := t.modX fun x => { x with mq := x.mq.tail }

/-- Changes the head of the M queue. -/
def Thread.modM (t : Thread) (f : MEntry → MEntry) : Thread := t.modX fun x => { x with mq := modifyAt f 0 x.mq }

/-- A fault of an issue of the armed M operation disarms it, in the thread or in the trap frame (R193). -/
def Thread.disarmM (t : Thread) (e : MEntry) : Thread :=
  if !e.re then t
  else if e.user = !t.system then t.modU fun u => { u with armM := none }
  else if e.user then t.modU fun u => { u with frame := u.frame.map fun f => { f with armM := none } }
  else t

/-- A fault of an M operation without a token: MFADDR, an imprecise trap, and the queue halts at the entry (R409). -/
def Thread.mFault (t : Thread) (e : MEntry) (c : Cause) (datum : Nat) : Thread :=
  (((t.disarmM e).modC fun r => { r with mfaddr := e.header }).modX fun x => { x with mhalt := true }).hold e.user (imprecise c 0 (BitVec.ofNat 64 datum))

/-- A fault of MDRAIN or MLDACC: its token, or with s0 an imprecise trap while the queue goes on (R188, R409). -/
def Thread.mTokenFault (t : Thread) (e : MEntry) (count : Nat) (c : Cause) (addr : Nat) : Thread :=
  let t1 := (t.disarmM e).dropM.tokenWrite e.token (if count = 0 then 2 else 1) count c 0
  let t2 := match e.kind with
    | .mldacc mt _ => t1.clearBusy mt
    | _ => t1
  if e.token = 0 then t2.hold e.user (imprecise c 0 (BitVec.ofNat 64 addr)) else t2

/-- An M operation has stepped; its result retires into its tile later (R189, R419). -/
def Thread.mStepped (t : Thread) (mt : Nat) : Thread := t.dropM.modX fun x => { x with retiring := x.retiring ++ [mt] }

/-- What a test of a ring's head entry finds (R417). -/
inductive RingTest where
  | ready
  | wait
  | waitRemote
  | fault (c : Cause)
  deriving DecidableEq, Repr

/-- Tests a ring for a head entry. -/
def Thread.ringTest (t : Thread) (g : Nat) : RingTest :=
  let r := t.ring g
  if r.esz = 0 then .fault Cause.ringConfig
  else if r.tail != r.head then .ready
  else if r.rsv != r.tail || t.x.c1q.any fun e => e.kind.ring == some g then .wait
  else if r.remote then .waitRemote
  else .fault Cause.ringStarved

/-- Whether the entries of the M queue that stand on a phase may start (R421). -/
def Module.mReleased (m : Module) (e : MEntry) : Bool :=
  e.heldOn.all fun p =>
    let c := m.crew p.1
    !c.inForce || c.done p.2 || c.members.all fun x => c.arrivedAt x.tid p.2

/-- Whether a later operation of the leader must wait for the pop of a ring that a gang's slices read (R422). -/
def Module.gangHolds (m : Module) (cx : Nat) (rings : List Nat) (g : Nat) : Bool :=
  m.cx.gangs.any fun e => e.1 != g && e.2.leader == cx && !e.2.members.isEmpty && e.2.entered.contains cx && !e.2.gbRead && rings.contains e.2.gb

/-- Whether a range of the own scratchpad is filled; the matrix engine waits for fills (R225). -/
def Thread.filledAt (t : Thread) (o n : Nat) : Bool := (t.unfilled o n).isNone

/-- Executes an MMA (R417, R419, R451). -/
def Module.mmaRun (m : Module) (cx : Nat) (e : MEntry) (mt ga gb : Nat) (fa fb : Fmt) (k : Nat) : Module :=
  let t := m.ctx cx
  let ra := t.ring ga
  let rb := t.ring gb
  let fail := fun (c : Cause) (g : Nat) => m.setCtx cx (t.mFault e c g)
  match t.ringTest ga with
  | .fault c => fail c ga
  | .wait | .waitRemote => m
  | .ready => match t.ringTest gb with
    | .fault c => fail c gb
    | .wait | .waitRemote => m
    | .ready =>
      let oa := ra.entry (ra.slot ra.head)
      let ob := rb.entry (rb.slot rb.head)
      if ra.headBad then m.setCtx cx ((t.setRing ga ra.pop).mFault e Cause.memPoison (genOwn oa))
      else if rb.headBad then m.setCtx cx ((t.setRing gb rb.pop).mFault e Cause.memPoison (genOwn ob))
      else if ra.layoutBad fa tileSide k then fail Cause.ringLayout ga
      else if rb.layoutBad fb tileSide k then fail Cause.ringLayout gb
      else if !t.filledAt oa ra.esz || !t.filledAt ob rb.esz then m
      else
        let tile := mmaTile e.ovtab (t.tile mt) 0 (t.image oa ra.span fa tileSide k) (t.image ob rb.span fb tileSide k)
        m.setCtx cx ((((t.setTile mt tile).setRing ga ra.pop).setRing gb rb.pop).mStepped mt)

/-- Notes that a member's slice has run, and pops the leader's ring when all have (R422). -/
def Module.sliceRan (m : Module) (g cx : Nat) (c : Option Cause) : Module :=
  let x := m.gang g
  (m.setGang g { x with ran := x.ran ++ [(cx, c)] }).gangRead g

/-- Executes a slice in the engine of the member in context `cx` (R417, R422, R423, R451, R500). -/
def Module.sliceRun (m : Module) (cx g r : Nat) (ovtab : BitVec 128) : Module :=
  let x := m.gang g
  let h := tileSide / x.members.length
  let t := m.ctx cx
  let lt := m.ctx x.leader
  let ra := t.ring x.ga
  let rb := lt.ring x.gb
  let fail := fun (m : Module) (c : Cause) => (m.modCtx cx Thread.dropM).sliceRan g cx (some c)
  match t.ringTest x.ga with
  | .fault c => fail m c
  | .wait | .waitRemote => m
  | .ready => match lt.ringTest x.gb with
    | .fault c => fail m c
    | .wait | .waitRemote => m
    | .ready =>
      let oa := ra.entry (ra.slot ra.head)
      let ob := rb.entry (rb.slot rb.head)
      if ra.headBad then fail (m.modCtx cx fun t => t.setRing x.ga ra.pop) Cause.memPoison
      else if rb.headBad then fail m Cause.memPoison
      else if ra.layoutBad x.fa h x.k || rb.layoutBad x.fb tileSide x.k then fail m Cause.ringLayout
      else if !t.filledAt oa ra.esz || !lt.filledAt ob rb.esz then m
      else
        let tile := mmaTile ovtab (t.tile x.mt) (r * h) (t.image oa ra.span x.fa h x.k) (lt.image ob rb.span x.fb tileSide x.k)
        ((m.modCtx cx fun t => ((t.setTile x.mt tile).setRing x.ga ra.pop).dropM)).sliceRan g cx none

/-- The slice number of the leader in its gang. -/
def Gang.leaderSlice (x : Gang) : Nat :=
  ((firstWhere (fun e : Nat × Nat => e.2 == x.leader) ((range' 0 x.members.length).zip x.members)).map (·.1)).getD 0

/-- A slice at the head of a queue: the leader's enters at the MMAG's own place, a partner's waits for that. -/
def Module.sliceHead (m : Module) (cx g r : Nat) (leader : Bool) (ovtab : BitVec 128) : Module :=
  let x := m.gang g
  if x.members = [] then m.modCtx cx Thread.dropM
  else if leader then
    (if m.gangHolds cx [x.ga, x.gb] g then m
     else
      let m1 := m.setGang g { x with entered := if x.entered.contains cx then x.entered else cx :: x.entered }
      m1.sliceRun cx g x.leaderSlice ovtab)
  else if x.entered.contains x.leader then m.sliceRun cx g r ovtab
  else m

/-! ## Rings -/

/-- The conditions of MRCFG's words (R410 to R412). -/
def mrcfgBad (w0 w1 : Word64) : Bool :=
  let r : Ring := { Ring.empty with cfg := w0, layout := w1 }
  fld w0.toNat 44 20 != 0 || fld w0.toNat 37 3 != 0 || fld w0.toNat 20 4 != 0 || fld w0.toNat 0 7 != 0 || fld w1.toNat 8 56 != 0 ||
    r.esz == 0 || decide (r.fmt ≥ 14) || decide (r.base + r.n * r.esz > 2 ^ 20)

/-- Executes an MRCFG (R412): the words are installed and the counts become 0; the slots keep their span tags (R414). -/
def Module.mrcfgRun (m : Module) (cx : Nat) (e : MEntry) (g : Nat) (w0 w1 : Word64) : Module :=
  let t := m.ctx cx
  let r := t.ring g
  if t.ringBusy g e.serial then m
  else if mrcfgBad w0 w1 || r.tail != r.head then m.setCtx cx (t.mFault e Cause.ringConfig g)
  else m.setCtx cx (t.setRing g { Ring.empty with cfg := w0, layout := w1, tags := r.tags }).dropM

/-- Whether an earlier off-core operation of the thread may still write the scratchpad (R415). -/
def Thread.spWritesBefore (t : Thread) (serial : Nat) : Bool :=
  (t.x.sq.any fun e => decide (e.serial < serial) && (match e.kind with | .store _ => true | _ => false) &&
      (aperture e.addr == 1 || aperture e.addr == 2)) ||
    t.x.c1q.any fun e => decide (e.serial < serial) && match e.kind with
      | .cpy | .cpyr _ | .gath | .scat => !e.known || e.writes.any fun w => w.space == 0
      | .rst _ _ => aperture e.addr == 1 || aperture e.addr == 2
      | .cld _ _ | .crcn _ _ _ _ => true
      | _ => false

/-- Makes `n` slots valid with a tag. -/
def Ring.pushMany : Nat → Ring → Nat → Ring
  | 0, r, _ => r
  | n + 1, r, tag => let (s, r1) := r.reserve tag; Ring.pushMany n (r1.fillDone s false) tag

/-- Executes an MRPUSH. -/
def Module.mrpushRun (m : Module) (cx : Nat) (e : MEntry) (g : Nat) (w : Word64) : Module :=
  let t := m.ctx cx
  let r := t.ring g
  let n := fld w.toNat 0 5
  if fld w.toNat 8 56 ≠ 0 || n = 0 || decide (n > 16) || r.esz = 0 then m.setCtx cx (t.mFault e Cause.ringConfig g)
  else if t.ringBusy g e.serial || t.spWritesBefore e.serial then m
  else if r.free < n then m.setCtx cx (t.mFault e Cause.ringOverflow g)
  else m.setCtx cx (t.setRing g (Ring.pushMany n r (fld w.toNat 5 3))).dropM

/-- Executes an MRPOP; a poisoned entry is popped without a fault (R416, R451). -/
def Module.mrpopRun (m : Module) (cx : Nat) (e : MEntry) (g : Nat) : Module :=
  let t := m.ctx cx
  if m.gangHolds cx [g] m.cx.gangNext then m
  else match t.ringTest g with
    | .fault c => m.setCtx cx (t.mFault e c g)
    | .wait | .waitRemote => m
    | .ready => m.setCtx cx (t.setRing g (t.ring g).pop).dropM

/-! ## Tiles (R425 to R428) -/

/-- Bytes of a tile as FP32. -/
def tileBytes : Nat := 4 * tileSide * tileSide

/-- The place of a tile's image: an offset of the own scratchpad, or a generic address (R426). -/
def Module.tilePlace (m : Module) (cx : Nat) (e : MEntry) (generic : Bool) (at_ n : Nat) : Except Stop Place :=
  if generic then m.place cx e.user (BitVec.ofNat 64 at_) n
  else if at_ + n > 2 ^ 20 then .error (.fault Cause.addrAperture at_)
  else .ok (.own at_)

/-- Reads bytes for the matrix engine, which waits for fills of the scratchpad and starts none (R225). -/
def Module.mRead (m : Module) (cx : Nat) (e : MEntry) (p : Place) (n : Nat) : Except Stop (List Byte × Module) :=
  match p with
  | .own o => match m.spRead cx e.user false o n with
    | .ok bs => .ok (bs, m)
    | .error st => .error st
  | p => m.readP cx e.user false p n

/-- Writes bytes for the matrix engine. -/
def Module.mWrite (m : Module) (cx : Nat) (e : MEntry) (p : Place) (bs : List Byte) : Except Stop Module :=
  match p with
  | .own o => m.spWrite cx e.user false o bs
  | p => m.writeP cx e.user false p bs

/-- Alignment of a tile's image. -/
def tileAlign (generic : Bool) : Nat := if generic then 64 else 128

/-- Waits for what a stopped access of the head of the M queue needs. -/
def Module.mStop (m : Module) (cx : Nat) (e : MEntry) (kind : PfKind) (st : Stop) : Module :=
  let (w, m1) := m.askStop (m.acc cx e.user false) kind st
  m1.modCtx cx fun t => t.modM fun x => { x with pf := w }

/-- Sends a request of the matrix engine to another module. -/
def Module.mSend (m : Module) (cx d o : Nat) (r : RemoteReq) : Module :=
  let at_ := m.coreClock (coreOf cx)
  let (id, m1) := m.request (c1Source cx) d o r (.row cx at_)
  m1.modCtx cx fun t => t.modM fun x => { x with remote := some id, pf := .none }

/-- A tile from its bytes, row-major FP32. -/
def tileOf (bs : List Byte) : Tab Word32 :=
  ((range' 0 (tileSide * tileSide)).zip (chunked 4 (tileSide * tileSide) bs)).filterMap fun e =>
    let v : Word32 := BitVec.ofNat 32 (leNat e.2)
    if v = 0 then none else some (e.1, v)

/-- Executes an MLDACC: everything is read before the tile is written (R426). -/
def Module.mldaccRun (m : Module) (cx : Nat) (e : MEntry) (mt : Nat) (generic : Bool) : Module :=
  let a := e.addr.toNat
  let fail := fun (m : Module) (c : Cause) => m.modCtx cx fun t => t.mTokenFault e 0 c a
  let load := fun (m : Module) (bs : List Byte) =>
    m.modCtx cx fun t => ((t.setTile mt (tileOf bs)).mStepped mt).tokenWrite e.token 0 tileBytes 0 0
  match e.buf, e.pf.cause with
  | some bs, _ => load m bs
  | none, some c => fail m c
  | none, none =>
    if a % tileAlign generic ≠ 0 then fail m Cause.addrAlign
    else match m.tilePlace cx e generic a tileBytes with
      | .error (.fault c _) => fail m c
      | .error st => m.mStop cx e .read st
      | .ok p =>
        let here := match m.mRead cx e p tileBytes with
          | .ok (bs, m1) => load m1 bs
          | .error (.fault c _) => fail m c
          | .error (.part c _ _ _) => fail m c
          | .error st => m.mStop cx e .read st
        match p with
        | .remote d o => if m.isSelf d then here else m.mSend cx d o (.read tileBytes)
        | _ => here

/-- Bytes of a drained row. -/
def rowBytes (f : FTy) : Nat := tileSide * (ftyBits f / 8)

/-- Executes an MDRAIN row by row, each row indivisibly (R244, R428); `fuel` is at least the rows left. -/
def Module.drainRun : Nat → Module → Nat → Module
  | 0, m, _ => m
  | fuel + 1, m, cx =>
    let t := m.ctx cx
    match t.x.mq with
    | ⟨.mdrain mt generic f ta tb clamp tbl, addr, token, user, hd, sn, ho, rows, pf, ov, rm, buf, sc, re⟩ :: _ =>
      let e : MEntry := ⟨.mdrain mt generic f ta tb clamp tbl, addr, token, user, hd, sn, ho, rows, pf, ov, rm, buf, sc, re⟩
      let n := rowBytes f
      let a := (addr.toNat + rows * n) % 2 ^ 64
      let fail := fun (m : Module) (c : Cause) (x : Nat) => (m.noteFull c x).modCtx cx fun t => t.mTokenFault e (rows * n) c a
      let next := fun m : Module => Module.drainRun fuel (m.modCtx cx fun t => t.modM fun x => { x with rows := rows + 1, buf := none, pf := .none }) cx
      let row := (range' (rows * tileSide) tileSide).map fun k => Tab.get 0 (t.tile mt) k
      let new := drainRow row f tbl ta tb clamp
      if rows ≥ tileSide then m.modCtx cx fun t => t.dropM.tokenWrite token 0 (tileSide * n) 0 0
      else if addr.toNat % tileAlign generic ≠ 0 then fail m Cause.addrAlign 0
      else if !generic && decide (addr.toNat + tileSide * n > 2 ^ 20) then fail m Cause.addrAperture 0
      else match pf.cause with
        | some c => fail m c 0
        | none => match m.tilePlace cx e generic a n with
          | .error (.fault c x) => fail m c x
          | .error st => m.mStop cx e .write st
          | .ok p =>
            let here := match m.mRead cx e p n with
              | .ok (old, m1) => (match m1.mWrite cx e p (new old) with
                | .ok m2 => next m2
                | .error (.fault c x) => fail m c x
                | .error (.part c x k m2) => (m2.noteFull c x).modCtx cx fun t => t.mTokenFault e (rows * n + k) c a
                | .error st => m.mStop cx e .write st)
              | .error (.fault c x) => fail m c x
              | .error (.part c _ _ _) => fail m c 0
              | .error st => m.mStop cx e .write st
            match p with
            | .remote d o =>
              if m.isSelf d then here else m.mSend cx d o (.drain f row ta tb clamp tbl)
            | _ => here
    | _ => m

/-- The response to a request of the matrix engine. -/
def Module.mAnswer (m : Module) (cx id cause : Nat) (bs : List Byte) : Module :=
  match (m.ctx cx).x.mq with
  | [] => m
  | e :: _ =>
    if e.remote != some id then m
    else
      let m1 := m.modCtx cx fun t => t.modM fun x => { x with remote := none }
      match e.kind, e.buf with
      | .mdrain _ _ f _ _ _ _, _ =>
        if cause ≠ 0 then m1.modCtx cx fun t => t.mTokenFault e (e.rows * rowBytes f) (BitVec.ofNat 7 cause) e.addr.toNat
        else m1.modCtx cx fun t => t.modM fun x => { x with rows := x.rows + 1 }
      | _, _ =>
        if cause ≠ 0 then m1.modCtx cx fun t => t.mTokenFault e 0 (BitVec.ofNat 7 cause) e.addr.toNat
        else m1.modCtx cx fun t => t.modM fun x => { x with buf := some bs }

/-! ## Known-answer tiles (R430 to R432) -/

/-- val(z) (R431). -/
def katVal (z : Word64) : FVal := .fin (bit z.toNat 63) (8 + fld z.toNat 0 3) ((fld z.toNat 3 3 : Int) - 6)

/-- One line of a pattern, converted to its format and decoded. -/
def katLine (f : Fmt) (vs : List FVal) : List FVal :=
  match f with
  | .sx5 => (chunked 32 3 vs).flatMap fun b => let blk := sxPack .sx5 ovReset .rne b; (range' 0 32).map fun j => sxValue .sx5 blk j
  | .mx4 => (chunked 32 3 vs).flatMap fun b => let p := mxPack .mx4 ovReset .rne b; (range' 0 32).map fun j => mxValue .mx4 p.1 (laneOf p.2 4 j)
  | f => vs.map fun v => decodeFP (fpOf f) (convertTo f ovReset .rne v)

/-- The format of a pattern. -/
def katFmt (n : Nat) : Fmt :=
  match n % 4 with
  | 0 => .bf16 | 1 => .e4m3 | 2 => .sx5 | _ => .mx4

/-- The lines of one operand of a pattern. -/
def katLines (n tag : Nat) : List (List FVal) :=
  (range' 0 tileSide).map fun i =>
    katLine (katFmt n) ((range' 0 tileSide).map fun k => katVal (mix64 (BitVec.ofNat 64 (tag + n * 2 ^ 32 + i * 2 ^ 16 + k))))

/-- The hidden tile of a pattern. -/
def katTile (n : Nat) : Tab Word32 := mmaTile ovReset [] 0 (katLines n 0x4B41000000000000) (katLines n 0x4B42000000000000)

/-- The checksum of a tile. -/
def tileSum (t : Tab Word32) : Nat :=
  (range' 0 (tileSide * tileSide)).foldl (fun c e => ((c * 2 % 2 ^ 64) ||| (c / 2 ^ 63)) ^^^ (Tab.get 0 t e).toNat ^^^ (e * 2 ^ 32)) 0

/-- Marks a cluster suspect. -/
def Module.suspectCluster (m : Module) (c : Nat) : Module :=
  { m with cx := { m.cx with suspect := if m.cx.suspect.contains c then m.cx.suspect else c :: m.cx.suspect } }

/-- Makes the start of a replay the next event (R127). -/
def Module.callReplay (m : Module) (cluster : Nat) (c : Cause) : Module := { m with agenda := .event (.replayStart cluster c) :: m.agenda }

/-- Records, for a cluster that has passed an MKCMP, the round each group last committed (R102). -/
def Module.notePass (m : Module) (cluster : Nat) : Module :=
  { m with cx := { m.cx with passed := (range' 0 8).foldl (fun t g => Tab.set 0 t (8 * cluster + g) (m.group g).glast) m.cx.passed } }

/-- Executes an MKCMP (R432). -/
def Module.mkcmpRun (m : Module) (cx : Nat) (e : MEntry) (n : Nat) (const : Word64) : Module :=
  let k := coreOf cx
  let bad := ((m.modCtx cx fun t => t.mFault e Cause.katMismatch 0).suspectCluster (clusterOf k)).callReplay (clusterOf k) Cause.katMismatch
  match (m.core k).kat with
  | .running _ => m
  | .none => m.modCtx cx Thread.dropM
  | .result p => if p = n && tileSum (katTile n) = const.toNat then (m.modCtx cx Thread.dropM).notePass (clusterOf k) else bad

/-- Executes an MKAT: a pattern in progress is waited for (R430). -/
def Module.mkatRun (m : Module) (cx n : Nat) : Module :=
  let k := coreOf cx
  match (m.core k).kat with
  | .running _ => m
  | _ => (m.modCore k fun c => { c with kat := .running n }).modCtx cx Thread.dropM

/-! ## Events -/

/-- What holds the head of the M queue whatever it is: a page fault, an answer, a bank exchange, the halt at a fault, or its crew. -/
def Module.mBlocked (m : Module) (cx : Nat) (e : MEntry) : Bool :=
  let t := m.ctx cx
  e.pf.waits || (t.pfStopped && e.rows == 0) || m.banked cx || t.x.mhalt || e.remote.isSome || !m.mReleased e

/-- Whether the head of the M queue waits for a remote push, and on which ring (R417). -/
def Module.mWaitsRemote (m : Module) (cx : Nat) : Option Nat :=
  let t := m.ctx cx
  let test := fun (t : Thread) (g : Nat) => if t.ringTest g = .waitRemote then some g else none
  let two := fun (a b : Thread) (ga gb : Nat) => match test a ga with
    | some g => some g
    | none => if a.ringTest ga = .ready then test b gb else none
  match t.x.mq with
  | [] => none
  | e :: _ => if m.mBlocked cx e then none else match e.kind with
    | .mma _ ga gb _ _ _ => two t t ga gb
    | .mmag _ ga gb _ _ _ _ => two t t ga gb
    | .slice l g _ => two t (m.ctx l) (m.gang g).ga (m.gang g).gb
    | .mrpop g => test t g
    | _ => none

/-- Notes the cycle from which the head of the M queue waits for a remote push (R417). -/
def Module.noteWait (m : Module) (cx : Nat) : Module :=
  let set := fun n : Option Nat => m.modCtx cx fun t => t.modM fun e => { e with since := n }
  match (m.ctx cx).x.mq with
  | [] => m
  | e :: _ => match m.mWaitsRemote cx, e.since with
    | some _, none => set (some (m.coreClock (coreOf cx)))
    | none, some _ => set none
    | _, _ => m

/-- Executes the head of the M queue. -/
def Module.mHead (m : Module) (cx : Nat) : Module :=
  let t := m.ctx cx
  match t.x.mq with
  | [] => m
  | e :: _ =>
    if e.kind.isMarker then m.passMarker cx
    else if m.mBlocked cx e then m
    else match e.kind with
      | .mma mt ga gb fa fb k => if m.gangHolds cx [ga, gb] m.cx.gangNext then m else m.mmaRun cx e mt ga gb fa fb k
      | .mmag _ _ _ _ _ _ g => m.sliceHead cx g 0 true e.ovtab
      | .slice _ g r => m.sliceHead cx g r false e.ovtab
      | .mzero mt => m.setCtx cx ((t.setTile mt []).mStepped mt)
      | .mdrain _ _ _ _ _ _ _ => if t.x.retiring = [] then m.drainRun (tileSide + 1) cx else m
      | .mldacc mt g => m.mldaccRun cx e mt g
      | .mrcfg g w0 w1 => m.mrcfgRun cx e g w0 w1
      | .mrpush g w => m.mrpushRun cx e g w
      | .mrpop g => m.mrpopRun cx e g
      | .mkat n => m.mkatRun cx n
      | .mkcmp n c => m.mkcmpRun cx e n c
      | .marker _ _ => m
      | .trigMark => m

/-- Executes the head of the M queue, or notes what it waits for (R408, R417). -/
def Module.mExecute (m : Module) (cx : Nat) : Module := (m.mHead cx).noteWait cx

/-- M_EXECUTE (R408). -/
def execMExecute (s : State) : Out := .next (s.clocked s.now.focus fun m => m.mExecute m.focus)

/-- The oldest result that has still to retire does so. -/
def Thread.mRetire (t : Thread) : Thread :=
  match t.x.retiring with
  | [] => t
  | mt :: l => (t.modX fun x => { x with retiring := l }).clearBusy mt

/-- M_RETIRE (R419). -/
def execMRetire (s : State) : Out := .next (s.clocked s.now.focus fun m => m.modTh Thread.mRetire)

/-- SLICE_ENTER: the slices that may enter do (R421). -/
def execSliceEnter (s : State) : Out := .next (s.clocked s.now.focus Module.gangSettle)

/-- The first slice of a context that has run and has still to retire or fault. -/
def Module.slicePending (m : Module) (cx : Nat) : Option (Nat × Option Cause) :=
  (m.cx.gangs.filterMap fun e => (firstWhere (fun r : Nat × Option Cause => r.1 == cx) e.2.ran).map fun r => (e.1, r.2)).head?

/-- A slice retires or faults. -/
def Module.sliceRetire (m : Module) (cx : Nat) : Module :=
  match m.slicePending cx with
  | none => m
  | some (g, c) =>
    let mt := (m.gang g).mt
    (m.modCtx cx fun t => t.clearBusy mt).sliceEnd g cx c

/-- SLICE_RETIRE (R423). -/
def execSliceRetire (s : State) : Out := .next (s.clocked s.now.focus fun m => m.sliceRetire m.focus)

/-- A pattern in progress is done. -/
def Core.katDone (c : Core) : Core :=
  match c.kat with
  | .running n => { c with kat := .result n }
  | _ => c

/-- KAT_PATTERN_DONE (R430). -/
def execKatPatternDone (s : State) : Out := .next (s.clocked s.now.focus fun m => m.modCore (coreOf m.focus) Core.katDone)

/-- The head of the M queue where it has waited WAITLIM cycles of its core for a remote push, with its ring (R417). -/
def Module.stallDue (m : Module) (cx : Nat) : Option (MEntry × Nat) :=
  let t := m.ctx cx
  match m.mWaitsRemote cx, t.x.mq with
  | some g, e :: _ => match e.since with
    | some c => if c + t.waitLimit ≤ m.coreClock (coreOf cx) then some (e, g) else none
    | none => none
  | _, _ => none

/-- The M operation that has waited too long for a remote push faults (R417). -/
def Module.pushStall (m : Module) (cx : Nat) (e : MEntry) (g : Nat) : Module :=
  match e.kind with
  | .mmag _ _ _ _ _ _ gg => (m.modCtx cx Thread.dropM).sliceRan gg cx (some Cause.waitStall)
  | .slice _ gg _ => (m.modCtx cx Thread.dropM).sliceRan gg cx (some Cause.waitStall)
  | _ => m.modCtx cx fun t => t.mFault e Cause.waitStall g

/-! ## Pool accesses that time out (R62) -/

/-- A pool access of the C1 queue, of the S queue or of the head of the M queue times out: it completes with MEM_POISON (R62). -/
def Module.poolTimeout (m : Module) (cx idx : Nat) : Module :=
  if idx < 32 then match m.c1 cx idx with
    | some e =>
      if e.phase == C1Phase.started && e.addresses.any fun a => a / 2 ^ 60 == 4 then
        (if e.kind.isJob then m.jobFault cx idx e e.count Cause.memPoison else m.c1Fail cx idx Cause.memPoison)
      else m
    | none => m
  else if idx < 64 then match nth? (idx - 32) (m.ctx cx).x.sq with
    | some e => if aperture e.addr = 4 && !e.kind.isMarker then
        m.modCtx cx fun t => t.sFail (idx - 32) e Cause.memPoison e.addr.toNat .I
      else m
    | none => m
  else match (m.ctx cx).x.mq with
    | e :: _ => if aperture e.addr = 4 && !(m.ctx cx).x.mhalt then (match e.kind with
        | .mdrain _ true f _ _ _ _ => m.modCtx cx fun t => t.mTokenFault e (e.rows * rowBytes f) Cause.memPoison e.addr.toNat
        | .mldacc _ true => m.modCtx cx fun t => t.mTokenFault e 0 Cause.memPoison e.addr.toNat
        | _ => m)
      else m
    | [] => m

/-- POOL_TIMEOUT (R62): `idx` counts the C1 queue's entries, from 32 on the S queue's, and 64 is the head of the M queue. -/
def execPoolTimeout (ctx idx : Nat) (s : State) : Out := .next (s.on fun m => m.poolTimeout ctx idx)

end Sys2Proof.Machine
end

