-- ==== Sys2Proof/Machine/Fabric.lean ====
section
/-!
DEFINITION. The stations and the two CXL ports: what arrives, what is answered, the import and multicast tables, link loss, the external host
and the pool: rules R25 to R62, R121, R135, R215, R247 and R505.
-/

namespace Sys2Proof.Machine

/-! ## Requests of other modules (R34, R121, R229, R464) -/

/-- Offset at which the drop of read-only lines arrives (R229). -/
def dropOffset : Nat := 0xFFFFFFFE0000

/-- Every core drops the read-only lines it holds from a device (R229). -/
def Module.readDrop (m : Module) (src : Nat) : Module :=
  (m.cx.cores.map Prod.fst).foldl (fun m k => m.modCore k fun c => { c with ro := Tab.drop (fun a => a / 2 ^ 48 == src) c.ro }) m

/-- Answers a request with a cause and a count. -/
def Module.complete (m : Module) (src id : Nat) (c : Cause) (count : Nat) (bs : List Byte) : Module :=
  m.post 2048 src id (.completion id c.toNat count bs false)

/-- What a collective write comes to at its receiver. -/
def Module.arrived (m : Module) (src id n : Nat) (r : Arrived) : Except Stop Module :=
  match r with
  | .ok m1 => .ok (m1.ackWrite src id n 0)
  | .reject => .ok (m.ackWrite src id n Cause.collReject)
  | .hold => .error .wait

/-- A request into the tunnel range (R32, R121, R229, R464). -/
def Module.tunnelRange (m : Module) (src id off : Nat) (req : RemoteReq) : Except Stop Module :=
  let unmapped : Except Stop Module := .ok (m.complete src id Cause.remoteUnmapped 0 [])
  let posted := fun v isMax =>
    let (c, m1) := m.remotePost off v isMax
    .ok (m1.complete src id c (if c = 0 then 8 else 0) [])
  match req with
  | .read _ => unmapped
  | .drain _ _ _ _ _ _ => unmapped
  | .chunk core span bs =>
    if ringBase ≤ off && decide (off < dropOffset) then .ok (m.takeRing ⟨src, id, core, span, off, bs⟩) else unmapped
  | .write bs =>
    if off = dropOffset then .ok ((m.readDrop src).complete src id 0 bs.length [])
    else if winBase ≤ off && decide (off < ringBase) then m.arrived src id bs.length (m.windowArrival off bs)
    else unmapped
  | .atomic op wide b _ =>
    if off < postBase then unmapped
    else match op, wide with
      | .add, true => posted (fld b.toNat 0 48) false
      | .max true, true => posted (fld b.toNat 0 48) true
      | _, _ => unmapped

/-- Serves a request of another module; only a page fault, a snoop or a receiver that must wait holds it. -/
def Module.request' (m : Module) (src id off : Nat) (thread : Bool) (req : RemoteReq) : Except Stop Module :=
  if off ≥ tunnelBase then m.tunnelRange src id off req
  else match m.serve src off thread req with
    | .ok r => .ok (answer src id off r)
    | .error st => .error st

/-! ## Cell, summary and rescaling messages (R39, R40, R260) -/

/-- A home operation of a message: its local address, or the error it draws (R34). -/
def Module.msgHome (m : Module) (q : TunnelMsg) (n : Nat) (body : Nat → Except Stop Module) : Except Stop Module :=
  match m.importHome (fld q.src.toNat 0 10) q.offset.toNat n with
  | .error c => .ok (m.refuse q c)
  | .ok va => match body va with
    | .error (.fault c a) => .ok ((m.noteFull c a).refuse q c)
    | r => r

/-- Cell load (R39). -/
def Module.msgCellLoad (m : Module) (q : TunnelMsg) : Except Stop Module :=
  m.msgHome q 64 fun va => match m.homeCellLoad (m.remoteAcc true) va with
    | .ok (st, vs, m1) => .ok (m1.respond q false false vs.length (leBytes st.toNat 8 ++ leBytes 0 8 ++ vs.flatten))
    | .error e => .error e

/-- Cell store (R39); the writer is the one that the request travels with (R251; log entry 22). -/
def Module.msgCellStore (m : Module) (q : TunnelMsg) : Except Stop Module :=
  m.msgHome q 64 fun va =>
    match m.homeCellStore (m.remoteAcc true) va (numOf q.payload 0 8) (q.payload.drop 8) q.carried.wid.toNat q.carried.wctr.toNat with
    | .ok (st, fold, ordered, m1) => .ok (m1.respondWith q false false (b2n fold) (leBytes st.toNat 8) { Carried.none with ordered := ordered })
    | .error e => .error e

/-- Cell reconcile (R39). -/
def Module.msgReconcile (m : Module) (q : TunnelMsg) : Except Stop Module :=
  m.msgHome q 64 fun va =>
    match m.homeCellReconcile (m.remoteAcc true) va (fld q.aux.toNat 0 4) q.carried.wid.toNat q.carried.wctr.toNat with
    | .ok (st, v, m1) => .ok (m1.respond q false false 0 (leBytes st.toNat 8 ++ v))
    | .error e => .error e

/-- Summary merge (R39). -/
def Module.msgMerge (m : Module) (q : TunnelMsg) : Except Stop Module :=
  match skOf q.aux.toNat with
  | none => .ok (m.refuse q Cause.remoteKind)
  | some k => m.msgHome q (skSize k) fun va => match m.homeMerge (m.remoteAcc true) va k q.payload with
    | .ok (_, m1) => .ok (m1.respond q false false 0 [])
    | .error e => .error e

/-- Rescaling reduction (R39); the old m goes back with the response (R458; log entry 22). -/
def Module.msgRsc (m : Module) (q : TunnelMsg) : Except Stop Module :=
  let n := numOf q.payload 8 2
  m.msgHome q (16 + 4 * n) fun va => match m.homeRsc (m.remoteAcc true) va n q.payload with
    | .ok (old, m1) => .ok (m1.respondWith q false false 0 [] { Carried.none with old := BitVec.ofNat 32 old })
    | .error e => .error e

/-- Serves a message of kinds 0x01 to 0x05. -/
def Module.homeMsg (m : Module) (q : TunnelMsg) : Except Stop Module :=
  if badMessage q then .ok (m.refuse q Cause.remoteKind)
  else match q.kind.toNat with
    | 1 => m.msgCellLoad q
    | 2 => m.msgCellStore q
    | 3 => m.msgReconcile q
    | 4 => m.msgMerge q
    | 5 => m.msgRsc q
    | _ => .ok m

/-! ## Holding requests at their home (R41, R56, R228) -/

/-- The device a packet comes from. -/
def packetSrc : Packet → Nat
  | .request src _ _ _ _ => src
  | .completion _ _ _ _ _ => 1024
  | .tunnel q => q.areaSrc.toNat

/-- Runs a packet that asks for something at a home. -/
def Module.runPacket (m : Module) (p : Packet) : Except Stop Module :=
  match p with
  | .request src id off thread req => m.request' src id off thread req
  | .tunnel q => m.homeMsg q
  | .completion _ _ _ _ _ => .ok m

/-- What a page fault at the home is called in its record. -/
def packetKind : Packet → PfKind
  | .request _ _ _ _ (.read _) => .read
  | .request _ _ _ _ (.write _) => .write
  | .request _ _ _ _ (.chunk _ _ _) => .write
  | .request _ _ _ _ (.drain _ _ _ _ _ _) => .write
  | .request _ _ _ _ (.atomic _ _ _ _) => .home
  | .completion _ _ _ _ _ => .read
  | .tunnel _ => .home

/-- Keeps a packet at the station, on a page-fault record, on a snoop, or until it is presented again. -/
def Module.park (m : Module) (r : PfWait) (p : Packet) : Module := { m with fb := { m.fb with parked := m.fb.parked ++ [(r, p)] } }

/-- Presents a packet to its home; requests of one device stay in order behind one that is held. -/
def Module.present (m : Module) (p : Packet) : Module :=
  if m.fb.parked.any fun e => packetSrc e.2 == packetSrc p then m.park .none p
  else match m.runPacket p with
    | .ok m1 => m1
    | .error st =>
      let (r, m1) := m.askStop (m.remoteAcc false) (packetKind p) st
      m1.park r p

/-- Presents the held packets again, in order; one that waits on a record stays. -/
def Module.retryParked (m : Module) : Module :=
  m.fb.parked.foldl (fun m e => if e.1.waits then m.park e.1 e.2 else m.present e.2) { m with fb := { m.fb with parked := [] } }

/-- A request arrives, or the station presents one again that it has held. -/
def Module.arrive (m : Module) (p : Packet) : Module :=
  if !m.carries then m
  else if m.fb.parked.any fun e => e.2 == p then m.retryParked
  else m.present p

/-- REMOTE_REQUEST (R34). -/
def execRemoteRequest (src : Sender) (id offset : Nat) (req : RemoteReq) (s : State) : Out :=
  .next (s.on fun m => m.arrive (.request src.dev id offset src.thread req))

/-- CELL_LOAD (R39). -/
def execCellLoad (q : TunnelMsg) (s : State) : Out := .next (if q.kind = 1 then s.on fun m => m.arrive (.tunnel q) else s)
/-- CELL_STORE (R39). -/
def execCellStore (q : TunnelMsg) (s : State) : Out := .next (if q.kind = 2 then s.on fun m => m.arrive (.tunnel q) else s)
/-- CELL_RECONCILE (R39). -/
def execCellReconcile (q : TunnelMsg) (s : State) : Out := .next (if q.kind = 3 then s.on fun m => m.arrive (.tunnel q) else s)
/-- SUMMARY_MERGE (R39). -/
def execSummaryMerge (q : TunnelMsg) (s : State) : Out := .next (if q.kind = 4 then s.on fun m => m.arrive (.tunnel q) else s)
/-- RESCALING_REDUCTION (R39). -/
def execRescalingReduction (q : TunnelMsg) (s : State) : Out := .next (if q.kind = 5 then s.on fun m => m.arrive (.tunnel q) else s)

/-- REMOTE_POST_ARRIVAL (R121). -/
def execRemotePostArrival (src offset : Nat) (isMax : Bool) (value : BitVec 48) (s : State) : Out :=
  .next (s.on fun m => if m.carries && decide (src < 1024) && decide (offset ≥ postBase) then (m.remotePost offset value.toNat isMax).2 else m)

/-- REMOTE_READ_DROP (R229). -/
def execRemoteReadDrop (src : Nat) (s : State) : Out := .next (s.on fun m => if m.carries then m.readDrop src else m)

/-! ## Answers to this module (R36, R37) -/

/-- Whether a packet carries the request with an identity, of its own or combined in it. -/
def Outgoing.carries (o : Outgoing) (id : Nat) : Bool := packetAsks o.packet && (o.id == id || o.parts.any fun p => p.2.1 == id)

/-- Whether every request that a packet carries has been answered or has timed out. -/
def Module.outDone (m : Module) (o : Outgoing) : Bool :=
  (o.members.map fun p => p.2.1).all (fun i => decide (Tab.get .none m.fb.pending i = .none)) && decide (Tab.get .none m.fb.pending o.id = .none)

/-- Takes a request off the list of those waiting, and off the packets that may have to be sent again; what waited to be sent may then go. -/
def Module.dropPending (m : Module) (id : Nat) : Module :=
  let m1 := { m with fb := { m.fb with pending := Tab.set .none m.fb.pending id .none } }
  ({ m1 with fb := { m1.fb with outbox := m1.fb.outbox.filter fun o => !(o.carries id && m1.outDone o) } } : Module).pump

/-- A copy of a multicast whose maker has ended is done (R48). -/
def Module.copyDone (m : Module) (idx : Option Nat) : Module :=
  match idx with
  | some i => { m with fb := { m.fb with mcbusy := Tab.modify 0 m.fb.mcbusy i (· - 1) } }
  | none => m

/-- The answer to a plain request, delivered to who made it. -/
def Module.deliverAnswer (m : Module) (id : Nat) (p : Pending) (cause count : Nat) (bs : List Byte) : Module :=
  match p with
  | .access cx serial _ => m.accessAnswer cx serial cause count bs
  | .scalar cx _ _ => (m.sAnswer cx id cause bs).modCtx cx fun t => t.pollAnswer id cause bs
  | .copy cx serial dev len _ => m.mcastAck cx serial dev (if cause = 0 then len else count) (BitVec.ofNat 7 cause)
  | .row cx _ => m.mAnswer cx id cause bs
  | .post q _ _ => m.postAnswer q cause
  | .orphan idx _ => m.copyDone idx
  | .tunnel _ _ _ | .group _ _ _ _ _ _ | .drop _ _ | .none => m

/-- Whether the answer to a request goes through the L1 of the core that made it: a load of the S queue, or an RLD (R214). -/
def Module.throughL1 (m : Module) (p : Pending) : Bool :=
  match p with
  | .scalar _ _ _ => true
  | .access cx serial _ => (m.ctx cx).x.c1q.any fun e => e.serial == serial && (match e.kind with | .rld _ _ _ => true | _ => false)
  | _ => false

/-- The bytes that a read of another module brings may stand in the L1 of the core that asked (R214). -/
def Module.keepAnswer (m : Module) (id cause : Nat) (bs : List Byte) (cell : Bool) : Module :=
  match firstWhere (fun o : Outgoing => o.carries id) m.fb.outbox with
  | some o => match o.packet with
    | .request _ _ off _ (.read _) =>
      if cause = 0 && m.throughL1 (Tab.get .none m.fb.pending id) then m.roKeep (o.sq / 2) o.dev off id bs cell else m
    | _ => m
  | none => m

/-- A request is answered: it is taken off, and its maker has the answer. -/
def Module.answered (m : Module) (id cause count : Nat) (bs : List Byte) (cell : Bool) : Module :=
  ((m.keepAnswer id cause bs cell).dropPending id).deliverAnswer id (Tab.get .none m.fb.pending id) cause count bs

/-- The answer to a combined request: each requester receives the old value that separate requests would have given it (R45). -/
def Module.partsAnswer (op : AmoOp) (n : Nat) (cause count : Nat) : List (Nat × Nat × Word64) → Nat → Module → Module
  | [], _, m => m
  | p :: l, old, m => Module.partsAnswer op n cause count l (amoNew op n old (p.2.2.toNat % 2 ^ (8 * n)) 0) (m.answered p.2.1 cause count (leBytes old n) false)

/-- The completion of a plain request arrives. -/
def Module.completion (m : Module) (id cause count : Nat) (bs : List Byte) (cell : Bool) : Module :=
  match firstWhere (fun o : Outgoing => o.id == id && packetAsks o.packet && !o.parts.isEmpty) m.fb.outbox with
  | some o => match o.packet with
    | .request _ _ _ _ (.atomic op wide _ _) => Module.partsAnswer op (if wide then 8 else 4) cause count o.parts (leNat bs) m
    | _ => m
  | none => m.answered id cause count bs cell

/-- An error message that stands for a response that never came. -/
def timeoutMsg : TunnelMsg :=
  { kind := 0x80, flags := 1, tag := 0, src := 0, len := 4, offset := 0, aux := 0, payload := leBytes Cause.remoteTimeout.toNat 4, areaSrc := 0,
    areaRsp := true, carried := .none }

/-- A response message arrives, and frees its tag (R37). -/
def Module.response (m : Module) (q : TunnelMsg) : Module :=
  let tag := fld q.tag.toNat 0 15
  let m1 := m.dropPending tag
  if !q.areaRsp || !bit q.kind.toNat 7 || fld q.src.toNat 0 10 != q.areaSrc.toNat || !m.carries then m
  else match Tab.get .none m.fb.pending tag with
    | .tunnel cx serial _ => m1.c1TunnelAnswer cx serial q
    | .group slot j kind round arg _ => m1.groupAnswer slot j kind round arg tag q
    | .orphan _ _ => m1
    | _ => m

/-- TUNNEL_RESPONSE (R37). -/
def execTunnelResponse (q : TunnelMsg) (s : State) : Out := .next (s.on fun m => m.response q)

/-- The count of cycles in which a request's limit is: that of its thread's core, or the ungated ACLK (R16, R36). -/
def Module.clockOf (m : Module) (p : Pending) : Nat :=
  match p with
  | .access cx _ _ => m.coreClock (coreOf cx)
  | .scalar cx _ _ => m.coreClock (coreOf cx)
  | .tunnel cx _ _ => m.coreClock (coreOf cx)
  | .copy cx _ _ _ _ => m.coreClock (coreOf cx)
  | .row cx _ => m.coreClock (coreOf cx)
  | .group _ _ _ _ _ _ => m.clk.cycle
  | .post _ _ _ => m.clk.cycle
  | .drop _ _ => m.clk.cycle
  | .orphan _ _ => m.clk.cycle
  | .none => m.clk.cycle

/-- The cycle at which a request was sent, and the limit that binds it: FRLIM of its thread, else DEVFRLIM; 0 acts as 1 (R36). -/
def Module.limitOf (m : Module) (p : Pending) : Nat × Nat :=
  let dev := Nat.max 1 (fld m.fb.devfrlim.toNat 0 32)
  let thr := fun cx => Nat.max 1 (fld (m.ctx cx).csr.frlim.toNat 0 32)
  match p with
  | .access cx _ t => (t, thr cx)
  | .scalar cx _ t => (t, thr cx)
  | .tunnel cx _ t => (t, thr cx)
  | .copy cx _ _ _ t => (t, thr cx)
  | .row cx t => (t, thr cx)
  | .group _ _ _ _ _ t => (t, dev)
  | .post _ _ t => (t, dev)
  | .drop _ t => (t, dev)
  | .orphan _ t => (t, dev)
  | .none => (0, 0)

/-- Whether a request's limit has passed. -/
def Module.timedOut (m : Module) (p : Pending) : Bool :=
  p != .none && decide ((m.limitOf p).1 + (m.limitOf p).2 ≤ m.clockOf p)

/-- The device that a request was sent to. -/
def Module.targetOf (m : Module) (id : Nat) : Option Nat := (firstWhere (fun o : Outgoing => o.carries id) m.fb.outbox).map fun o => o.dev

/-- A device has let a request time out: the coding groups of which it is a member treat it as failed (R36, R93). -/
def Module.deviceFailed (m : Module) (d : Nat) : Module :=
  (range' 0 8).foldl (fun m slot =>
    let g := m.group slot
    match g.memberOf d with
    | some j => if g.valid && g.isLive j then m.loseMember slot j Cause.remoteTimeout else m
    | none => m) m

/-- REMOTE_TIMEOUT: a request whose limit has passed ends with that cause (R36). -/
def Module.remoteTimeout (m : Module) (id : Nat) : Module :=
  let p := Tab.get .none m.fb.pending id
  let failed := fun m1 : Module => match m.targetOf id with
    | some d => m1.deviceFailed d
    | none => m1
  if !m.timedOut p then m
  else
    let m1 := m.dropPending id
    match p with
    | .tunnel cx serial _ => failed (m1.c1TunnelAnswer cx serial timeoutMsg)
    | .group slot j kind _ _ _ => m1.groupTimeout slot j kind
    | p => failed (m1.deliverAnswer id p Cause.remoteTimeout.toNat 0 [])

/-- REMOTE_TIMEOUT (R36). -/
def execRemoteTimeout (id : Nat) (s : State) : Out := .next (s.on fun m => m.remoteTimeout id)

/-! ## Links (R50 to R52) -/

/-- The event that a delivered request or message is (R34, R39). -/
def packetEvent (p : Packet) : Option Instr :=
  match p with
  | .request src id off thread req => some (.remoteRequest ⟨src, thread⟩ id off req)
  | .completion _ _ _ _ _ => none
  | .tunnel q =>
    if q.areaRsp then (if bit q.kind.toNat 7 then some (.tunnelResponse q) else none)
    else match q.kind.toNat with
      | 0x01 => some (.cellLoad q) | 0x02 => some (.cellStore q) | 0x03 => some (.cellReconcile q) | 0x04 => some (.summaryMerge q)
      | 0x05 => some (.rescalingReduction q) | 0x10 => some (.roundDelta q) | 0x11 => some (.prepare q) | 0x12 => some (.decide q)
      | 0x13 => some (.stateQuery q) | 0x14 => some (.shareRequest q) | 0x15 => some (.revoke q) | 0x16 => some (.voteRequest q)
      | _ => none

/-- A whole packet is delivered: the next event is its own step; an unassigned kind is refused (R40). -/
def Module.deliverPacket (m : Module) (p : Packet) : Module :=
  match packetEvent p, p with
  | some i, _ => { m with agenda := .event i :: m.agenda }
  | none, .completion id c n bs cell => m.completion id c n bs cell
  | none, .tunnel q => m.refuse q Cause.remoteKind
  | none, .request _ _ _ _ _ => m

/-- PACKET_RECEIVE: a packet whose flits are good is delivered in the order of the link's numbers, and once (R50). -/
def Module.packetReceive (m : Module) (n seq : Nat) (crcOk : Bool) (p : Packet) : Module :=
  let st := m.station n
  if !m.carries || !st.live || st.retraining || !crcOk || seq != st.delivered then m
  else (m.modStation n fun x => { x with delivered := x.delivered + 1 }).deliverPacket p

/-- PACKET_RECEIVE (R50). -/
def execPacketReceive (station seq : Nat) (crcOk : Bool) (p : Packet) (s : State) : Out :=
  if station < 36 then .next (s.on fun m => m.packetReceive station seq crcOk p) else .fault .noSuchUnit

/-- LANE_LOSS: both ends stop sending and retrain; the receiver reports how much the link has delivered (R51). -/
def execLaneLoss (station lane : Nat) (s : State) : Out :=
  if station < 36 && decide (lane < 4) then
    .next (s.on fun m => m.modStation station fun x =>
      { x with failed := if x.failed.contains lane then x.failed else lane :: x.failed, retraining := true, reported := x.delivered })
  else .fault .noSuchUnit

/-- The lanes of the widest width that the good ones allow: all four; lanes 0 and 1 or 2 and 3, whichever pair has no failed lane; the lowest good
lane; or none (R51). -/
def goodLanes (failed : List Nat) : List Nat :=
  let good := fun l => !failed.contains l
  if good 0 && good 1 && good 2 && good 3 then [0, 1, 2, 3]
  else if good 0 && good 1 then [0, 1]
  else if good 2 && good 3 then [2, 3]
  else ((range' 0 4).filter good).take 1

/-- The widest width that the good lanes allow: 4, 2, 1, or 0 for none (R51). -/
def widthOf (failed : List Nat) : Nat := (goodLanes failed).length

/-- A station that trains with some failed lanes: at the width that the others allow, or not at all (R22, R25, R28). -/
def Station.trained (x : Station) (failed : List Nat) : Station :=
  { x with failed := failed, lanes := goodLanes failed, width := widthOf failed, down := widthOf failed == 0, retraining := false }

/-- Stations, scale-out ports and CXL ports train (R22 step 7); `bad` numbers what fails as BOOT_STEP does. -/
def Module.trainLinks (m : Module) (bad : List Nat) : Module :=
  let m1 := (range' 0 36).foldl (fun m n => m.modStation n fun x => x.trained ((range' 0 4).filter fun l => bad.contains (4 * n + l))) m
  { m1 with
    mm := { m1.mm with hostDown := bad.contains 144, poolDown := bad.contains 145 }
    fb := { m1.fb with ethUp := (range' 0 10).filter fun p => !bad.contains (146 + p) } }

/-- Whether a packet stands on a station with its link's acknowledgement still to come. -/
def Outgoing.unacked (o : Outgoing) (n : Nat) : Bool := o.station == n && o.seq.isSome && !o.acked

/-- The packets of a station that its link has not acknowledged move, in the order of their numbers, to the stations now given, ahead of what
waits (R52). -/
def Module.movePackets (m : Module) (n : Nat) : Module :=
  let moved := sortBy (fun a b : Outgoing => decide (a.seq.getD 0 ≤ b.seq.getD 0)) (m.fb.outbox.filter fun o => o.unacked n)
  let held := m.fb.outbox.filter fun o => o.seq.isNone
  let m1 := moved.foldl Module.sendOut { m with fb := { m.fb with outbox := m.fb.outbox.filter fun o => o.seq.isSome && !o.unacked n } }
  ({ m1 with fb := { m1.fb with outbox := m1.fb.outbox ++ held } } : Module).pump

/-- A station leaves the live list, and its packets move (R52). -/
def Module.stationDown (m : Module) (n : Nat) : Module :=
  (m.modStation n fun x => { x with down := true, retraining := false, lanes := [], width := 0 }).movePackets n

/-- The link of a station acknowledges its packets up to a number: a request waits on for its answer, anything else is done (R30, R51, R52). -/
def Module.linkAck (m : Module) (n seq : Nat) : Module :=
  let hit := fun o : Outgoing => o.station == n && match o.seq with | some k => decide (k ≤ seq) | none => false
  let l := (m.fb.outbox.filter fun o => !(hit o && !packetAsks o.packet)).map fun o => if hit o then { o with acked := true } else o
  ({ m with fb := { m.fb with outbox := l } } : Module).pump

/-- RETRAIN_COMPLETE: the sender goes on from the first packet that is not acknowledged, at the new width; or the station leaves L (R51, R52). -/
def Module.retrain (m : Module) (n : Nat) : Module :=
  let st := m.station n
  if !st.retraining then m
  else
    let w := widthOf st.failed
    if w = 0 then (m.stationDown n).notice 4 n Cause.stationDown 0 []
    else
      let m1 := (m.modStation n fun x => { x with retraining := false, lanes := goodLanes x.failed, width := w }).pump
      if w < 4 then m1.notice 4 n Cause.linkDegraded 0 [BitVec.ofNat 8 w] else m1

/-- RETRAIN_COMPLETE (R51). -/
def execRetrainComplete (station : Nat) (s : State) : Out :=
  if station < 36 then .next (s.on fun m => m.retrain station) else .fault .noSuchUnit

/-! ## The import table (R33, R34, R505) -/

/-- The first reason of R34's list that refuses a valid entry: 0 overlap, 1 the tunnel range, 2 past the window's end. -/
def Module.importBad (m : Module) (i : Nat) (w0 : Word64) : Option Nat :=
  let lo := impBase w0
  let hi := lo + impLen w0
  let overlap := m.fb.imports.any fun e => e.1 != i && bit e.2.1.toNat 63 && decide (lo < impBase e.2.1 + impLen e.2.1) && decide (impBase e.2.1 < hi) &&
    impLen w0 != 0 && impLen e.2.1 != 0
  if overlap then some 0
  else if lo ≥ tunnelBase || decide (hi > tunnelBase) then some 1
  else none

/-- Writes a word of an import entry; a refused write leaves the entry invalid and its reason in IMPSTAT (R505). -/
def Module.importWrite (m : Module) (i : Nat) (second : Bool) (v : Word64) : Module :=
  let e := m.importEntry i
  let put := fun (w : Word64 × Word64) (x : Word64) => { m with fb := { m.fb with imports := Tab.set (0, 0) m.fb.imports i w, impstat := x } }
  if second then put (e.1, v &&& 0x000FFFFFFFFF07FF) m.fb.impstat
  else if !bit v.toNat 63 then put (v, e.2) m.fb.impstat
  else match m.importBad i v with
    | none => put (v, e.2) m.fb.impstat
    | some r => put (v &&& 0x7FFFFFFFFFFFFFFF, e.2) (BitVec.ofNat 64 (2 ^ 63 + r * 2 ^ 42 + i * 2 ^ 32 + Cause.importRefused.toNat))

/-- IMPORT_ENTRY_WRITE (R33, R34). -/
def execImportEntryWrite (entry : BitVec 10) (second : Bool) (v : Word64) (s : State) : Out :=
  .next (s.on fun m => m.importWrite entry.toNat second v)

/-! ## The multicast table (R46 to R48) -/

/-- BUSY of MCCMD. -/
def Module.mcBusy (m : Module) : Bool := bit m.fb.mccmd.toNat 63

/-- Installs MCSTAGE into an entry. -/
def Module.mcInstall (m : Module) (i : Nat) : Module :=
  let n := natSum ((range' 0 16).map fun w => popcount (Tab.get 0 m.fb.mcstage w).toNat 64)
  { m with fb := { m.fb with mcmap := Tab.set [] m.fb.mcmap i m.fb.mcstage, mcctl := Tab.set 0 m.fb.mcctl i (BitVec.ofNat 64 (2 ^ 63 + n)) } }

/-- Clears VALID of an entry. -/
def Module.mcClear (m : Module) (i : Nat) : Module :=
  { m with fb := { m.fb with mcctl := Tab.modify 0 m.fb.mcctl i fun w => w &&& 0x7FFFFFFFFFFFFFFF } }

/-- Whether replications from an entry are still in flight. -/
def Module.mcInFlight (m : Module) (i : Nat) : Bool := Tab.get 0 m.fb.mcbusy i != 0

/-- A command on an entry: at once, or when the replications that started earlier have drained (R48). -/
def Module.mcCommand (m : Module) (i : Nat) (set : Bool) : Module :=
  if m.mcBusy then m
  else if m.mcInFlight i then { m with fb := { m.fb with mccmd := BitVec.ofNat 64 (2 ^ 63 + (if set then 2 ^ 9 else 2 ^ 8) + i) } }
  else if set then m.mcInstall i else m.mcClear i

/-- MCAST_SETV (R47). -/
def execMcastSetv (idx : BitVec 8) (s : State) : Out := .next (s.on fun m => m.mcCommand idx.toNat true)
/-- MCAST_CLRV (R47). -/
def execMcastClrv (idx : BitVec 8) (s : State) : Out := .next (s.on fun m => m.mcCommand idx.toNat false)

/-- MCCMD_COMPLETE (R48). -/
def Module.mcComplete (m : Module) : Module :=
  let i := fld m.fb.mccmd.toNat 0 8
  let m1 := { m with fb := { m.fb with mccmd := 0 } }
  if !m.mcBusy || m.mcInFlight i then m else if bit m.fb.mccmd.toNat 9 then m1.mcInstall i else m1.mcClear i

/-- MCCMD_COMPLETE (R48). -/
def execMccmdComplete (s : State) : Out := .next (s.on Module.mcComplete)

/-- A write of MCCMD (R47). -/
def Module.writeMccmd (m : Module) (v : Word64) : Module :=
  let set := bit v.toNat 9
  let clr := bit v.toNat 8
  if set == clr then m else m.mcCommand (fld v.toNat 0 8) set

/-- A write of MCSTAGE; ignored while BUSY is 1. -/
def Module.writeMcstage (m : Module) (w : Nat) (v : Word64) : Module :=
  if m.mcBusy || decide (w ≥ 16) then m else { m with fb := { m.fb with mcstage := Tab.set 0 m.fb.mcstage w v } }

/-! ## The scale-out ports (R53) -/

/-- How an RDMA access of a peer enters: in the address space of its queue pair, at user level, by no thread of this module (log entry 28). -/
def rdmaAcc (asid : Nat) : Acc := ⟨0, asid, 0, true, false, false, false, none⟩

/-- Serves an RDMA access of a peer: a read is answered with its data, a write reaches memory, a send is delivered. -/
def Module.rdmaServe (m : Module) (asid : Nat) (req : RdmaReq) : Except Stop Module :=
  match req with
  | .read va n => match m.readG (rdmaAcc asid) va n with
    | .ok (bs, m1) => .ok { m1 with fb := { m1.fb with rdmaOut := m1.fb.rdmaOut ++ [.answer bs] } }
    | .error st => .error st
  | .write va bs => m.writeG (rdmaAcc asid) va bs
  | .send bs => .ok { m with fb := { m.fb with rdma := m.fb.rdma ++ [bs] } }

/-- Serves an RDMA access, or holds it on a page-fault record or a snoop; one that faults changes nothing. -/
def Module.rdmaTry (m : Module) (asid : Nat) (req : RdmaReq) : Module :=
  let kind := match req with
    | .read _ _ => PfKind.read
    | .write _ _ => PfKind.write
    | .send _ => PfKind.write
  match m.rdmaServe asid req with
  | .ok m1 => m1
  | .error (.fault c a) => m.noteFull c a
  | .error st =>
    let (w, m1) := m.askStop (rdmaAcc asid) kind st
    { m1 with fb := { m1.fb with rdmaHeld := m1.fb.rdmaHeld ++ [(w, asid, req)] } }

/-- Tries the held RDMA accesses again, in order; one that waits on a record stays. -/
def Module.retryRdma (m : Module) : Module :=
  m.fb.rdmaHeld.foldl (fun m e => if e.1.waits then { m with fb := { m.fb with rdmaHeld := m.fb.rdmaHeld ++ [e] } } else m.rdmaTry e.2.1 e.2.2)
    { m with fb := { m.fb with rdmaHeld := [] } }

/-- What waited at the homes goes on as far as it may: writes of the module's own units, then requests of other modules, then RDMA accesses. -/
def Module.goAhead (m : Module) : Module := (m.flushLate.retryParked).retryRdma

/-! ## The external host on port A (R55 to R60, R215, R247) -/

/-- The places of the valid entries of a table of `2 ^ w` entries of `k` bytes: those whose last byte of word 0, which holds V, is listed. -/
def Module.tableEntries (m : Module) (base w k : Nat) : List Nat :=
  (m.mm.mem.filter fun e => decide (base ≤ e.1) && decide (e.1 < base + k * 2 ^ w) && (e.1 - base) % k == 7 && bit e.2.toNat 7).map fun e => e.1 - 7

/-- The well-formed leaves below a table, level by level (R217 to R219). -/
def Module.leavesFrom (m : Module) : List (Nat × Nat × Nat × Nat) → Nat → List Leaf
  | [], _ => []
  | (_, w, size, align) :: rest, base => (m.tableEntries base w 16).flatMap fun p =>
    let w0 := m.peekN p 8
    let w1 := m.peekN (p + 8) 8
    if bit w0 62 then (if leafOk w0 w1 size then [⟨w0, w1, size, p⟩] else [])
    else if nextOk w0 w1 align then m.leavesFrom rest (fld w0 9 43 * 512)
    else []

/-- Every leaf of every address space (R216). -/
def Module.leaves (m : Module) : List Leaf :=
  (m.tableEntries (fld m.tr.atbase.toNat 19 33 * 2 ^ 19) 16 8).flatMap fun p => m.leavesFrom walkLevels (fld (m.peekN p 8) 21 31 * 2 ^ 21)

/-- The leaves by which a physical address may be known to be a cell's: those the translation units hold, else those of the tables (log entry 26). -/
def Module.knownLeaves (m : Module) : List Leaf := (m.tr.tlb.map fun e => (⟨e.w0.toNat, e.w1.toNat, e.size, e.at_⟩ : Leaf)) ++ m.leaves

/-- The cell that a half-line is, where a leaf says that its page is VERSIONED, or a coding group protects it as one (R258; log entry 26). -/
def Module.cellOf (m : Module) (h : Nat) : Option CellAt :=
  let base := fun l : Leaf => fld l.w0 16 36 * 2 ^ 16
  match firstWhere (fun l : Leaf => bit l.w0 60 && decide (base l ≤ 64 * h) && decide (64 * h < base l + l.size)) m.knownLeaves with
  | some l => some ⟨64 * h, ⟨64 * h, l, base l⟩⟩
  | none => ((range' 0 8).filterMap fun s => if (m.group s).valid then (m.group s).cellAt h else none).head?

/-- Writes the bytes of a half-line that a mask names, for the host (R84, R232, R258). A write that cannot be performed leaves the line. -/
def Module.hostPut (m : Module) (h : Nat) (mask : Nat) (data : Nat) : Module :=
  let cell := m.cellOf h
  let old := match cell with
    | some c => (m.cell c).first
    | none => m.peek (64 * h) 64
  let new := (range' 0 64).map fun j => if bit mask j then BitVec.ofNat 8 (fld data (8 * j) 8) else (old.drop j).headD 0
  let whole := mask % 2 ^ 64 == 2 ^ 64 - 1
  if m.mm.poison.contains h && (!whole || m.protectedLine h || cell.isSome) then m
  else match m.protectWrite none h ⟨old, cell.isSome⟩ with
    | .error e => m.noteFull e.1 e.2
    | .ok m1 => match cell with
      | some c => match m1.cellPlain c false new with
        | .ok m2 => m2
        | .error _ => m1
      | none => ((m1.poke (64 * h) new).clearPoison (64 * h) 64).register h 0

/-- What the host reads of a half-line: the newest value, the registrant's where a core has registered it; none where it is poisoned (R59). -/
def Module.hostLine (m : Module) (h : Nat) : Option (BitVec 512) :=
  if m.mm.poison.contains h then none
  else some (BitVec.ofNat 512 (leNat (match m.cellOf h with
    | some c => (m.cell c).first
    | none => m.peek (64 * h) 64)))

/-- Answers a read of the host (R59). -/
def Module.hostAnswer (m : Module) (h : Nat) : Module := { m with mm := { m.mm with hostOut := m.mm.hostOut ++ [(h, m.hostLine h)] } }

/-- Sets the host's hold on a half-line. -/
def Module.setHold (m : Module) (h : Nat) (x : HostHold) : Module :=
  { m with mm := { m.mm with hostHold := Tab.set HostHold.I m.mm.hostHold h x } }

/-- HOST_REQUEST on a half-line of the HDM window: registered words are recalled first (R59, R215). -/
def Module.hostRequest (m : Module) (pa : Nat) (req : HostReq) : Module :=
  let h := pa / 64
  let m1 := m.register h 0
  if m.mm.hostDown || pa ≥ m.silo.hdmWindow.toNat || !isHbm pa || (m.migratingFrame pa && req != .evict && req != .readShared) then m
  else match req with
    | .readShared => (m1.setHold h (if m.held h = .M then HostHold.M else HostHold.S)).hostAnswer h
    | .readOwn => (m1.setHold h HostHold.M).hostAnswer h
    | .write mask data => m1.hostPut h mask.toNat data.toNat
    | .writeBack data => if m.held h = .M then (m1.setHold h HostHold.I).hostPut h (2 ^ 64 - 1) data.toNat else m
    | .evict => if m.held h = .S then m.setHold h HostHold.I else m

/-- HOST_REQUEST (R247). -/
def execHostRequest (pa : Nat) (req : HostReq) (s : State) : Out := .next (s.on fun m => (m.hostRequest pa req).goAhead)

/-- SNOOP_COMPLETE: the host gives up a half-line, with its data where it has modified it (R56, R58, R215). -/
def Module.snoopComplete (m : Module) (pa : Nat) (data : Option (BitVec 512)) : Module :=
  let h := pa / 64
  if !m.mm.snoops.contains h then m
  else
    let m1 := { m with mm := { m.mm with snoops := m.mm.snoops.filter (· != h) } }
    let m2 := m1.setHold h HostHold.I
    match m.held h, data with
    | .M, some d => m2.hostPut h (2 ^ 64 - 1) d.toNat
    | _, _ => m2

/-- SNOOP_COMPLETE (R56). -/
def execSnoopComplete (pa : Nat) (data : Option (BitVec 512)) (s : State) : Out := .next (s.on fun m => (m.snoopComplete pa data).goAhead)

/-- An access that stalls on a snoop completes with MEM_POISON (R60). -/
def PfWait.unanswered (w : PfWait) : PfWait :=
  match w with
  | .snoop _ => .poison
  | w => w

/-- What a request or message of another module completes with where the access it makes fails. -/
def Module.failPacket (m : Module) (p : Packet) (c : Cause) : Module :=
  match p with
  | .request src id _ _ _ => m.complete src id c 0 []
  | .tunnel q => m.refuse q c
  | .completion _ _ _ _ _ => m

/-- Every access that stalls on a snoop, of a thread, a command or another module, completes with MEM_POISON (R60). -/
def Module.failStalled (m : Module) : Module :=
  let snooped := fun e : PfWait × Packet => match e.1 with | .snoop _ => true | _ => false
  let m1 := (m.mapCtxs fun _ t => t.pfMap PfWait.unanswered).memMap PfWait.unanswered
  let m2 : Module := { m1 with fb := { m1.fb with
    parked := m1.fb.parked.filter fun e => !snooped e
    rdmaHeld := m1.fb.rdmaHeld.filter fun e => match e.1 with | .snoop _ => false | _ => true } }
  (m.fb.parked.filter snooped).foldl (fun m e => m.failPacket e.2 Cause.memPoison) m2

/-- The oldest write of the module's own units stalls on a snoop, which is never answered: it ends with MEM_POISON, and is lost (R60). -/
def Module.lateFailed (m : Module) : Module :=
  match m.mm.late with
  | [] => m
  | e :: l => match m.writeV e.1 e.2.1 e.2.2.1 e.2.2.2 with
    | .error (.snoop _) => { m with mm := { m.mm with late := l } }
    | .error (.cause _) => m
    | .error .wait => m
    | .ok _ => m

/-- Port A goes down: every half-line that the host held, shared or modified, is poisoned, and the accesses that stall on a snoop complete with
MEM_POISON (R60; log entry 26). -/
def Module.portADown (m : Module) : Module :=
  if m.mm.hostDown then m
  else
    let m1 := (m.mm.hostHold.map Prod.fst).foldl (fun m h => m.addPoison h) m.lateFailed
    ({ m1 with mm := { m1.mm with hostHold := [], snoops := [], hostDown := true } } : Module).failStalled.siloNotice 0 Cause.hostLinkDown []

/-- BI_TIMEOUT: a snoop has not been answered within the back-invalidation limit (R60). -/
def execBiTimeout (s : State) : Out := .next (s.on fun m => if m.mm.snoops = [] then m else m.portADown.goAhead)

/-- HOST_LINK_DOWN (R60). -/
def execHostLinkDown (s : State) : Out := .next (s.on fun m => m.portADown.goAhead)

/-! ## The pool on port B (R61, R62, R467) -/

/-- POOL_LINK_DOWN: later accesses fault, and spilled chunks are lost; their receivers take MEM_POISON with the ring in the detail (R62, R467). The
spec names no address for EDATA (log entry 4). -/
def Module.poolLinkDown (m : Module) : Module :=
  if m.mm.poolDown then m
  else
    let lost := m.fb.spilled.map (fun e => (e.1, e.2.1)) ++ (m.fb.chunks.filter fun e => e.2.2.2.1 == 16).map fun e => (e.1, e.2.1)
    let once := lost.foldl (fun acc e => if acc.contains e then acc else acc ++ [e]) []
    let m1 := { m with
      mm := { m.mm with poolDown := true }
      fb := { m.fb with spilled := [], chunks := m.fb.chunks.filter fun e => e.2.2.2.1 != 16 } }
    (once.foldl (fun m e =>
      let (bs, m1) := m.freeBytes 8
      m1.modCtx e.1 fun t => t.hold true (imprecise Cause.memPoison (BitVec.ofNat 25 e.2) (BitVec.ofNat 64 (leNat bs)))) m1).notice 5 1 Cause.poolLinkDown 0 []

/-- POOL_LINK_DOWN (R62). -/
def execPoolLinkDown (s : State) : Out := .next (s.on Module.poolLinkDown)

/-! ## RDMA requests and errors (R13, R26, R53, R62) -/

/-- RDMA_REQUEST_ARRIVAL: only through a port that is up and keyed (R53, R131). -/
def Module.rdmaArrival (m : Module) (asid : Nat) (req : RdmaReq) : Module :=
  if !m.keyed || m.fb.ethUp.isEmpty then m else m.retryRdma.rdmaTry asid req

/-- A scale-out port comes up or goes down (R53). -/
def Module.ethernet (m : Module) (port : Nat) (up : Bool) : Module :=
  let rest := m.fb.ethUp.filter (· != port)
  { m with fb := { m.fb with ethUp := if up && decide (port < 10) then rest ++ [port] else rest } }

/-- An error of a half-line of HBM: a corrected one is counted for the die of its stack, an uncorrectable one poisons the half-line (R13). -/
def Module.memError (m : Module) (half : Nat) (corrected : Bool) : Module :=
  if !isHbm (64 * half) then m
  else if corrected then { m with silo := { m.silo with memErrors := Tab.modify 0 m.silo.memErrors (stackOf (64 * half) / 4) (· + 1) } }
  else m.addPoison half

/-- A read of the pool has returned poison: the half-line is poisoned (R62). -/
def Module.poolError (m : Module) (half : Nat) : Module :=
  if half < 2 ^ 36 then { m with mm := { m.mm with poolPoison := if m.mm.poolPoison.contains half then m.mm.poolPoison else half :: m.mm.poolPoison } } else m

/-- A station's peer refuses encryption, and the station stays down; or it takes it (R26). -/
def Module.peerRefuses (m : Module) (n : Nat) (refuses : Bool) : Module :=
  let m1 := m.modStation n fun x => { x with refused := refuses }
  if refuses then m1.movePackets n else m1.pump

/-- RDMA_REQUEST_ARRIVAL (R53). -/
def execRdmaRequestArrival (asid : BitVec 16) (req : RdmaReq) (s : State) : Out := .next (s.on fun m => m.rdmaArrival asid.toNat req)

end Sys2Proof.Machine
end

