-- ==== Sys2Proof/Machine/Tenancy.lean ====
section
/-!
DEFINITION. Power, temperature, resets, boot, the management port, Silo's mailbox and the tenancy cycle: rules R18 to R24, R75, R110, R111 and
R131 to R137.
-/

namespace Sys2Proof.Machine

/-! ## Time (R15) -/

/-- Cycles of ACLK in a second: 850 MHz. -/
def cyclesPerSecond : Nat := 850000000

/-- Cycles of the hold after a thermal shutdown: 60 s (R19). -/
def holdCycles : Nat := 60 * cyclesPerSecond

/-! ## Silo's state, its reports on the management port (R24) -/

/-- Changes Silo's state. -/
def Module.modSilo (m : Module) (f : Silo → Silo) : Module := { m with silo := f m.silo }

/-- Gives out a record on the management port. -/
def Module.say (m : Module) (bs : List Byte) : Module := m.modSilo fun x => { x with mgmt := x.mgmt ++ [bs] }

/-- Replies to the control cores through the mailbox. -/
def Module.reply (m : Module) (bs : List Byte) : Module := m.modSilo fun x => { x with mailbox := x.mailbox ++ [bs] }

/-- Whether Silo, the boot and the dies have power, and no reset runs. -/
def Module.isUp (m : Module) : Bool := m.silo.power == .up

/-- Whether the rails are on, in a boot sequence or after it. -/
def Module.powered (m : Module) : Bool :=
  match m.silo.power with
  | .up => true
  | .booting _ => true
  | .off => false
  | .shutdown _ _ => false

/-! ## Resets (R20, R21) -/

/-- A cold reset: all state but boot flash, fuses and Silo's nonvolatile store (R20); the external host's own memory is no state of the module. What
is still to come of the outside world and the counters of free values are the model's own (log entries 1 to 5). -/
def Module.coldReset (m : Module) : Module :=
  let z := Module.reset
  { z with
    agenda := m.agenda
    clk := { m.clk with cycle := 0, debt := [] }
    mm := { z.mm with hostMem := m.mm.hostMem }
    silo := { z.silo with flash := m.silo.flash, tcount := m.silo.tcount } }

/-- All state outside the VSTBY domain is gone (R20): Silo, its log, the management port and what the power controller has measured stay. The spec
does not say in which domain the HDM window, the back-invalidation limit and the mailbox lie: they are cleared (log entry 68). -/
def Module.standby (m : Module) (p : Power) : Module :=
  let z := Module.reset
  { z with
    agenda := m.agenda
    clk := m.clk
    mm := { z.mm with hostMem := m.mm.hostMem }
    silo := { m.silo with power := p, tstate := .release, suspended := false, keys := 0, mailbox := [], hdmWindow := 0, biLimit := 16 } }

/-- A warm reset starts its sequence (R20). -/
def Module.warmReset (m : Module) : Module := (m.standby (.booting 1)).modSilo fun x => { x with warm := true }

/-- A cold reset request: it abandons a warm reset that runs, and is absorbed by a cold one (R21). -/
def Module.coldRequest (m : Module) : Module :=
  match m.silo.power with
  | .booting _ => if m.silo.warm then m.coldReset else m
  | .up => m.coldReset
  | .off => m
  | .shutdown _ _ => m

/-- A request that ends a thermal shutdown once its 60 s have passed, and is held until then (R19). -/
def Module.holdRequest (m : Module) : Module :=
  match m.silo.power with
  | .shutdown t _ => if t + holdCycles ≤ m.clk.cycle then m.coldReset else m.modSilo fun x => { x with power := .shutdown t true }
  | .off => m
  | .booting _ => m
  | .up => m

/-- POWER_ON: VIN48 rises, which starts a cold reset (R20). A thermal shutdown outlasts it (R19). -/
def execPowerOn (s : State) : Out :=
  .next (s.on fun m => match m.silo.power with
    | .off => m.coldReset
    | .shutdown _ _ => m
    | .booting _ => m.coldRequest
    | .up => m.coldRequest)

/-- COLD_RESET_REQUEST (R19, R20). -/
def execColdResetRequest (s : State) : Out := .next (s.on fun m => m.coldRequest.holdRequest)

/-- POWER_UP_REQUEST (R19). -/
def execPowerUpRequest (s : State) : Out := .next (s.on Module.holdRequest)

/-- SHUTDOWN_HOLD_EXPIRY (R19). -/
def execShutdownHoldExpiry (s : State) : Out :=
  .next (s.on fun m => match m.silo.power with
    | .shutdown t true => if t + holdCycles ≤ m.clk.cycle then m.coldReset else m
    | .shutdown _ false => m
    | .off => m
    | .booting _ => m
    | .up => m)

/-- WARM_RESET: absorbed by a reset that runs (R20, R21). -/
def Module.warmRequest (m : Module) : Module := if m.isUp then m.warmReset else m

/-- WARM_RESET (R20). -/
def execWarmReset (s : State) : Out := .next (s.on Module.warmRequest)

/-- VIN48_FALLING: everything outside the VSTBY domain is lost, until VIN48 rises (R20). -/
def execVin48Falling (s : State) : Out :=
  .next (s.on fun m => match m.silo.power with
    | .shutdown t r => m.standby (.shutdown t r)
    | .off => m
    | .booting _ => m.standby .off
    | .up => m.standby .off)

/-! ## Firmware and boot (R22, R24) -/

/-- The place of an image's digest in MEAS (R136). -/
def imageSlot : ImageKind → Nat
  | .silo => 1 | .meadow => 2 | .loader => 3 | .hbmTraining => 4 | .station => 5 | .policy => 6

/-- The bytes of an image: the staged one, else that of manufacture. -/
def Module.imageBytesOf (m : Module) (k : Nat) : List Byte :=
  match firstWhere (fun i : Image => imageSlot i.kind == k) m.silo.flash with
  | some i => i.bytes
  | none => Config.firmware k

/-- Records the digest of an image that has been loaded. -/
def Module.measure (m : Module) (k : Nat) : Module :=
  m.modSilo fun x => { x with measured := modifyAt (fun _ => Config.sha256 (m.imageBytesOf k)) k (x.measured ++ List.replicate (8 - x.measured.length) 0) }

/-- FIRMWARE_STAGE: an image replaces the one of its kind in boot flash (R24). -/
def execFirmwareStage (img : Image) (s : State) : Out :=
  .next (s.on fun m => m.modSilo fun x => { x with flash := img :: x.flash.filter fun i => i.kind != img.kind })

/-- The state of tenancy entered with its time. -/
def Module.enterState (m : Module) (t : TState) : Module := m.modSilo fun x => { x with tstate := t, entered := m.clk.cycle }

/-- Entry to SCRUB: the tenancy counter increments (R131). A condition that stands suspends it. -/
def Module.enterScrub (m : Module) : Module :=
  (m.enterState .scrub).modSilo fun x => { x with tcount := x.tcount + 1, suspended := m.halted }

/-- Step 2 of boot: every image in flash is checked, then loaded and measured (R22). -/
def Module.bootImages (m : Module) : Module :=
  if m.silo.flash.all fun i => i.signed then
    ((range' 0 7).foldl (fun m k => m.measure k) m).modSilo fun x => { x with power := .booting 3, bootAuth := false }
  else (m.modSilo fun x => { x with bootAuth := true }).say [BitVec.ofNat 8 Cause.bootAuth.toNat]

/-- The next boot step begins. -/
def Module.bootTo (m : Module) (n : Nat) : Module := m.modSilo fun x => { x with power := .booting n }

/-- Step 4 of boot: the HBM interfaces train. The stacks that fail are reported, and the module stays at the step (R22). The report is the step's
number and the stacks' numbers, a byte each (log entry 68). -/
def Module.bootHbm (m : Module) (ok : Bool) (bad : List Nat) : Module :=
  if ok then m.bootTo 5 else m.say (4 :: bad.map fun n => BitVec.ofNat 8 n)

/-- Step 5 of boot: the sheaf store is carved out, and the translation units and TLBs are invalidated (R22). -/
def Module.bootSheaf (m : Module) : Module := { m.bootTo 6 with mm := { m.mm with sheaf := [] }, tr := { m.tr with tlb := [], tlb1 := [] } }

/-- BOOT_STEP: the step in progress completes, or, where it does not, stays and is reported (R22). `bad` is what the interfaces report: at step 4
the stacks that fail training, at step 7 the lanes that fail, 4n + l for lane l of station n, 144 and 145 for the CXL ports A and B and 146 + p for
scale-out port p (log entry 68). -/
def Module.bootStep (m : Module) (ok : Bool) (bad : List Nat) : Module :=
  match m.silo.power with
  | .booting 2 => m.bootImages
  | .booting 4 => m.bootHbm ok bad
  | .booting 5 => if ok then m.bootSheaf else m
  | .booting 7 => if ok then (m.trainLinks bad).bootTo 8 else m
  | .booting 8 => if ok then (m.modSilo fun x => { x with power := .up, warm := false }).enterScrub else m
  | .booting n => if ok then m.bootTo (n + 1) else m
  | .off => m
  | .shutdown _ _ => m
  | .up => m

/-- BOOT_STEP (R22). -/
def execBootStep (ok : StepEnd) (s : State) : Out := .next (s.on fun m => m.bootStep ok.ok ok.bad)

/-! ## Power and temperature (R18, R19) -/

/-- A power fault or a thermal stop begins: it suspends RELEASE, SCRUB, ATTEST and HEALTH (R131). -/
def Module.suspendCycle (m : Module) : Module :=
  if !m.isUp then m
  else match m.silo.tstate with
  | .release => m.modSilo fun x => { x with suspended := true }
  | .scrub => m.modSilo fun x => { x with suspended := true }
  | .attest => m.modSilo fun x => { x with suspended := true }
  | .health => m.modSilo fun x => { x with suspended := true }
  | .ready => m
  | .leased => m
  | .failed => m

/-- A condition has cleared: a suspended cycle restarts at SCRUB (R131). -/
def Module.resumeCycle (m : Module) : Module :=
  if m.isUp && m.silo.suspended && !m.halted then (m.modSilo fun x => { x with suspended := false }).enterScrub else m

/-- The stretching that the mean input power asks for, in tenths of a percent: by how much it rises in a sample the spec does not say, so a free
amount; it falls by 1 % in a millisecond (R18). -/
def Module.stretchFor (m : Module) (mean : Nat) : Module :=
  if mean > 3600 then
    let (bs, m1) := m.freeBytes 1
    m1.modSilo fun x => { x with stretch := Nat.min 1000 (x.stretch + leNat bs) }
  else if mean < 3400 then m.modSilo fun x => { x with stretch := x.stretch - 1 }
  else m

/-- POWER_SAMPLE: a measurement every 100 µs with the mean of the last millisecond; 100 in a row above 3,960 W are 10 ms (R18). -/
def Module.powerSample (m : Module) (watts mean : Nat) : Module :=
  let m1 := (m.modSilo fun x => { x with watts := watts, overMs := if mean > 3960 then x.overMs + 1 else 0 }).stretchFor mean
  if m1.silo.overMs ≥ 100 && !m1.silo.powerFault && m.powered then
    ((m1.modSilo fun x => { x with powerFault := true }).siloNotice 0 Cause.powerLimit []).suspendCycle
  else m1

/-- POWER_SAMPLE (R18). -/
def execPowerSample (watts mean : Nat) (s : State) : Out := .next (s.on fun m => m.powerSample watts mean)

/-- POWER_FAULT_CLEAR: the stopped threads continue in place (R18, R157). -/
def Module.powerClear (m : Module) : Module :=
  if m.silo.powerFault then (m.modSilo fun x => { x with powerFault := false, overMs := 0 }).resumeCycle else m

/-- POWER_FAULT_CLEAR (R18). -/
def execPowerFaultClear (s : State) : Out := .next (s.on Module.powerClear)

/-- The clock of one die is stretched: by how much in a sample the spec does not say, so a free amount (R19, log entry 4). -/
def Module.stretchDie (m : Module) (die : Nat) : Module :=
  let (bs, m1) := m.freeBytes 1
  m1.modSilo fun x => { x with dieStretch := Tab.set false x.dieStretch die true,
                               dieSlow := Tab.set 0 x.dieSlow die (Nat.min 1000 (Tab.get 0 x.dieSlow die + leNat bs)) }

/-- What the hottest sensor of one die does (R19). The detail of the THERMAL notice is the die's number and its temperature, a byte each: the model's
choice (log entry 49). -/
def Module.dieSample (m : Module) (die t : Nat) : Module :=
  let stopped := Tab.get false m.silo.dieStop die
  if 105 ≤ t then
    let m1 := (m.stretchDie die).modSilo fun x => { x with dieStop := Tab.set false x.dieStop die true }
    if stopped then m1 else (m1.siloNotice 0 Cause.thermal [BitVec.ofNat 8 die, BitVec.ofNat 8 t]).suspendCycle
  else if 95 ≤ t then m.stretchDie die
  else if t < 92 then
    m.modSilo fun x => { x with dieStretch := Tab.set false x.dieStretch die false, dieSlow := Tab.set 0 x.dieSlow die 0,
                                dieStop := Tab.set false x.dieStop die false }
  else m

/-- THERMAL_SAMPLE: the hottest junction of each die, in °C; at 110 °C all rails but VSTBY go off (R19). The thermal-alert sideband is asserted from
105 °C on (R23). -/
def Module.thermalSample (m : Module) (hottest : List Nat) : Module :=
  let l := hottest.take 6
  let m1 := m.modSilo fun x => { x with temps := l, alert := l.any fun t => decide (105 ≤ t) }
  match m.silo.power with
  | .off => m1
  | .shutdown _ _ => m1
  | .booting _ | .up =>
    if l.any fun t => decide (110 ≤ t) then
      (m1.standby (.shutdown m.clk.cycle false)).modSilo fun x => { x with dieStop := [], dieStretch := [], dieSlow := [], stretch := 0, powerFault := false, overMs := 0 }
    else (((range' 0 6).zip l).foldl (fun m e => m.dieSample e.1 e.2) m1).resumeCycle

/-- THERMAL_SAMPLE (R19). -/
def execThermalSample (hottest : List Nat) (s : State) : Out := .next (s.on fun m => m.thermalSample hottest)

/-! ## The management port (R24) -/

/-- Telemetry: input power, temperatures, the dies' error counters, and the link states of the stations, the CXL ports and the scale-out ports, as
the number of their lanes in use (R23, R24; the record's form is the model's, log entry 29). -/
def Module.telemetry (m : Module) : List Byte :=
  leBytes m.silo.watts 4 ++ (padBytes (m.silo.temps.map fun t => BitVec.ofNat 8 t) 6) ++
    ((range' 0 4).flatMap fun d => leBytes (Tab.get 0 m.silo.memErrors d) 4) ++
    ((range' 0 36).map fun n => BitVec.ofNat 8 (if (m.station n).down then 0 else (m.station n).width)) ++
    leBytes (if m.mm.hostDown then 0 else 16) 1 ++ leBytes (if m.mm.poolDown then 0 else 16) 1 ++
    (range' 0 10).map fun p => BitVec.ofNat 8 (if m.fb.ethUp.contains p then 8 else 0)

/-- TELEMETRY_READ (R24). -/
def execTelemetryRead (s : State) : Out := .next (s.on fun m => m.say m.telemetry)

/-- EVENT_LOG_READ (R24). -/
def execEventLogRead (s : State) : Out := .next (s.on fun m => m.say (m.silo.log.flatMap fun r => leBytes r.toNat 32))

/-! ## Attestation (R136, R137) -/

/-- The code of TSTATE (R131). -/
def tstateCode : TState → Nat
  | .release => 0 | .scrub => 1 | .attest => 2 | .health => 3 | .ready => 4 | .leased => 5 | .failed => 6

/-- Bytes 0 to 639 of a report (R136). -/
def Module.reportBody (m : Module) (nonce : BitVec 256) : List Byte :=
  let x := m.silo
  let config := Config.sha256 (leBytes m.devid 2 ++ leBytes x.hdmWindow.toNat 8 ++ leBytes (Config.freshKey x.keys).toNat 32)
  leBytes 0x54414C4A 4 ++ leBytes 1 2 ++ leBytes 1024 2 ++ leBytes Config.serial.toNat 8 ++
    leBytes (m.devid + 2 ^ 15 * b2n (bit m.fb.devid.toNat 63)) 2 ++ leBytes (tstateCode x.tstate) 1 ++ leBytes (b2n x.removed) 1 ++ leBytes 0 4 ++
    leBytes x.tcount.toNat 8 ++ leBytes nonce.toNat 32 ++ padBytes (x.measured.flatMap fun d => leBytes d.toNat 32) 256 ++
    leBytes config.toNat 32 ++ leBytes x.clustersOk.toNat 16 ++ leBytes x.stacksOk.toNat 2 ++ leBytes x.stationsOk.toNat 5 ++ leBytes 0 1 ++
    leBytes x.htime 8 ++ leBytes Config.keyId.toNat 32 ++ leBytes 0 224

/-- A report with its signature, big-endian (R136, R137), and the module with the salt drawn. -/
def Module.report (m : Module) (nonce : BitVec 256) : List Byte × Module :=
  let b := m.reportBody nonce
  (b ++ (leBytes (Config.signature b m.clk.salt).toNat 384).reverse, { m with clk := { m.clk with salt := m.clk.salt + 1 } })

/-- A report with the certificate chain that Silo returns with it (R137). -/
def certified (r : List Byte) : List Byte := r ++ Config.certificates

/-- Whether Silo answers attestation requests (R136). -/
def Module.attests (m : Module) : Bool :=
  m.isUp && match m.silo.tstate with
    | .ready => true | .leased => true | .failed => true
    | .release => false | .scrub => false | .attest => false | .health => false

/-- ATTESTATION_REQUEST on the management port (R136). -/
def Module.attestRequest (m : Module) (nonce : BitVec 256) : Module :=
  if m.attests then let (r, m1) := m.report nonce; m1.say (certified r) else m

/-- ATTESTATION_REQUEST (R136). -/
def execAttestationRequest (nonce : BitVec 256) (s : State) : Out := .next (s.on fun m => m.attestRequest nonce)

/-! ## The tenancy cycle (R131 to R134) -/

/-- A RELEASE request: absorbed but in LEASED, READY and FAILED (R131). -/
def Module.releaseRequest (m : Module) : Module :=
  if m.attests then (m.enterState .release).modSilo fun x => { x with suspended := m.halted } else m

/-- RELEASE_REQUEST (R131). -/
def execReleaseRequest (s : State) : Out := .next (s.on Module.releaseRequest)

/-- ASSIGN (R131). -/
def execAssign (s : State) : Out := .next (s.on fun m => if m.isUp && m.silo.tstate == .ready then m.enterState .leased else m)

/-- Whether a state of the cycle is at work. -/
def Module.working (m : Module) (t : TState) : Bool := m.isUp && m.silo.tstate == t && !m.silo.suspended

/-- A state of the cycle fails: FAILED, reported on the management port (R131). -/
def Module.failState (m : Module) (c : Cause) : Module := (m.enterState .failed).say [BitVec.ofNat 8 c.toNat]

/-- RELEASE: every queue stops, every launch ends unsaved, every group slot is dissolved in whatever state, and stations, scale-out ports and port A go
down; SCRUB follows (R75, R131). -/
def Module.releaseWork (m : Module) : Module :=
  let m1 := (range' 0 64).foldl (fun m q => m.modQueue q fun x => { x with stopped := true }) m
  let m2 := m1.lu.launches.foldl (fun m l => m.killLaunch l.id) m1
  let m3 := (range' 0 8).foldl (fun m g => m.modGroup g Group.dissolved) m2
  let m4 := (range' 0 36).foldl (fun m n => m.modStation n fun x => { x with down := true, retraining := false, lanes := [], width := 0 }) m3
  ((({ m4 with fb := { m4.fb with ethUp := [] } } : Module).modSilo fun x => { x with keys := 0 }).portADown).enterScrub

/-- RELEASE (R131). -/
def execRelease (s : State) : Out := .next (s.on fun m => if m.working .release then m.releaseWork else m)

/-- SCRUB: registers, memories and tables are zero, the keys destroyed, the pool's replaced (R132). Its time base, the translation registers
other than the TLBs and pins, and the disabled clusters stay (log entry 29). -/
def Module.scrubWork (m : Module) : Module :=
  let z := Module.reset
  { m with
    silo := { m.silo with keys := 0 }
    mm := { z.mm with hostDown := m.mm.hostDown, poolDown := m.mm.poolDown, hostMem := m.mm.hostMem }
    tr := { m.tr with tlb := [], tlb1 := [], pinned := [], pincmd := 0, pinRun := 0, pfrecs := [], invcmd := 0, migctl := 0 }
    cx := { z.cx with cores := (m.cx.cores.filter fun e => e.2.disabled).map fun e => (e.1, { Core.idle with disabled := true }) }
    lu := z.lu
    fe := { z.fe with hvec := m.fe.hvec }
    fb := { m.fb with imports := [], impstat := 0, impasid := 0, mcstage := [], mcmap := [], mcctl := [], mccmd := 0, mcbusy := [], spilled := [], chunks := [],
                      heldChunks := [], outbox := [], pending := [], parked := [], rdma := [], rdmaOut := [], rdmaHeld := [] }
    groups := [] }

/-- SCRUB and its read-back (R132). -/
def Module.scrub (m : Module) (ok : Bool) : Module :=
  if !m.working .scrub then m
  else
    let m1 := m.scrubWork
    if ok then m1.enterState .attest else m1.failState Cause.memPoison

/-- SCRUB (R132). -/
def execScrub (readBackOk : Bool) (s : State) : Out := .next (s.on fun m => m.scrub readBackOk)

/-- Installs fresh keys, with which the stations that RELEASE took down and port A come up again; a scale-out port comes up as its link does (R26,
R131, R133, R135). -/
def Module.installKeys (m : Module) : Module :=
  let m1 := (range' 0 36).foldl (fun m n => m.modStation n fun x => { x.trained x.failed with delivered := 0, reported := 0, sent := 0 }) m
  { m1 with
    silo := { m1.silo with keys := m.clk.salt + 1, removed := false }
    clk := { m1.clk with salt := m.clk.salt + 1 }
    mm := { m1.mm with hostDown := false } }

/-- Whether the staged Meadow image, if any, passes its check (R22, R133). -/
def Module.meadowSigned (m : Module) : Bool := (m.silo.flash.filter fun i => i.kind == .meadow).all fun i => i.signed

/-- ATTEST: Meadow is checked, loaded and measured, keys are installed, and the baseline report is built (R133). -/
def Module.attestWork (m : Module) (answered : Bool) : Module :=
  if !m.working .attest then m
  else if !m.meadowSigned then (m.modSilo fun x => { x with bootAuth := true }).failState Cause.bootAuth
  else
    let (r, m1) := (m.measure 2).installKeys.report 0
    let m2 := m1.say (certified r)
    if answered then m2.enterState .health else m2.failState Cause.bootAuth

/-- ATTEST (R133). -/
def execAttest (mailboxAnswered : Bool) (s : State) : Out := .next (s.on fun m => m.attestWork mailboxAnswered)

/-- HEALTH: any failed cluster or stack fails it, and so does a fifth station; up to four failed stations leave the live list (R134). A cluster
disabled by a replay is in use again (R128). -/
def Module.health (m : Module) (cl : BitVec 128) (hbm : BitVec 16) (st : BitVec 36) : Module :=
  let bad := (range' 0 36).filter fun n => !bit st.toNat n
  if !m.working .health then m
  else
    let m1 := m.modSilo fun x =>
      { x with clustersOk := cl, stacksOk := hbm, stationsOk := st, htime := m.ticks }
    if cl ≠ BitVec.allOnes 128 || hbm ≠ BitVec.allOnes 16 || decide (bad.length > 4) then m1.failState Cause.healthFail
    else
      let m2 := (bad.foldl (fun m n => m.stationDown n) m1).modSilo fun x => { x with removed := x.removed || decide (bad ≠ []) }
      let m3 := if bad = [] then m2 else m2.say (bad.map fun n => BitVec.ofNat 8 n)
      ({ m3 with cx := { m3.cx with cores := Tab.drop (fun k => (m3.core k).disabled) m3.cx.cores } } : Module).enterState .ready

/-- HEALTH (R134). -/
def execHealth (clustersOk : BitVec 128) (stacksOk : BitVec 16) (stationsOk : BitVec 36) (s : State) : Out :=
  .next (s.on fun m => m.health clustersOk stacksOk stationsOk)

/-- The bound of a state in cycles, where an overrun of it counts as a failure that leads to FAILED (R131). -/
def stateBound : TState → Option Nat
  | .scrub => some (cyclesPerSecond / 2)
  | .attest => some cyclesPerSecond
  | .health => some (20 * cyclesPerSecond)
  | .release => none
  | .ready => none
  | .leased => none
  | .failed => none

/-- TENANCY_BOUND_OVERRUN (R131). -/
def Module.boundOverrun (m : Module) : Module :=
  match stateBound m.silo.tstate with
  | none => m
  | some b =>
    if m.isUp && !m.silo.suspended && decide (m.silo.entered + b < m.clk.cycle) then m.failState Cause.healthFail else m

/-- TENANCY_BOUND_OVERRUN (R131). -/
def execTenancyBoundOverrun (s : State) : Out := .next (s.on Module.boundOverrun)

/-! ## The mailbox (R110) -/

/-- MAILBOX_REQUEST: Silo validates a request, acts on it and replies; one that it does not know it refuses (R110, log entry 29). -/
def Module.mailboxRequest (m : Module) (r : MailboxReq) : Module :=
  if !m.isUp then m
  else match r with
    | .attestation nonce => if m.attests then let (b, m1) := m.report nonce; m1.reply (certified b) else m.reply []
    | .release => (m.reply [1]).releaseRequest
    | .warmReset => m.warmRequest
    | .powerFaultClear => (m.reply [1]).powerClear
    | .other _ => m.reply []

/-- MAILBOX_REQUEST (R110). -/
def execMailboxRequest (req : MailboxReq) (s : State) : Out := .next (s.on fun m => m.mailboxRequest req)

end Sys2Proof.Machine
end

