-- ==== Sys2Proof/Machine/Xlate.lean ====
section
/-!
DEFINITION. The translation control block: walks, page-fault answers, invalidation, migration and pinning: rules R198, R216 to R223 and R228 to
R231.
-/

namespace Sys2Proof.Machine

/-! ## Walks (R217, R221) -/

/-- TABLE_WALK: a walk for a miss of the context in focus fills the die's translation unit, or leaves one page-fault record (R221, R228). -/
def Module.tableWalk (m : Module) (die asid va : Nat) : Module :=
  match tlbFind die asid va m.tr.tlb with
  | some _ => m
  | none => match walk m asid va with
    | .ok l => match m.markUsed l.ptr .read with
      | .ok m1 => m1.tlbPut die asid va { l with w0 := l.w0 ||| 64 }
      | .error (.snoop h) => m.askSnoop h
      | .error (.cause _) => m
      | .error .wait => m
    | .error (.cause c) => if c = Cause.pageNotPresent then (m.pageFault die asid (coreOf m.focus) va .read).2 else m
    | .error (.snoop h) => m.askSnoop h
    | .error .wait => m

/-- TABLE_WALK (R217). -/
def execTableWalk (die : Nat) (asid : BitVec 16) (va : Nat) (s : State) : Out :=
  if die < 4 && decide (va < 2 ^ 52) then .next (s.on fun m => m.tableWalk die asid.toNat va) else .fault .noSuchUnit

/-! ## Answers to page faults (R198, R228) -/

/-- What an access that waits on a record goes on with. -/
def PfWait.answer (id : Nat) (r : PfWait) (w : PfWait) : PfWait := if w = .waiting id then r else w

/-- Every packet that waited on a record is presented again, or completes with the cause of the answer. -/
def Module.parkAnswer (m : Module) (id : Nat) (c : Option Cause) : Module :=
  let mine := fun e : PfWait × Packet => e.1 == .waiting id
  match c with
  | none =>
    ({ m with fb := { m.fb with parked := m.fb.parked.map fun e => if mine e then (.none, e.2) else e } } : Module).retryParked
  | some c =>
    let m1 : Module := { m with fb := { m.fb with parked := m.fb.parked.filter fun e => !mine e } }
    ((m.fb.parked.filter mine).foldl (fun m e => m.failPacket e.2 c) m1).retryParked

/-- Every RDMA access that waited on a record is tried again, or is dropped where the page is refused. -/
def Module.rdmaAnswer (m : Module) (id : Nat) (c : Option Cause) : Module :=
  let mine := fun e : PfWait × Nat × RdmaReq => e.1 == .waiting id
  ({ m with fb := { m.fb with rdmaHeld := match c with
      | none => m.fb.rdmaHeld.map fun e => if mine e then (.none, e.2) else e
      | some _ => m.fb.rdmaHeld.filter fun e => !mine e } } : Module).retryRdma

/-- A background write-back that waited on a record and is not to be mapped keeps its block dirty, its fault held for the next SPSYNC or
unmap (R226). -/
def Module.writebackRefused (m : Module) (r : PfRec) (c : Cause) : Module :=
  if r.kind ≠ pfKindCode .writeback then m
  else m.mapCtxs fun _ t =>
    if t.asid ≠ r.asid then t
    else match t.oldestDirty with
      | none => t
      | some b => match t.mapOfOffset (b * 4096) with
        | some (_, w) => if mapToVa w (b * 4096) / 65536 = r.va / 65536 then t.holdMapFault b c else t
        | none => t

/-- Meadow answers a record: 0 RETRY, 1 NOMAP, 2 DENY. An identifier that names no record in a ring is ignored (R228). -/
def Module.pfans (m : Module) (id : Nat) (r : PfWait) : Module :=
  match firstWhere (fun x : PfRec => x.id == id && x.inRing) m.tr.pfrecs with
  | none => m
  | some rec =>
    let m1 : Module := { m with tr := { m.tr with pfrecs := m.tr.pfrecs.filter fun x => x.id != id } }
    let f := PfWait.answer id r
    let m2 := (((m1.mapCtxs fun _ t => t.pfMap f).memMap f).parkAnswer id r.cause).rdmaAnswer id r.cause
    match r.cause with
    | none => m2
    | some c => m2.writebackRefused rec c

/-- PFANS_RETRY (R228). -/
def execPfansRetry (id : BitVec 16) (s : State) : Out := .next (s.on fun m => m.pfans id.toNat .none)
/-- PFANS_NOMAP (R228). -/
def execPfansNomap (id : BitVec 16) (s : State) : Out := .next (s.on fun m => m.pfans id.toNat .nomap)
/-- PFANS_DENY (R228). -/
def execPfansDeny (id : BitVec 16) (s : State) : Out := .next (s.on fun m => m.pfans id.toNat .deny)

/-- A write of PFANS: result 3 is ignored (R228). -/
def Module.writePfans (m : Module) (v : Word64) : Module :=
  let id := fld v.toNat 0 16
  match fld v.toNat 16 2 with
  | 0 => m.pfans id .none
  | 1 => m.pfans id .nomap
  | 2 => m.pfans id .deny
  | _ => m

/-- Appends the records of a die that wait for space in its ring, oldest first (R228). -/
def Module.flushDie (m : Module) (die : Nat) : Module := (m.tr.pfrecs.filter fun r => r.die == die).foldl (fun m r => m.flushPf r) m

/-- A write of HEAD of a die's page-fault ring (R228). -/
def Module.writePfHead (m : Module) (die : Nat) (head : Word32) : Module :=
  let tail := fld (Tab.get 0 m.tr.pfqptr die).toNat 32 32
  ({ m with tr := { m.tr with pfqptr := Tab.set 0 m.tr.pfqptr die (BitVec.ofNat 64 (tail * 2 ^ 32 + head.toNat)) } } : Module).flushDie die

/-- PAGE_FAULT_RING_HEAD_WRITE (R228). -/
def execPageFaultRingHeadWrite (die : Nat) (head : Word32) (s : State) : Out :=
  if die < 4 then .next (s.on fun m => m.writePfHead die head) else .fault .noSuchUnit

/-- A write of PFQCFG, which has the layout of NRCFG (R124, R228). -/
def Module.writePfqcfg (m : Module) (die : Nat) (v : Word64) : Module :=
  ({ m with tr := { m.tr with pfqcfg := Tab.set 0 m.tr.pfqcfg die (v &&& 0xFFFFFFFFFFFFFFF1) } } : Module).flushDie die

/-! ## Invalidation (R229) -/

/-- A range of virtual addresses in one address space, or in every one. -/
structure InvScope where
  asid : Option Nat
  lo : Nat
  hi : Nat
  keepGlobal : Bool
  deriving DecidableEq, Repr

/-- The scope of an invalidation command. -/
def Module.invScope (m : Module) (cmd : Nat) : InvScope :=
  let a := fld cmd 35 16
  let lo := fld m.tr.invRun.1.toNat 16 36 * 65536
  let hi := lo + fld m.tr.invRun.2.toNat 0 32 * 65536
  match fld cmd 60 2 with
  | 0 => ⟨none, 0, 2 ^ 52, false⟩
  | 1 => ⟨some a, 0, 2 ^ 52, true⟩
  | 2 => ⟨some a, lo, hi, false⟩
  | _ => ⟨none, lo, hi, false⟩

/-- Whether a range of an address space lies in a scope, at least in part. -/
def InvScope.meets (x : InvScope) (asid va n : Nat) : Bool :=
  (match x.asid with | none => true | some a => a == asid) && decide (va < x.hi) && decide (x.lo < va + n)

/-- Whether a held leaf goes: in scope, and not kept as a global one. -/
def InvScope.drops (x : InvScope) (e : TlbEntry) : Bool := x.meets e.asid e.va e.size && !(x.keepGlobal && bit e.w0.toNat 61)

/-- The dirty blocks of a thread whose global range lies in a scope, oldest first. -/
def Module.dirtyIn (m : Module) (cx : Nat) (x : InvScope) : List Nat :=
  let t := m.ctx cx
  t.b.dirty.filter fun b => match t.mapOfOffset (b * 4096) with
    | none => false
    | some (_, w) =>
      let va := mapToVa w (b * 4096)
      let kept := match tlbFind (dieOfCore (coreOf cx)) t.asid va m.tr.tlb with
        | some e => x.keepGlobal && bit e.w0.toNat 61
        | none => false
      mapWb w && x.meets t.asid va 4096 && !kept

/-- Writes back every dirty block in scope through the translations held. A fault leaves its block dirty and is held for the next SPSYNC or
unmap, as in the background (R226); anything else is waited for. -/
def Module.writebackIn (m : Module) (x : InvScope) : Module × Bool :=
  let work := m.cx.ctxs.flatMap fun e => (m.dirtyIn e.1 x).map fun b => (e.1, b)
  work.foldl (fun (acc : Module × Bool) (e : Nat × Nat) =>
    match acc.1.writeBlock e.1 e.2 with
    | .ok m1 => (m1, acc.2)
    | .error (.fault c a) => ((acc.1.noteFull c a).modCtx e.1 fun t => t.holdMapFault e.2 c, acc.2)
    | .error st => ((acc.1.askStop (acc.1.mapAcc e.1) .writeback st).2, false)) (m, true)

/-- Takes every held leaf in scope out of the translation units, of both levels. -/
def Module.tlbDrop (m : Module) (x : InvScope) : Module :=
  { m with tr := { m.tr with tlb := m.tr.tlb.filter (fun e => !x.drops e), tlb1 := m.tr.tlb1.filter fun e => !x.drops e.2 } }

/-- Asks one device to drop the read-only lines it holds from this module (R229). -/
def Module.askDrop (m : Module) (d : Nat) : Module :=
  if m.isSelf d then m.readDrop d
  else
    let at_ := m.clk.cycle
    (m.request 2048 d dropOffset (.write (List.replicate 8 0)) (.drop d at_)).2

/-- INVCMD GO: the command starts; with RDROP the importers of entry MCIDX are asked (R229). -/
def Module.invalidate (m : Module) (cmd : Word64) : Module :=
  if bit m.tr.invcmd.toNat 63 then m
  else
    let m1 : Module := { m with tr := { m.tr with invcmd := (cmd &&& 0x3FFFFFF800000000) ||| 0x8000000000000000, invRun := (m.tr.invaddr, m.tr.invlen) } }
    if bit cmd.toNat 59 then (m.mcastDests (fld cmd.toNat 51 8)).foldl (fun m d => m.askDrop d) m1 else m1

/-- INVALIDATE (R229). -/
def execInvalidate (cmd : Word64) (s : State) : Out := .next (s.on fun m => m.invalidate cmd)

/-- Whether a drop asked of an importer is still unacknowledged. -/
def Module.dropping (m : Module) : Bool := m.fb.pending.any fun e => match e.2 with
  | .drop _ _ => true
  | .none | .access _ _ _ | .scalar _ _ _ | .tunnel _ _ _ | .group _ _ _ _ _ _ | .post _ _ _ | .copy _ _ _ _ _ | .row _ _ | .orphan _ _ => false

/-- INVALIDATE_COMPLETE: once every guarantee of R229 holds, BUSY clears. -/
def Module.invalidateDone (m : Module) : Module :=
  if !bit m.tr.invcmd.toNat 63 || m.dropping then m
  else
    let x := m.invScope m.tr.invcmd.toNat
    match m.writebackIn x with
    | (m1, false) => m1
    | (m1, true) =>
      let m2 := m1.tlbDrop x
      { m2 with tr := { m2.tr with invcmd := 0 } }

/-- INVALIDATE_COMPLETE (R229). -/
def execInvalidateComplete (s : State) : Out := .next (s.on Module.invalidateDone)

/-! ## Pinning (R223) -/

/-- Bytes of a frame by SIZE. -/
def pinBytes (code : Nat) : Nat := match code with | 0 => 2 ^ 16 | 1 => 2 ^ 21 | 2 => 2 ^ 29 | _ => 2 ^ 35

/-- Takes a range out of a list of disjoint ranges, each an address and a length. -/
def rangesMinus (l : List (Nat × Nat)) (lo n : Nat) : List (Nat × Nat) :=
  l.flatMap fun r =>
    (if r.1 < lo then [(r.1, Nat.min (r.1 + r.2) lo - r.1)] else []) ++
      (if lo + n < r.1 + r.2 then [(Nat.max r.1 (lo + n), r.1 + r.2 - Nat.max r.1 (lo + n))] else [])

/-- Adds a range to a list of disjoint ranges. -/
def rangesPlus (l : List (Nat × Nat)) (lo n : Nat) : List (Nat × Nat) := rangesMinus l lo n ++ [(lo, n)]

/-- Pinned bytes on a die. A frame spreads its lines evenly over the 64 slices (R207). -/
def pinnedOn (l : List (Nat × Nat)) (die : Nat) : Nat := natSum ((l.filter fun r => homeDie r.1 == die).map fun r => r.2)

/-- The refusal of a pin, if any. -/
def Module.pinRefused (m : Module) (lo n : Nat) : Option Cause :=
  if lo % n != 0 || !isHbm lo then some Cause.tableFormat
  else if pinnedOn (rangesPlus m.tr.pinned lo n) (homeDie lo) > 64 * (4 * 2 ^ 20) then some Cause.pinLimit
  else none

/-- FRAME and SIZE of PINCMD as a write sets them (R223). -/
def pinKeep (cmd : Word64) : Nat := fld cmd.toNat 16 36 * 65536 + fld cmd.toNat 0 2

/-- A write of PINCMD without an effect of GO: FRAME and SIZE are set, the rest stays (R6, R223). -/
def Module.pinFields (m : Module) (cmd : Word64) : Module :=
  { m with tr := { m.tr with pincmd := (m.tr.pincmd &&& 0x9FE0000000000000) ||| BitVec.ofNat 64 (pinKeep cmd) } }

/-- PINCMD GO with UNPIN 0: the command runs, or is refused (R223). -/
def Module.pin (m : Module) (cmd : Word64) : Module :=
  if bit m.tr.pincmd.toNat 63 then m.pinFields cmd
  else match m.pinRefused (fld cmd.toNat 16 36 * 65536) (pinBytes (fld cmd.toNat 0 2)) with
    | some c => { m with tr := { m.tr with pincmd := BitVec.ofNat 64 (2 ^ 60 + c.toNat * 2 ^ 53 + pinKeep cmd) } }
    | none => { m with tr := { m.tr with pincmd := BitVec.ofNat 64 (2 ^ 63 + pinKeep cmd), pinRun := BitVec.ofNat 64 (pinKeep cmd) } }

/-- PINCMD GO with UNPIN 1: the release of the frame's lines runs; bit 61 of the command that runs tells it (R223). -/
def Module.unpin (m : Module) (cmd : Word64) : Module :=
  if bit m.tr.pincmd.toNat 63 then m.pinFields cmd
  else { m with tr := { m.tr with pincmd := BitVec.ofNat 64 (2 ^ 63 + pinKeep cmd), pinRun := BitVec.ofNat 64 (2 ^ 61 + pinKeep cmd) } }

/-- PIN (R223). -/
def execPin (cmd : Word64) (s : State) : Out := .next (s.on fun m => m.pin cmd)
/-- UNPIN (R223). -/
def execUnpin (cmd : Word64) (s : State) : Out := .next (s.on fun m => m.unpin cmd)

/-- PIN_COMPLETE: every line is loaded or released, and BUSY clears (R223). -/
def Module.pinDone (m : Module) : Module :=
  let w := m.tr.pinRun.toNat
  let lo := fld w 16 36 * 65536
  let n := pinBytes (fld w 0 2)
  if !bit m.tr.pincmd.toNat 63 then m
  else { m with tr := { m.tr with
    pincmd := m.tr.pincmd &&& 0x000FFFFFFFFF0003
    pinRun := 0
    pinned := if bit w 61 then rangesMinus m.tr.pinned lo n else rangesPlus m.tr.pinned lo n } }

/-- PIN_COMPLETE (R223). -/
def execPinComplete (s : State) : Out := .next (s.on Module.pinDone)

/-- A write of PINCMD: GO starts a command; without it, or while BUSY is 1, FRAME and SIZE alone are set (R6, R223). -/
def Module.writePincmd (m : Module) (v : Word64) : Module :=
  if bit v.toNat 62 then (if bit v.toNat 61 then m.unpin v else m.pin v) else m.pinFields v

/-! ## Migration (R230, R231, R78) -/

/-- MIGCTL GO: writes to the page stall at their homes from here on (R231). A GO while BUSY is 1 is ignored. -/
def Module.migrate (m : Module) (cmd : Word64) : Module :=
  if bit m.tr.migctl.toNat 63 then m
  else { m with tr := { m.tr with migctl := BitVec.ofNat 64 (2 ^ 63 + fld cmd.toNat 0 16), migRun := (m.tr.migva, m.tr.migdst) } }

/-- MIGRATE (R231). -/
def execMigrate (cmd : Word64) (s : State) : Out := .next (s.on fun m => m.migrate cmd)

/-- The migration ends with an abort: ERR and CAUSE, the leaf as it was (R231). -/
def Module.migAbort (m : Module) (c : Cause) : Module := { m with tr := { m.tr with migctl := BitVec.ofNat 64 (2 ^ 61 + c.toNat * 2 ^ 48) } }

/-- The bytes listed in a range, moved to another place that they replace. -/
def Tab.moved (src : Tab Byte) (lo n : Nat) (dst : Tab Byte) (to_ : Nat) : Tab Byte :=
  (src.filter fun e => decide (lo ≤ e.1) && decide (e.1 < lo + n)).foldl (fun t e => Tab.set 0 t (to_ + (e.1 - lo)) e.2)
    (Tab.drop (fun a => decide (to_ ≤ a) && decide (a < to_ + n)) dst)

/-- Half-line numbers of a list that lie in a range of bytes, moved. -/
def movedLines (l : List Nat) (lo n to_ : Nat) : List Nat :=
  (l.filter fun h => decide (lo ≤ 64 * h) && decide (64 * h < lo + n)).map fun h => h - lo / 64 + to_ / 64

/-- Half-line numbers outside a range of bytes. -/
def outsideLines (l : List Nat) (lo n : Nat) : List Nat := l.filter fun h => !(decide (lo ≤ 64 * h) && decide (64 * h < lo + n))

/-- Copies every half-line of the source frame to HBM or to the pool; a poisoned one arrives poisoned (R231). -/
def Module.copyFrame (m : Module) (src n dst : Nat) (pool : Bool) : Module :=
  if pool then
    { m with mm := { m.mm with
      pool := Tab.moved m.mm.mem src n m.mm.pool dst
      poolPoison := outsideLines m.mm.poolPoison dst n ++ movedLines m.mm.poison src n dst } }
  else if src = dst then m
  else
    { m with mm := { m.mm with
      mem := Tab.moved m.mm.mem src n m.mm.mem dst
      poison := outsideLines m.mm.poison dst n ++ movedLines m.mm.poison src n dst } }

/-- Recalls every registered half-line of a range (R212). -/
def Module.recallIn (m : Module) (lo n : Nat) : Module :=
  (m.mm.registrant.filter fun e => decide (lo ≤ 64 * e.1) && decide (64 * e.1 < lo + n)).foldl (fun m e => m.register e.1 0) m

/-- Moves the siblings of one cell: what the sheaf store of the old home holds goes to the new home (R253). None where no record is free. -/
def Module.moveCell (m : Module) (old new : CellAt) : Option Module :=
  let x := m.cell old
  let spare := x.sibs.filter fun s => s.slot != 0
  if spare = [] then some m
  else
    let m1 := spare.foldl (fun m s => m.freeLoc old s.loc) m
    let place := spare.foldl (fun (acc : Option (Module × List Sibling)) s => match acc with
      | none => none
      | some (m, l) => match m.freeRecord new with
        | none => none
        | some loc => some (m.recordPut new loc (s.value ++ s.info.bytes ++ leBytes (2 ^ 63 + new.pa / 64 * 64) 8 ++ List.replicate 32 0),
            l ++ [{ s with loc := loc }])) (some (m1, []))
    place.map fun r => r.1.putCell new { x with sibs := (x.sibs.filter fun s => s.slot == 0) ++ r.2 }

/-- Moves what the sheaf store holds of one cell into spill slots of its page, before the frame goes to the pool, which has no sheaf store (R231, R253;
log entry 27). None where no slot is free. -/
def Module.spillCell (m : Module) (c : CellAt) : Option Module :=
  let x := m.cell c
  let stay := fun s : Sibling => s.slot == 0 || bit s.loc 15
  let moved := (x.sibs.filter fun s => !stay s).foldl (fun (acc : Option (Module × List Sibling)) s => match acc with
    | none => none
    | some (m, l) => match firstWhere (fun loc => !m.recordUsed c loc) (range' 32768 c.spillSlots) with
      | none => none
      | some loc => some ((m.recordPut c loc (m.recordBytes c s.loc)).freeLoc c s.loc, putSib l { s with loc := loc })) (some (m, x.sibs.filter stay))
  moved.map fun r => if r.2 = x.sibs then m else r.1.putCell c { x with sibs := r.2 }

/-- Moves every sheaf of a VERSIONED page: to the home of its new frame, or, where the page goes to the pool, into the page's spill region. -/
def Module.moveCells (m : Module) (l : Leaf) (src dst : Nat) (pool : Bool) : Option Module :=
  let page := fun base : Nat => (⟨base, l, base⟩ : Phys)
  if !bit l.w0 60 then some m
  else (range' 0 (l.size / 64)).foldl (fun (acc : Option Module) i => match acc with
    | none => none
    | some m =>
      if pool then m.spillCell ⟨src + 64 * i, page src⟩
      else m.moveCell ⟨src + 64 * i, page src⟩ ⟨dst + 64 * i, page dst⟩) (some m)

/-- Rebinds the protection maps to the new frame (R78). -/
def Group.rebind (g : Group) (src n dst : Nat) : Group :=
  let inside := fun h : Nat => decide (src ≤ 64 * h) && decide (64 * h < src + n)
  { g with
    pmap := (g.pmap.filter fun e => inside e.1).foldl (fun t e => Tab.set 0 t (e.1 - src / 64 + dst / 64) e.2) (Tab.drop inside g.pmap)
    pages := g.pages.map fun p => if p.1 = src then (dst, BitVec.ofNat 64 (p.2.1.toNat - src + dst), p.2.2.1, p.2.2.2) else p }

/-- Whether a protection map of a group names a half-line of a frame. -/
def Group.holdsFrame (g : Group) (src n : Nat) : Bool := g.pmap.any fun e => decide (src ≤ 64 * e.1) && decide (64 * e.1 < src + n)

/-- Whether the migration of a frame waits for a round in PREPARING or PREPARED of a group that protects lines of it (R78). -/
def Module.roundHolds (m : Module) (src n : Nat) : Bool :=
  m.groups.any fun e => e.2.valid && (e.2.state == 1 || e.2.state == 2) && e.2.holdsFrame src n

/-- A fault of the destination: a frame that no leaf of this size may name, or a pool range that is not there (R219, R231). -/
def Module.migFault (m : Module) (dst n : Nat) (pool : Bool) : Option Cause :=
  if pool then (if dst + n > 2 ^ 42 then some Cause.addrAperture else if m.mm.poolDown then some Cause.memPoison else none)
  else if dst % n != 0 || !isHbm dst then some Cause.tableFormat
  else none

/-- The half-lines that the host holds and that the copy must have first: of the source, of the destination, of the headers and the spill region of a
VERSIONED page, and the leaf's own (R215). -/
def Module.migSnoops (m : Module) (l : Leaf) (src dst : Nat) (pool : Bool) : List Nat :=
  let inside := fun lo n h : Nat => decide (lo ≤ 64 * h) && decide (64 * h < lo + n)
  (m.mm.hostHold.filter fun e =>
    inside src l.size e.1 || (!pool && inside dst l.size e.1) || (bit l.w0 60 && inside (fld l.w1 12 40 * 4096) (l.size + Nat.min (l.size / 2) (4 * 2 ^ 20)) e.1) ||
      e.1 == l.ptr / 64).map Prod.fst

/-- The end of a migration that succeeds: the leaf as it now stands, with what the last writes through it have marked, the maps and the pins follow
(R78, R220, R223, R231). -/
def Module.migCommit (m : Module) (asid va : Nat) (l : Leaf) (src dst : Nat) (pool : Bool) (npois : Nat) : Module :=
  let old := m.peekN l.ptr 8
  let w0 := if pool then old % 2 ^ 63 else putFld old 16 36 (dst / 65536)
  let m1 := (m.poke l.ptr (leBytes w0 8)).tlbDrop ⟨some asid, va / l.size * l.size, va / l.size * l.size + l.size, false⟩
  let m2 := if pool then m1 else (range' 0 8).foldl (fun m g => m.modGroup g fun x => if x.holdsFrame src l.size then x.rebind src l.size dst else x) m1
  { m2 with tr := { m2.tr with
    pinned := rangesMinus m2.tr.pinned src l.size
    migctl := BitVec.ofNat 64 (satNat npois 16 * 2 ^ 32) } }

/-- MIGRATION_COMPLETE: the copy ends, in success or in an abort, and the stalled writes proceed (R231). Dirty region-map blocks of the page are
written back to the source before it is copied (log entry 27). -/
def Module.migrationDone (m : Module) : Module :=
  let asid := fld m.tr.migctl.toNat 0 16
  let va := m.migPage
  let d := m.tr.migRun.2.toNat
  let pool := bit d 63
  if !bit m.tr.migctl.toNat 63 then m
  else match walk m asid va with
    | .error (.snoop h) => m.askSnoop h
    | .error .wait => m
    | .error (.cause c) => (m.migAbort c).goAhead
    | .ok l =>
      let src := fld l.w0 16 36 * 65536
      let dst := if pool then fld d 16 26 * 65536 else fld d 16 36 * 65536
      match m.migFault dst l.size pool with
      | some c => (m.migAbort c).goAhead
      | none =>
        let snoops := m.migSnoops l src dst pool
        if m.roundHolds src l.size then m
        else if snoops ≠ [] then snoops.foldl (fun m h => m.askSnoop h) m
        else
          let run := m.tr.migctl
          match ({ m with tr := { m.tr with migctl := 0 } } : Module).writebackIn ⟨some asid, va / l.size * l.size, va / l.size * l.size + l.size, false⟩ with
          | (m1, false) => { m1 with tr := { m1.tr with migctl := run } }
          | (m1, true) =>
            let n := (movedLines m1.mm.poison src l.size dst).length
            let m2 := ((m1.recallIn src l.size).recallIn dst (if pool then 0 else l.size)).copyFrame src l.size dst pool
            match (if !pool && src == dst then some m2 else m2.moveCells l src dst pool) with
            | none => (m1.migAbort Cause.sheafFull).goAhead
            | some m3 => (m3.migCommit asid va l src dst pool n).goAhead

/-- MIGRATION_COMPLETE (R231). -/
def execMigrationComplete (s : State) : Out := .next (s.on Module.migrationDone)

end Sys2Proof.Machine
end

