-- ==== Sys2Proof/Machine/Regs.lean ====
section
/-!
DEFINITION. Writes of the module's register blocks: who may write what, and what a register's write does beyond setting its fields: rules R6, R7,
R31, R33, R36, R46, R47, R60, R66 to R71, R76, R83, R85, R105, R112, R114, R120, R124, R216, R223, R228 to R230, R467, R478, R484 and R505.
-/

namespace Sys2Proof.Machine

/-! ## Who writes (R112) -/

/-- Whether a register is written by Silo. -/
def regBySilo : ModReg → Bool
  | .powerFault | .tstate | .devid | .devfrlim | .glog _ _ | .hdmWindow | .biLimit | .evcnt _ | .nrcfg | .nrptr => true
  | .cqcfg q | .cqptr q | .cqstat q | .cqrpl q => decide (60 ≤ q)
  | .impasid | .importWord _ _ | .impstat | .mcstage _ | .mccmd | .mcctl _ | .mcbmp _ _ | .colspill | .hvec | .notify | .atbase | .pincmd | .pfqcfg _
  | .pfqptr _ | .pfans | .invaddr | .invlen | .invcmd | .migva | .migdst | .migctl | .gctl _ | .gcfg _ | .ground _ | .glast _ | .gjbase _ | .gjsize _
  | .grepair _ | .gmem _ _ | .greg0 _ _ | .greg1 _ _ => false

/-- Whether a register is written by Meadow. -/
def regByMeadow (r : ModReg) : Bool :=
  match r with
  | .evcnt _ | .nrcfg | .nrptr => true
  | r => !regBySilo r

/-- Whether the part has the register that a number names. -/
def regExists : ModReg → Bool
  | .importWord e w => decide (e < 1024) && decide (w < 2)
  | .mcstage w => decide (w < 16)
  | .mcctl e => decide (e < 256)
  | .mcbmp e w => decide (e < 256) && decide (w < 16)
  | .cqcfg q | .cqptr q | .cqstat q | .cqrpl q => decide (q < 64)
  | .evcnt n => decide (n < 4096)
  | .pfqcfg d | .pfqptr d => decide (d < 4)
  | .gctl s | .gcfg s | .ground s | .glast s | .gjbase s | .gjsize s | .grepair s => decide (s < 8)
  | .gmem s j => decide (s < 8) && decide (j < 16)
  | .greg0 s r | .greg1 s r => decide (s < 8) && decide (r < 64)
  | .glog s i => decide (s < 8) && decide (i < 16)
  | .powerFault | .tstate | .devid | .devfrlim | .impasid | .impstat | .mccmd | .colspill | .nrcfg | .nrptr | .hvec | .notify | .atbase | .pincmd
  | .pfans | .invaddr | .invlen | .invcmd | .migva | .migdst | .migctl | .hdmWindow | .biLimit => true

/-! ## Registers of coding groups -/

/-- GCTL: its command (R67). -/
def Module.writeGctl (m : Module) (slot : Nat) (v : Word64) : Module :=
  match fld v.toNat 10 2 with
  | 1 => m.create slot
  | 2 => m.dissolve slot
  | 3 => m.admitMember slot (fld v.toNat 12 4)
  | _ => m

/-- GCFG: GID, K, M and ASID stay while the group is in force (R68). -/
def Group.writeGcfg (g : Group) (v : Word64) : Group :=
  let k : Word64 := if g.valid then 0xFFFFFE00FFFF0000 else 0
  { g with cfg := (g.cfg &&& k) ||| (v &&& ~~~ k) }

/-- GMEM: while the group is in force, a write takes effect through ADMIT (R70). -/
def Group.writeGmem (g : Group) (j : Nat) (v : Word64) : Group :=
  let w := v &&& 0x80000003FFFC03FF
  if g.valid then { g with gstage := Tab.set none g.gstage j (some w) } else { g with gmem := Tab.set 0 g.gmem j w }

/-- GJSIZE: raised at any time; lowered between rounds, and never below the minimum or the blocks in use (R85). -/
def Group.writeGjsize (g : Group) (v : Word64) : Group :=
  let n := fld v.toNat 0 32
  let least := Nat.max 2 (g.chainB.foldl Nat.max (g.retB.foldl Nat.max 0) + 1)
  if !g.valid || decide (g.jblocks ≤ n) || (decide (3 ≤ g.state) && decide (least ≤ n)) then { g with jsize := BitVec.ofNat 64 n } else g

/-- GJSIZE of a slot: new blocks join the free list of a journal in use (R85). -/
def Module.writeGjsize (m : Module) (slot : Nat) (v : Word64) : Module :=
  let m1 := m.modGroup slot fun g => g.writeGjsize v
  if (m1.group slot).valid then m1.journalLinks slot else m1

/-- GLOG: SUSPECT (R71). -/
def Group.writeGlog (g : Group) (i : Nat) (v : Word64) : Group :=
  let w := Tab.get glogEmpty g.glog i
  { g with glog := Tab.set glogEmpty g.glog i ((w &&& 0xEFFFFFFFFFFFFFFF) ||| (v &&& 0x1000000000000000)) }

/-- GREPAIR (R105). -/
def Module.writeGrepair (m : Module) (slot : Nat) (v : Word64) : Module :=
  if bit v.toNat 62 then m.lineRepair slot (fld v.toNat 56 6) (fld v.toNat 0 30) else m

/-! ## Registers of the other blocks -/

/-- TSTATE as Silo writes it; every entry to SCRUB counts (R131). -/
def Module.writeTstate (m : Module) (v : Word64) : Module :=
  match v.toNat % 8 with
  | 0 => (m.enterState .release).modSilo fun x => { x with suspended := m.halted }
  | 1 => m.enterScrub
  | 2 => m.enterState .attest
  | 3 => m.enterState .health
  | 4 => m.enterState .ready
  | 5 => m.enterState .leased
  | 6 => m.enterState .failed
  | _ => m

/-- The HDM window in bytes: a multiple of 256 MiB, at most 1 TiB (R55). -/
def Module.writeHdm (m : Module) (v : Word64) : Module :=
  m.modSilo fun x => { x with hdmWindow := BitVec.ofNat 64 (Nat.min (2 ^ 40) (v.toNat / 2 ^ 28 * 2 ^ 28)) }

/-- The back-invalidation limit in milliseconds, 1 to 64 (R60). -/
def Module.writeBi (m : Module) (v : Word64) : Module := m.modSilo fun x => { x with biLimit := BitVec.ofNat 64 (Nat.max 1 (Nat.min 64 v.toNat)) }

/-- NOTIFY holds a post for a core until it is taken (R484). -/
def Module.notify (m : Module) (core : Nat) : Module := m.modCore core fun k => { k with post := true }

/-- NOTIFY (R484). -/
def execNotify (core : BitVec 10) (s : State) : Out := .next (s.on fun m => m.notify core.toNat)

/-- Changes the translation control block. -/
def Module.modTr (m : Module) (f : Xlate → Xlate) : Module := { m with tr := f m.tr }

/-- Changes the station control block. -/
def Module.modFb (m : Module) (f : Fabric → Fabric) : Module := { m with fb := f m.fb }

/-- What a write of a register does, for an agent that may write it. -/
def Module.writeReg (m : Module) (r : ModReg) (v : Word64) : Module :=
  match r with
  | .powerFault => if v = 0 then m.powerClear else m
  | .tstate => m.writeTstate v
  | .devid => m.modFb fun x => { x with devid := v &&& 0x80000000000003FF }
  | .devfrlim => m.modFb fun x => { x with devfrlim := v &&& 0xFFFFFFFF }
  | .impasid => m.modFb fun x => { x with impasid := v &&& 0xFFFF }
  | .importWord e w => m.importWrite e (w == 1) v
  | .impstat => m.modFb fun x => { x with impstat := x.impstat &&& ~~~ (v &&& 0x8000000000000000) }
  | .mcstage w => m.writeMcstage w v
  | .mccmd => m.writeMccmd v
  | .mcctl _ => m
  | .mcbmp _ _ => m
  | .colspill => (m.modFb fun x => { x with colspill := v &&& 0x80000FFFFFC00FFF }).retryRing
  | .cqcfg q => m.modQueue q fun x => x.writeCfg q v
  | .cqptr q => m.modQueue q fun x => x.writeTail (v.setWidth 32)
  | .cqstat q => m.writeCqstat q v
  | .cqrpl q => m.modQueue q fun x => { x with rpl := v &&& 0xFF0FFFFFFFF00000 }
  | .evcnt n => m.writeCounter n v
  | .nrcfg => m.writeNrcfg v
  | .nrptr => m.writeNrHead (v.setWidth 32)
  | .hvec => { m with fe := { m.fe with hvec := v &&& 0x800FFFFFFFFFFFFC } }
  | .notify => if bit v.toNat 63 then m.notify (fld v.toNat 0 10) else m
  | .atbase => m.modTr fun x => { x with atbase := v &&& 0x000FFFFFFFF80000 }
  | .pincmd => m.writePincmd v
  | .pfqcfg d => m.writePfqcfg d v
  | .pfqptr d => m.writePfHead d (v.setWidth 32)
  | .pfans => m.writePfans v
  | .invaddr => { m with tr := { m.tr with invaddr := v &&& 0x000FFFFFFFFF0000 } }
  | .invlen => { m with tr := { m.tr with invlen := v &&& 0xFFFFFFFF } }
  | .invcmd => if bit v.toNat 62 then m.invalidate v else m
  | .migva => { m with tr := { m.tr with migva := v &&& 0x000FFFFFFFFF0000 } }
  | .migdst => { m with tr := { m.tr with migdst := v &&& 0x800FFFFFFFFF0000 } }
  | .migctl => if bit v.toNat 62 then m.migrate v else m
  | .gctl s => m.writeGctl s v
  | .gcfg s => m.modGroup s fun g => g.writeGcfg v
  | .ground _ => m
  | .glast _ => m
  | .gjbase s => m.modGroup s fun g => { g with jbase := v &&& 0x000FFFFFFFFF0000 }
  | .gjsize s => m.writeGjsize s v
  | .grepair s => m.writeGrepair s v
  | .gmem s j => m.modGroup s fun g => g.writeGmem j v
  | .greg0 s n => m.gregWrite s n false v
  | .greg1 s n => m.gregWrite s n true v
  | .glog s i => m.modGroup s fun g => g.writeGlog i v
  | .hdmWindow => m.writeHdm v
  | .biLimit => m.writeBi v

/-! ## Reads (R6, R7, R112) -/

/-- GCTL as it reads; RIDX and CMD read zero (R67). -/
def Group.gctl (g : Group) : Nat :=
  b2n g.valid * 2 ^ 63 + b2n g.lost * 2 ^ 62 + b2n g.fenced * 2 ^ 61 + b2n g.degraded * 2 ^ 60 + g.self % 16 * 2 ^ 56 + g.coord % 16 * 2 ^ 52 +
    g.live.toNat * 2 ^ 32 + b2n (g.busy != .idle) * 2 ^ 9 + b2n g.err * 2 ^ 8 + g.errCause.toNat

/-- GREPAIR as it reads (R105). -/
def Group.grepair (g : Group) : Nat := match g.busy with
  | .repairing _ _ _ _ => 2 ^ 63
  | .idle | .creating _ _ | .admitting _ _ _ | .rebuilding _ => 0

/-- CQSTAT as it reads; CTL reads zero (R114). -/
def Queue.cqstat (q : Queue) : Nat :=
  b2n q.stopped * 2 ^ 63 + b2n q.replaying * 2 ^ 62 + b2n q.noreplay * 2 ^ 61 + b2n q.ndseen * 2 ^ 60 + q.replays % 4 * 2 ^ 58 + q.cause.toNat

/-- What a read of a register returns: a field that is written only, and a reserved one, reads zero (R6, R7). -/
def Module.readReg (m : Module) (r : ModReg) : Word64 :=
  match r with
  | .powerFault => BitVec.ofNat 64 (b2n m.silo.powerFault)
  | .tstate => BitVec.ofNat 64 (tstateCode m.silo.tstate)
  | .devid => m.fb.devid
  | .devfrlim => m.fb.devfrlim
  | .impasid => m.fb.impasid
  | .importWord e w => let x := Tab.get (0, 0) m.fb.imports e; if w = 1 then x.2 else x.1
  | .impstat => m.fb.impstat
  | .mcstage w => Tab.get 0 m.fb.mcstage w
  | .mccmd => m.fb.mccmd &&& 0x8000000000000000
  | .mcctl e => Tab.get 0 m.fb.mcctl e
  | .mcbmp e w => Tab.get 0 (Tab.get [] m.fb.mcmap e) w
  | .colspill => m.fb.colspill
  | .cqcfg q => (m.queue q).cfg
  | .cqptr q => (m.queue q).head ++ (m.queue q).tail
  | .cqstat q => BitVec.ofNat 64 (m.queue q).cqstat
  | .cqrpl q => (m.queue q).rpl
  | .evcnt n => (Tab.get 0 m.fe.evcnt n).setWidth 64
  | .nrcfg => m.fe.nrcfg
  | .nrptr => m.fe.nrptr
  | .hvec => m.fe.hvec
  | .notify => 0
  | .atbase => m.tr.atbase
  | .pincmd => m.tr.pincmd &&& 0x9FEFFFFFFFFF0003
  | .pfqcfg d => Tab.get 0 m.tr.pfqcfg d
  | .pfqptr d => Tab.get 0 m.tr.pfqptr d
  | .pfans => 0
  | .invaddr => m.tr.invaddr
  | .invlen => m.tr.invlen
  | .invcmd => m.tr.invcmd &&& 0x8000000000000000
  | .migva => m.tr.migva
  | .migdst => m.tr.migdst
  | .migctl => m.tr.migctl &&& 0xA07FFFFF00000000
  | .gctl s => BitVec.ofNat 64 (m.group s).gctl
  | .gcfg s => (m.group s).cfg
  | .ground s => BitVec.ofNat 64 ((m.group s).state * 2 ^ 61 + (m.group s).round)
  | .glast s => BitVec.ofNat 64 (m.group s).glast
  | .gjbase s => (m.group s).jbase
  | .gjsize s => (m.group s).jsize
  | .grepair s => BitVec.ofNat 64 (m.group s).grepair
  | .gmem s j => Tab.get 0 (m.group s).gmem j
  | .greg0 s n => Tab.get 0 (m.group s).greg0 n
  | .greg1 s n => Tab.get 0 (m.group s).greg1 n
  | .glog s i => Tab.get glogEmpty (m.group s).glog i
  | .hdmWindow => m.silo.hdmWindow
  | .biLimit => m.silo.biLimit

/-- What the last read of a register returned to the control core or to Silo that made it. -/
def Module.returns (m : Module) (v : Word64) : Module := { m with fe := { m.fe with readOut := v } }

/-- A read of a register by Meadow or Silo. -/
def Module.registerRead (m : Module) (r : ModReg) : Module := m.returns (if regExists r then m.readReg r else 0)

/-- An access of Meadow to a resource that is Silo's alone: ignored on write, zero on read, and logged (R112). The log's record of it is a word that names
the resource (log entry 29). -/
def Module.siloOnly (m : Module) (x : SiloResource) (write : Bool) : Module :=
  let m1 := m.modSilo fun y => { y with log := y.log ++ [BitVec.ofNat 256 (match x with
    | .fuses => 1 | .bootFlash => 2 | .attestationKey => 3 | .tenancyCounter => 4 | .linkKeys => 5 | .scrubEngines => 6 | .testSequencer => 7)] }
  if write then m1 else m1.returns 0

/-! ## Places in the register blocks -/

/-- The register of the group control block at an offset (R66). -/
def groupReg (off : Nat) : Option ModReg :=
  let s := off / 0x2000
  let o := off % 0x2000
  if off % 8 ≠ 0 || 8 ≤ s then none
  else if o = 0x000 then some (.gctl s)
  else if o = 0x008 then some (.gcfg s)
  else if o = 0x010 then some (.ground s)
  else if o = 0x018 then some (.glast s)
  else if o = 0x020 then some (.gjbase s)
  else if o = 0x028 then some (.gjsize s)
  else if o = 0x030 then some (.grepair s)
  else if 0x100 ≤ o && o < 0x180 then some (.gmem s ((o - 0x100) / 8))
  else if 0x400 ≤ o && o < 0x800 then (if o % 16 = 0 then some (.greg0 s ((o - 0x400) / 16)) else some (.greg1 s ((o - 0x400) / 16)))
  else if 0x1000 ≤ o && o < 0x1080 then some (.glog s ((o - 0x1000) / 8))
  else none

/-- The register of the front-end register block at an offset (R114, R120, R124). -/
def frontReg (off : Nat) : Option ModReg :=
  let q := off / 0x40
  if off % 8 ≠ 0 then none
  else if off < 0x1000 then
    if off % 0x40 = 0x00 then some (.cqcfg q)
    else if off % 0x40 = 0x08 then some (.cqptr q)
    else if off % 0x40 = 0x10 then some (.cqstat q)
    else if off % 0x40 = 0x18 then some (.cqrpl q)
    else none
  else if off < 0x9000 then some (.evcnt ((off - 0x1000) / 8))
  else if off = 0x9000 then some .nrcfg
  else if off = 0x9008 then some .nrptr
  else none

/-- A write by an agent. What Meadow may not write is ignored and logged by Silo; what Silo may only read is ignored (R112). The log's record of it
is the value written (log entry 29). -/
def Module.registerWrite (m : Module) (who : Agent) (r : ModReg) (v : Word64) : Module :=
  match who with
  | .silo => if regBySilo r then m.writeReg r v else m
  | .meadow => if regByMeadow r then m.writeReg r v else m.modSilo fun x => { x with log := x.log ++ [v.setWidth 256] }

/-- An access at an offset of the group control block or of the front-end register block; where no register stands, a write is ignored and a read
returns zero (R7, R66, R114). -/
def Module.blockAccess (m : Module) (who : Agent) (groups : Bool) (off : Nat) (write : Option Word64) : Module :=
  match (if groups then groupReg off else frontReg off), write with
  | some r, some v => m.registerWrite who r v
  | some r, none => m.registerRead r
  | none, some _ => m
  | none, none => m.returns 0

/-- REGISTER_WRITE (R6, R112). -/
def execRegisterWrite (who : Agent) (r : ModReg) (v : Word64) (s : State) : Out :=
  if regExists r then .next (s.on fun m => m.registerWrite who r v) else .fault .noSuchUnit

end Sys2Proof.Machine
end

