-- ==== Sys2Proof/Machine/Fetch.lean ====
section
/-!
DEFINITION. What the sequencer sees of the next bundle before it issues: fetch and decode in the order of R319, the operations of an issue
with the re-issues of armed ones (R192 to R194), the checks of steps 7 and 8 and TOKEN_ARMED, and what holds the bundle back (R184, R188,
R190).
-/

namespace Sys2Proof.Machine

/-! ## Fetch and decode (R305 to R310, R319) -/

/-- What fetching gives: a bundle, a fault with EDATA and the header as far as it is known, or what it waits for: an absent page that Meadow services,
or a snoop. -/
inductive Fetched where
  | bundle (b : Bundle)
  | fault (c : Cause) (datum : Word64)
  | stop (st : Stop)
  deriving DecidableEq, Repr

/-- A failure to read code: a fault is precise, at its address; anything else is waited for (R198, R215, R319, R494). -/
def fetchFail (st : Stop) : Fetched :=
  match st with
  | .fault c va => .fault c (BitVec.ofNat 64 va)
  | st => .stop st

/-- What decoding answers, as a fetch. -/
def fetchedOf : Except Reject Bundle → Fetched
  | .ok b => .bundle b
  | .error r => .fault r.cause (BitVec.ofNat 64 r.edata)

/-- Fetches the rest of a bundle whose header word `hb` has passed step 2: the S word, the length and REP, then the remaining bytes
(R319 steps 3 to 6). -/
def Module.fetchRest (m : Module) (cx : Nat) (hb : List Byte) : Fetched × Module :=
  let pc := (m.ctx cx).pc.toNat
  let h := leNat hb
  match (if bit (hdrPres h) 5 then m.codeBytes cx (pc + 4) 4 else .ok ([], m)) with
  | .error e => (fetchFail e, m)
  | .ok (sb, m1) =>
    if hdrKind h = 3 then (fetchedOf (decodeBundle (hb ++ sb)), m1)
    else if !lengthOk h (leNat sb) then (.fault Cause.illegalHeader (BitVec.ofNat 64 h), m1)
    else match m1.codeBytes cx (pc + 4 + sb.length) (bundleLen h (leNat sb) - 4 - sb.length) with
      | .error e => (fetchFail e, m1)
      | .ok (rest, m2) => (fetchedOf (decodeBundle (hb ++ sb ++ rest)), m2)

/-- Fetches and decodes the bundle at the program counter of a context (R319 steps 1 to 6). -/
def Module.fetch (m : Module) (cx : Nat) : Fetched × Module :=
  match m.codeBytes cx (m.ctx cx).pc.toNat 4 with
  | .error e => (fetchFail e, m)
  | .ok (hb, m1) =>
    let h := leNat hb
    if !headerOk h then (.fault Cause.illegalHeader (BitVec.ofNat 64 h), m1)
    else if hdrKind h = 1 then (fetchedOf (decodeBundle hb), m1)
    else m1.fetchRest cx hb

/-! ## The operations of an issue (R192 to R194) -/

/-- One operation of a bundle issue: its slot, and whether it is a re-issue of the slot's armed operation. -/
structure Part where
  slot : Nat
  op : Instr
  re : Bool
  deriving DecidableEq, Repr

/-- The armed operation of a slot. -/
def Thread.armedAt (t : Thread) (slot : Nat) : Option Armed :=
  match slot with
  | 3 => t.u.armM
  | 4 => t.u.armC0
  | 5 => t.u.armC1
  | _ => none

/-- The operations of an issue in slot order: what the bundle presents, the further issues of an operation that carries K being
re-issues (R194), and the re-issue of every armed operation whose slot is absent (R192). -/
def Thread.parts (t : Thread) (ops : List SlotOp) (first : Bool) : List Part :=
  (range' 0 6).filterMap fun sl =>
    match firstWhere (fun o : SlotOp => o.slot == sl) ops, t.armedAt sl with
    | some o, some a => some ⟨sl, o.op, !first && stickyOf o.op && decide (a.op = o.op)⟩
    | some o, none => some ⟨sl, o.op, false⟩
    | none, some a => some ⟨sl, a.op, true⟩
    | none, none => none

/-- Disarms the slots in which the first issue of a bundle presents a syllable (R193). -/
def Thread.disarmPresented (t : Thread) (ops : List SlotOp) : Thread :=
  let has := fun n : Nat => ops.any fun o => o.slot == n
  let t1 := t.modU fun u => { u with armM := if has 3 then none else u.armM, armC0 := if has 4 then none else u.armC0 }
  if has 5 then t1.disarmC1 else t1

/-- The register that gives an operation with K its address operand, or MMAG its crew: a re-issue keeps its own and does not read it (R192,
R424). -/
def addressReg : Instr → Option Reg
  | .mmag _ _ _ _ _ _ _ a => some (xs a)
  | .mdrainScratchpad _ _ a _ _ _ _ _ _ => some (xs a)
  | .mdrainGeneric _ _ a _ _ _ _ _ _ => some (xs a)
  | .mldaccScratchpad _ _ a _ => some (xs a)
  | .mldaccGeneric _ _ a _ => some (xs a)
  | .spld _ _ _ a _ => some (xs a)
  | .spst _ _ _ a _ => some (xs a)
  | .splds _ _ a _ => some (xs a)
  | .spldp _ _ _ a _ _ => some (xs a)
  | .spstp _ _ _ a _ _ => some (xs a)
  | .spfill _ a _ => some (xs a)
  | .spadd _ _ _ _ a _ => some (xs a)
  | .cpy _ _ a => some (xs a)
  | .cpyr _ _ a _ => some (xs a)
  | .gath _ _ a => some (xs a)
  | .scat _ _ a => some (xs a)
  | .rld _ _ _ _ a _ _ => some (xs a)
  | .rst _ _ _ a _ _ => some (xs a)
  | .rldt _ _ a _ _ => some (xs a)
  | .amo _ _ _ _ a _ _ _ _ => some (xs a)
  | .amoRsc _ _ a _ _ _ _ => some (xs a)
  | .pfetch _ a _ => some (xs a)
  | _ => none

/-- The registers an operation of an issue reads. -/
def Part.reads (p : Part) : List Reg :=
  match p.re, addressReg p.op with
  | true, some r => (operands p.op).reads.erase r
  | _, _ => (operands p.op).reads

/-- The register an operation of an issue names as token. -/
def Part.token (p : Part) : List Reg := if (operands p.op).token = 0 then [] else [.s (operands p.op).token]

/-- Whether some of the registers named, constants apart, is in a list (R178). -/
def hits (l named : List Reg) : Bool := named.any fun r => !r.free && l.contains r

/-! ## Checks of R319 steps 7 to 9 -/

/-- The registers an operation of an issue writes for the check of two writes: its token is one of them (R322, R327), but for the token of the
armed C1 operation, of which TOKEN_ARMED tells (R193). -/
def Part.written (p : Part) : List Reg := (operands p.op).writes ++ if p.re && p.slot == 5 then [] else p.token

/-- RUN_DEPENDENCE: a read, write or token that meets the mask, or two writes of one register (R178). -/
def runDependent (mask : List Reg) : List Part → List Reg → Bool
  | [], _ => false
  | p :: ps, seen =>
    let o := operands p.op
    hits mask (p.reads ++ o.writes ++ p.token) || hits seen p.written || runDependent mask ps (p.written ++ seen)

/-- WINDOW_READ: a read of a register with a pending landing while WINDOWCHK.EN is 1 (R183); the landings due at this issue are done. -/
def Thread.windowRead (t : Thread) (ps : List Part) : Bool :=
  bit t.csr.windowchk.toNat 0 && ps.any fun p => hits (t.u.land.flatMap fun e => e.writes.map (·.1)) p.reads

/-- TOKEN_ARMED: an operation that the bundle presents reads, writes or names the token of the armed C1 operation (R193). -/
def Thread.tokenArmed (t : Thread) (p : Part) : Bool :=
  match t.u.armC1 with
  | none => false
  | some a => a.token != 0 && !p.re && hits [.s a.token] (p.reads ++ (operands p.op).writes ++ p.token)

/-- The operations that are tried before the first that meets the armed token: TOKEN_ARMED is raised in slot order (R319 step 9). -/
def Thread.tried (t : Thread) (ps : List Part) : List Part := ps.takeWhile fun p => !t.tokenArmed p

/-! ## What holds a bundle back (R184, R188, R190, R191) -/

/-- Whether a register is pending. -/
def Thread.pending (t : Thread) : Reg → Bool
  | .s n => t.u.pend.contains n
  | .v _ => false
  | .p _ => false
  | .q _ => false
  | .e _ => false

/-- Whether an operation stalls on a pending register (R188). WAITT bounds its own wait (R377), and the token of an armed C1 operation stays
pending across its issues (R193). -/
def Part.stalls (t : Thread) (p : Part) : Bool :=
  let rs := match p.op with
    | .waitt _ => []
    | _ => p.reads
  (rs ++ (operands p.op).writes ++ if p.re && p.slot == 5 then [] else p.token).any t.pending

/-- Whether each queue has room for what the operations enter: 16 entries in S, 32 in C1, 8 in M (R190). The slices that partners have entered
are not the thread's own. -/
def Thread.room (t : Thread) (ps : List Part) : Bool :=
  let own := t.x.mq.filter fun e => match e.kind with
    | .slice _ _ _ => false
    | _ => true
  let n := fun f : Bool × Bool × Bool → Bool => (ps.filter fun p => f (queuesOf p.op)).length
  decide (t.x.sq.length + n (fun q => q.1) ≤ 16) && decide (t.x.c1q.length + n (fun q => q.2.1) ≤ 32) &&
    decide (own.length + n (fun q => q.2.2) ≤ 8)

/-- Whether the long-class operations of an issue need more landing entries than are free once the due entries have landed (R184). -/
def Thread.landFull (t : Thread) (ps : List Part) : Bool :=
  decide ((ps.filter fun p => decide ((operands p.op).cls = .long)).length + t.u.land.length > 8)

end Sys2Proof.Machine
end

