-- ==== Sys2Proof/Machine/Seq.lean ====
section
/-!
DEFINITION. The sequencer's own steps: landings and late timed loads, re-issues, empty issues, repetition, the traps taken at a boundary in
the order of R504, and ERET. Rules R181 to R185, R192 to R194, R308, R310, R319, R479, R481, R482, R484 and R504.
-/

namespace Sys2Proof.Machine

/-! ## Boundaries -/

/-- Whether the sequencer of a context can move at all: its thread is the one that its core issues, and neither a bank exchange, a frozen clock,
a power or thermal stop, a page fault, a region fill nor the saving of its launch holds it; a shadow moves only while its primary is stopped on a page
fault (R16, R18, R19, R153, R158, R198, R199, R225). -/
def Module.atBoundary (m : Module) (cx : Nat) : Bool :=
  let t := m.ctx cx
  let k := coreOf cx
  decide (cx < 2048) && m.active k == cx && !(m.core k).exchange && !(m.core k).frozen && !m.dieHalted (dieOfCore k) && !t.pfStopped &&
    !m.fillStopped cx && (m.primary k == cx || (m.ctx (m.primary k)).pfStopped) && (match m.launchOf t.launch with | some l => l.state != .saving | none => true)

/-- Whether the thread of a context may issue a bundle. -/
def Module.mayIssue (m : Module) (cx : Nat) : Bool := m.atBoundary cx && (m.ctx cx).status == .running

/-- Whether a trap may be taken on the thread of a context: it issues, or it drains for HALT (R375). -/
def Module.mayTrap (m : Module) (cx : Nat) : Bool :=
  m.atBoundary cx && ((m.ctx cx).status == .running || (m.ctx cx).status == .halting)

/-! ## WAIT_STALL (R378, R417) -/

/-- A WAITF or WAITT that has waited WAITLIM cycles raises WAIT_STALL precisely at its bundle (R378). -/
def Module.bundleStall (m : Module) (cx : Nat) : Module :=
  match (m.ctx cx).u.waitFrom with
  | some w => if m.waitOver cx then m.takeTrap cx ⟨Cause.waitStall, 0, w.2, .P⟩ else m
  | none => m

/-- A wait has lasted WAITLIM cycles (R378, R417); before that nothing happens. -/
def Module.waitStall (m : Module) (cx : Nat) : Module :=
  match m.stallDue cx with
  | some (e, g) => m.pushStall cx e g
  | none => if m.mayIssue cx then m.bundleStall cx else m

/-- WAIT_STALL (R378). -/
def execWaitStall (s : State) : Out := .next (s.on fun m => m.waitStall m.focus)

/-! ## The start of an issue (R181, R184, R185) -/

/-- A bundle begins to issue: its header and the address after it. -/
def Module.begin (m : Module) (header : Word32) (after : Word64) : State :=
  let m1 := m.modTh fun t => t.modU fun u => { u with ir := { header := header, after := after, clears := 0, skctlSet := false } }
  ⟨m1, some m1⟩

/-- Whether an entry lands at the start of the next issue. -/
def Landing.due (e : Landing) : Bool := decide (e.rem ≤ 1)

/-- TMR_DIVERGE on a core: its cluster is suspect, and replay starts (R102, R127, R200). -/
def Module.diverge (m : Module) (k : Nat) : Module := (m.suspectCluster (clusterOf k)).callReplay (clusterOf k) Cause.tmrDiverge

/-- What raising the fault of a landing entry does: an issue of the armed C1 operation disarms it (R193), and TMR_DIVERGE starts a replay
(R200). -/
def Module.landFault (m : Module) (e : Landing) : Module :=
  let m1 := if e.re then m.modTh Thread.disarmC1 else m
  match e.fault with
  | none => m1
  | some τ => if τ.cause = Cause.tmrDiverge then m1.diverge (coreOf m1.focus) else m1.takeTrap m1.focus τ

/-- What the landing queue does at the start of an issue: late data freeze the core's clock (R16, R185); a fault is raised, its entry freed, and
the issue is withdrawn (R185); otherwise the counts advance and the due entries land (R181, R182). Outside an issue nothing lands. -/
def State.landing (s : State) : State :=
  match s.pre with
  | none => s
  | some m =>
    let due := m.th.u.land.filter Landing.due
    if due.any fun e => e.load.isSome then ⟨(m.freeze (coreOf m.focus)).pass 1, none⟩
    else match firstWhere (fun e : Landing => e.fault.isSome) due with
      | some e =>
        let b := m.modTh fun t => t.modU fun u => { u with land := u.land.erase e }
        ⟨b.landFault e, none⟩
      | none => s.upd Thread.advance

/-- LANDING (R181): the first thing a bundle issue does. -/
def execLanding (s : State) : Out := .next s.landing

/-- The data of a timed load arrive from physical memory: zero-extended, or the fault of the access (R59, R185, R232, R258, R455). -/
def Module.timedData (m : Module) (e : Landing) (pa n : Nat) (addr : Word64) : Landing :=
  let h := pa / 64
  let line := match m.cellOf h with
    | some c => (m.cell c).first
    | none => m.peek (64 * h) 64
  let v : VWord := BitVec.ofNat 1024 (leNat ((line.drop (pa % 64)).take n))
  if m.held h = .M then { e with writes := [], fault := some ⟨Cause.timedClass, 0, addr, .L⟩, load := none }
  else if m.mm.poison.contains h then { e with writes := [], fault := some ⟨Cause.memPoison, 0, addr, .L⟩, load := none }
  else { e with writes := e.writes.map fun w => (w.1, v), load := none }

/-- Whether an acquire or a queue fence that a timed load issued behind has still to pass, so that the load waits; a core that is frozen for its data
does not wait (R16, R185, R240, R469). -/
def Module.timedWaits (m : Module) (cx serial : Nat) : Bool :=
  !m.clockHeld cx && (m.ctx cx).x.c1q.any fun e => decide (e.serial < serial) && (match e.kind with
    | .marker .rel _ => false
    | .marker _ _ => true
    | .qfence => true
    | _ => false)

/-- The data of landing entry `i` of a context arrive, those of the interrupted code being numbered after the handler's; a core that was
frozen for them goes on (R16, R185). The words of its L1 give way to them (R212). -/
def Module.timedArrive (m : Module) (cx i : Nat) : Module :=
  let t := m.ctx cx
  let n := t.u.land.length
  match nth? i (t.u.land ++ (t.u.frame.map fun f => f.land).getD []) with
  | none => m
  | some e => match e.load with
    | none => m
    | some (pa, k, a, serial) =>
      if m.timedWaits cx serial then m
      else
      let e' := m.timedData e pa k a
      let t1 := t.modU fun u =>
        if i < n then { u with land := modifyAt (fun _ => e') i u.land }
        else { u with frame := u.frame.map fun f => { f with land := modifyAt (fun _ => e') (i - n) f.land } }
      let late := t1.u.land.any fun x => x.due && x.load.isSome
      let m1 := (m.setCtx cx t1).l1Drop (m.l1Of (coreOf cx) pa) pa k
      if late || decide (cx ≥ 2048) then m1 else m1.thaw (coreOf cx)

/-- TIMED_LOAD_DATA_ARRIVAL (R185). -/
def execTimedLoadDataArrival (ctx idx : Nat) (s : State) : Out := .next (s.on fun m => m.timedArrive ctx idx)

/-! ## Re-issue (R192, R193) -/

/-- The step register of a slot. -/
def Csrs.stepOf (c : Csrs) (slot : Nat) : Word64 :=
  match slot with
  | 3 => c.stepm
  | 4 => c.stepc0
  | _ => c.stepc1

/-- Sets the bytes by which the armed operation of a slot has been stepped. -/
def Thread.setStep (t : Thread) (slot : Nat) (v : Word64) : Thread :=
  let g := Option.map fun a : Armed => { a with step := v }
  t.modU fun u => match slot with
    | 3 => { u with armM := g u.armM }
    | 4 => { u with armC0 := g u.armC0 }
    | _ => { u with armC1 := g u.armC1 }

/-- Re-issues the armed operation of a slot, its address operand advanced by the step register. -/
def State.reissue (s : State) (slot : Nat) : State :=
  match s.now.th.armedAt slot with
  | none => s
  | some a =>
    let step := a.step + s.src.th.csr.stepOf slot
    let addr := a.base + step
    let s1 := match slot with
      | 3 => s.reissueM a addr
      | 4 => s.reissueC0 a.op addr
      | _ => s.reissueC1 a.op addr a.base
    if s1.pre.isSome then s1.upd fun t => t.setStep slot step else s1

/-- Re-issues in slot order until one stops the issue. -/
def reissueAll : List Part → State → State
  | [], s => s
  | p :: ps, s => if s.pre.isNone then s else reissueAll ps (s.reissue p.slot)

/-! ## Empty issues (R184) -/

/-- Ends an empty issue: no mask bit, no end of a run, no STEP_TRAP, and the program counter stays. -/
def State.endEmpty (s : State) : State := if s.pre.isNone then s else ⟨s.now.pass 1, none⟩

/-- The re-issues of an empty issue: those of long class only with landing entries free for them (log entry 70). -/
def Thread.emptyParts (t : Thread) : List Part :=
  let ps := t.parts [] true
  if t.landFull ps then ps.filter fun p => decide ((operands p.op).cls ≠ .long) else ps

/-- An empty issue of the focused context before the bundle of a header: every armed operation re-issues. -/
def Module.emptyIssue (m : Module) (header : Word32) (after : Word64) : State :=
  let s := (m.begin header after).landing
  if s.pre.isNone then s
  else
    let t := s.now.th
    let ps := t.emptyParts
    if runDependent t.u.mask ps [] then s.faultHdr Cause.runDependence
    else if t.windowRead ps then s.faultHdr Cause.windowRead
    else if ps.any (Part.stalls t) || !t.room ps then s.hold fun t => t
    else (reissueAll ps s).endEmpty

/-- Whether the thread waits to issue a bundle until landing entries are free (R184). The landings due at this issue are done. -/
def Thread.wantsEmpty (t : Thread) (b : Bundle) : Bool := t.landFull (t.parts b.ops t.u.rep.isNone)

/-- The address after a bundle at the thread's program counter. -/
def Thread.after (t : Thread) (b : Bundle) : Word64 := t.pc + BitVec.ofNat 64 b.len

/-- EMPTY_ISSUE (R184, R482): only where the next bundle, or an ERET that has issued, waits for landings. -/
def execEmptyIssue (s : State) : Out :=
  let m := s.now
  if s.pre.isSome || !m.mayIssue m.focus then .next s
  else if m.th.u.returning then
    .next (if m.th.u.land.isEmpty then s else m.emptyIssue m.th.u.ir.header m.th.u.ir.after)
  else match m.fetch m.focus with
    | (.bundle b, m1) =>
      if (m1.th.advance).wantsEmpty b then .next (m1.emptyIssue (BitVec.ofNat 32 b.header) (m1.th.after b)) else .next s
    | _ => .next s

/-! ## Repetition and whole-bundle forms (R194, R308, R310) -/

/-- One issue of a bundle with a repeat field: the issues still to make, and the end of the run where STOP is set. -/
def Sequencer.countIssue (u : Sequencer) (rep : Nat) (stop : Bool) : Sequencer :=
  { u with
    rep := match u.rep with
      | none => if rep = 0 then none else some rep
      | some n => if n ≤ 1 then none else some (n - 1)
    mask := if stop then [] else u.mask }

/-- PURE_REPEAT: one of its REP + 1 issues (R308). -/
def execPureRepeat (rep : BitVec 5) (stop : Bool) (s : State) : Out := .next (s.upd fun t => t.modU fun u => u.countIssue rep.toNat stop)

/-- BRK: raises BREAKPOINT and issues nothing (R310). -/
def execBrk (_ : BitVec 28) (s : State) : Out := .next (s.faultHdr Cause.breakpoint)

/-- FEND on a context that holds a thread (R479). -/
def execFend (ctx : Nat) (code : BitVec 7) (s : State) : Out :=
  .next (s.on fun m => if (m.ctx ctx).status = .empty then m else m.fend ctx code.toNat)

/-! ## Traps at a boundary (R484, R504) -/

/-- A cause of delivery A that is held: it comes before every other. -/
def Thread.heldA (t : Thread) : Option Trap := firstWhere (fun τ : Trap => τ.delivery == .A) t.u.held

/-- Whether a held post may be taken: the context is its core's primary, at user level, with IE 1 (R484). -/
def Module.interruptDue (m : Module) (cx : Nat) : Bool :=
  let t := m.ctx cx
  (m.core (coreOf cx)).post && m.primary (coreOf cx) == cx && !t.system && bit t.csr.estat.toNat 0

/-- Whether STEP_TRAP is due: SSTEP is 1 and a user-level bundle has issued since the last trap or ERET (R484). -/
def Thread.stepDue (t : Thread) : Bool := t.u.stepped && !t.system && bit t.csr.estat.toNat 7

/-- Takes a held cause out of the list and takes its trap. -/
def Module.takeHeld (m : Module) (cx : Nat) (τ : Trap) : Module :=
  (m.modCtx cx fun t => t.modU fun u => { u with held := u.held.erase τ }).takeTrap cx τ

/-- The held cause that is due: one of delivery A, else, where neither INTERRUPT nor STEP_TRAP is due, the one known first. -/
def Module.heldDue (m : Module) (cx : Nat) : Option Trap :=
  let t := m.ctx cx
  match t.heldA with
  | some τ => some τ
  | none => if m.interruptDue cx || t.stepDue then none else t.u.held.head?

/-- TRAP_ENTRY (R481, R504). -/
def execTrapEntry (s : State) : Out :=
  .next (match s.pre with
    | some _ => s
    | none => s.on fun m => if m.mayTrap m.focus then (match m.heldDue m.focus with | some τ => m.takeHeld m.focus τ | none => m) else m)

/-- INTERRUPT on the core of the context in focus (R484). -/
def execInterrupt (s : State) : Out :=
  .next (match s.pre with
    | some _ => s
    | none => s.on fun m =>
      let cx := m.primary (coreOf m.focus)
      if m.mayTrap cx && m.interruptDue cx && (m.ctx cx).heldA.isNone then
        (m.modCore (coreOf cx) fun k => { k with post := false }).takeTrap cx ⟨Cause.interrupt, 0, 0, .A⟩
      else m)

/-- STEP_TRAP (R484). -/
def execStepTrap (s : State) : Out :=
  .next (match s.pre with
    | some _ => s
    | none => s.on fun m =>
      let t := m.th
      if m.mayTrap m.focus && t.stepDue && !m.interruptDue m.focus && t.heldA.isNone then m.takeTrap m.focus ⟨Cause.stepTrap, 0, 0, .A⟩
      else m)

/-! ## Return (R482) -/

/-- The M queue, halted at a faulting entry, goes on (R409). -/
def Thread.resumeM (t : Thread) : Thread := t.modX fun x => { x with mhalt := false }

/-- The return itself (R409, R482): the trap frame is restored, and the M queue goes on. -/
def Thread.goBack (t : Thread) : Thread := t.returnTrap.resumeM.modU fun u => { u with returning := false }

/-- ERET: the trap frame is restored, at once or, while landing entries of the handler are left, after the empty issues that follow. -/
def execEret (s : State) : Out :=
  .next (if !s.src.th.system then s.faultSyl Cause.privInstr .eret
    else if s.src.th.csr.epc.toNat % 4 ≠ 0 then s.fault Cause.addrAlign s.src.th.csr.epc
    else s.upd fun t => if t.u.land.isEmpty then t.goBack else t.modU fun u => { u with returning := true })

end Sys2Proof.Machine
end

