-- ==== Sys2Proof/Machine/Dispatch.lean ====
section
/-! DEFINITION. What each operation and event does: one meaning per constructor. -/

namespace Sys2Proof.Machine

/-- The meaning of an operation or event on a state. -/
def exec (i : Instr) (s : State) : Host.Outcome State Fault Refusal :=
  match i with
  | .bootStep ok => Sys2Proof.Machine.execBootStep ok s
  | .powerSample watts mean => Sys2Proof.Machine.execPowerSample watts mean s
  | .thermalSample hottest => Sys2Proof.Machine.execThermalSample hottest s
  | .firmwareStage img => Sys2Proof.Machine.execFirmwareStage img s
  | .attestationRequest nonce => Sys2Proof.Machine.execAttestationRequest nonce s
  | .mailboxRequest req => Sys2Proof.Machine.execMailboxRequest req s
  | .scrub readBackOk => Sys2Proof.Machine.execScrub readBackOk s
  | .attest mailboxAnswered => Sys2Proof.Machine.execAttest mailboxAnswered s
  | .health clustersOk stacksOk stationsOk => Sys2Proof.Machine.execHealth clustersOk stacksOk stationsOk s
  | .registerWrite who r v => Sys2Proof.Machine.execRegisterWrite who r v s
  | .importEntryWrite entry second v => Sys2Proof.Machine.execImportEntryWrite entry second v s
  | .mcastSetv idx => Sys2Proof.Machine.execMcastSetv idx s
  | .mcastClrv idx => Sys2Proof.Machine.execMcastClrv idx s
  | .packetReceive station seq crcOk p => Sys2Proof.Machine.execPacketReceive station seq crcOk p s
  | .laneLoss station lane => Sys2Proof.Machine.execLaneLoss station lane s
  | .retrainComplete station => Sys2Proof.Machine.execRetrainComplete station s
  | .remoteRequest src id offset req => Sys2Proof.Machine.execRemoteRequest src id offset req s
  | .remoteTimeout id => Sys2Proof.Machine.execRemoteTimeout id s
  | .cellLoad m => Sys2Proof.Machine.execCellLoad m s
  | .cellStore m => Sys2Proof.Machine.execCellStore m s
  | .cellReconcile m => Sys2Proof.Machine.execCellReconcile m s
  | .summaryMerge m => Sys2Proof.Machine.execSummaryMerge m s
  | .rescalingReduction m => Sys2Proof.Machine.execRescalingReduction m s
  | .roundDelta m => Sys2Proof.Machine.execRoundDelta m s
  | .prepare m => Sys2Proof.Machine.execPrepare m s
  | .decide m => Sys2Proof.Machine.execDecide m s
  | .stateQuery m => Sys2Proof.Machine.execStateQuery m s
  | .shareRequest m => Sys2Proof.Machine.execShareRequest m s
  | .revoke m => Sys2Proof.Machine.execRevoke m s
  | .voteRequest m => Sys2Proof.Machine.execVoteRequest m s
  | .tunnelResponse m => Sys2Proof.Machine.execTunnelResponse m s
  | .remotePostArrival src offset isMax value => Sys2Proof.Machine.execRemotePostArrival src offset isMax value s
  | .remoteReadDrop src => Sys2Proof.Machine.execRemoteReadDrop src s
  | .windowArrival src id offset bytes => Sys2Proof.Machine.execWindowArrival src id offset bytes s
  | .ringChunkArrival src id srcCore span offset bytes => Sys2Proof.Machine.execRingChunkArrival src id srcCore span offset bytes s
  | .spillRefetch core ring => Sys2Proof.Machine.execSpillRefetch core ring s
  | .hostRequest pa req => Sys2Proof.Machine.execHostRequest pa req s
  | .snoopComplete pa data => Sys2Proof.Machine.execSnoopComplete pa data s
  | .poolTimeout ctx idx => Sys2Proof.Machine.execPoolTimeout ctx idx s
  | .cqcfgWrite q v => Sys2Proof.Machine.execCqcfgWrite q v s
  | .cqptrTailWrite q tail => Sys2Proof.Machine.execCqptrTailWrite q tail s
  | .evcntWrite n v => Sys2Proof.Machine.execEvcntWrite n v s
  | .launch q h record => Sys2Proof.Machine.execLaunch q h record s
  | .wait q h c0 c1 c2 c3 => Sys2Proof.Machine.execWait q h c0 c1 c2 c3 s
  | .memoryCopy q h src dst len => Sys2Proof.Machine.execMemoryCopy q h src dst len s
  | .memoryFill q h dst len pattern => Sys2Proof.Machine.execMemoryFill q h dst len pattern s
  | .rdmaWrite q h src dst len qp key => Sys2Proof.Machine.execRdmaWrite q h src dst len qp key s
  | .rdmaRead q h src dst len qp key => Sys2Proof.Machine.execRdmaRead q h src dst len qp key s
  | .memoryComplete q id cause inbound => Sys2Proof.Machine.execMemoryComplete q id cause inbound s
  | .roundRopen q h gid round => Sys2Proof.Machine.execRoundRopen q h gid round s
  | .roundRprep q h gid round => Sys2Proof.Machine.execRoundRprep q h gid round s
  | .roundRcmt q h gid round => Sys2Proof.Machine.execRoundRcmt q h gid round s
  | .roundRrevoke q h gid round => Sys2Proof.Machine.execRoundRrevoke q h gid round s
  | .suspect q h gid round => Sys2Proof.Machine.execSuspect q h gid round s
  | .postAdd q h counter remote value => Sys2Proof.Machine.execPostAdd q h counter remote value s
  | .postMax q h counter remote value => Sys2Proof.Machine.execPostMax q h counter remote value s
  | .replayStart cluster cause => Sys2Proof.Machine.execReplayStart cluster cause s
  | .launchRestore launch => Sys2Proof.Machine.execLaunchRestore launch s
  | .triggerComplete launch => Sys2Proof.Machine.execTriggerComplete launch s
  | .loadComplete ctx idx => Sys2Proof.Machine.execLoadComplete ctx idx s
  | .tokenWrite ctx idx => Sys2Proof.Machine.execTokenWrite ctx idx s
  | .homeOperation ctx idx => Sys2Proof.Machine.execHomeOperation ctx idx s
  | .jobStart ctx idx => Sys2Proof.Machine.execJobStart ctx idx s
  | .jobComplete ctx idx => Sys2Proof.Machine.execJobComplete ctx idx s
  | .notify core => Sys2Proof.Machine.execNotify core s
  | .fend ctx code => Sys2Proof.Machine.execFend ctx code s
  | .tableWalk die asid va => Sys2Proof.Machine.execTableWalk die asid va s
  | .pfansRetry id => Sys2Proof.Machine.execPfansRetry id s
  | .pfansNomap id => Sys2Proof.Machine.execPfansNomap id s
  | .pfansDeny id => Sys2Proof.Machine.execPfansDeny id s
  | .regionFillComplete ctx block => Sys2Proof.Machine.execRegionFillComplete ctx block s
  | .invalidate cmd => Sys2Proof.Machine.execInvalidate cmd s
  | .migrate cmd => Sys2Proof.Machine.execMigrate cmd s
  | .pin cmd => Sys2Proof.Machine.execPin cmd s
  | .unpin cmd => Sys2Proof.Machine.execUnpin cmd s
  | .admitMember slot ridx => Sys2Proof.Machine.execAdmit slot ridx s
  | .lineRepair slot region line => Sys2Proof.Machine.execLineRepair slot region line s
  | .gregWrite slot region second v => Sys2Proof.Machine.execGregWrite slot region second v s
  | .add d a b => Sys2Proof.Machine.execAdd d a b s
  | .addi d a imm => Sys2Proof.Machine.execAddi d a imm s
  | .sub d a b => Sys2Proof.Machine.execSub d a b s
  | .mul d a b => Sys2Proof.Machine.execMul d a b s
  | .mulh nat d a b => Sys2Proof.Machine.execMulh nat d a b s
  | .div nat d a b => Sys2Proof.Machine.execDiv nat d a b s
  | .rem nat d a b => Sys2Proof.Machine.execRem nat d a b s
  | .and d a b => Sys2Proof.Machine.execAnd d a b s
  | .or d a b => Sys2Proof.Machine.execOr d a b s
  | .xor d a b => Sys2Proof.Machine.execXor d a b s
  | .andn d a b => Sys2Proof.Machine.execAndn d a b s
  | .shlReg d a b => Sys2Proof.Machine.execShlReg d a b s
  | .shlImm d a n => Sys2Proof.Machine.execShlImm d a n s
  | .shrReg d a b => Sys2Proof.Machine.execShrReg d a b s
  | .shrImm d a n => Sys2Proof.Machine.execShrImm d a n s
  | .shaReg d a b => Sys2Proof.Machine.execShaReg d a b s
  | .shaImm d a n => Sys2Proof.Machine.execShaImm d a n s
  | .rotlReg d a b => Sys2Proof.Machine.execRotlReg d a b s
  | .rotlImm d a n => Sys2Proof.Machine.execRotlImm d a n s
  | .clz d a => Sys2Proof.Machine.execClz d a s
  | .ctz d a => Sys2Proof.Machine.execCtz d a s
  | .popc d a => Sys2Proof.Machine.execPopc d a s
  | .min nat d a b => Sys2Proof.Machine.execMin nat d a b s
  | .max nat d a b => Sys2Proof.Machine.execMax nat d a b s
  | .cmp c d a b => Sys2Proof.Machine.execCmp c d a b s
  | .sel d a b c => Sys2Proof.Machine.execSel d a b c s
  | .li d imm => Sys2Proof.Machine.execLi d imm s
  | .mov d a => Sys2Proof.Machine.execMov d a s
  | .sext w d a => Sys2Proof.Machine.execSext w d a s
  | .zext w d a => Sys2Proof.Machine.execZext w d a s
  | .bfx d a p l => Sys2Proof.Machine.execBfx d a p l s
  | .bfi d a p l => Sys2Proof.Machine.execBfi d a p l s
  | .lea d a b n => Sys2Proof.Machine.execLea d a b n s
  | .cvta d a b dir => Sys2Proof.Machine.execCvta d a b dir s
  | .isap d a ap => Sys2Proof.Machine.execIsap d a ap s
  | .ld sx w d a off => Sys2Proof.Machine.execLd sx w d a off s
  | .st w d a off => Sys2Proof.Machine.execSt w d a off s
  | .br off => Sys2Proof.Machine.execBr off s
  | .brcEq a off => Sys2Proof.Machine.execBrcEq a off s
  | .brcNe a off => Sys2Proof.Machine.execBrcNe a off s
  | .call a off => Sys2Proof.Machine.execCall a off s
  | .ret a => Sys2Proof.Machine.execRet a s
  | .jr a => Sys2Proof.Machine.execJr a s
  | .loopImm len cnt => Sys2Proof.Machine.execLoopImm len cnt s
  | .loopReg len a => Sys2Proof.Machine.execLoopReg len a s
  | .join d a => Sys2Proof.Machine.execJoin d a s
  | .leave a => Sys2Proof.Machine.execLeave a s
  | .cbar a => Sys2Proof.Machine.execCbar a s
  | .carr d a => Sys2Proof.Machine.execCarr d a s
  | .cwait a b => Sys2Proof.Machine.execCwait a b s
  | .waitf c wide a b => Sys2Proof.Machine.execWaitf c wide a b s
  | .waitt a => Sys2Proof.Machine.execWaitt a s
  | .fence k sc => Sys2Proof.Machine.execFence k sc s
  | .csrr d csr => Sys2Proof.Machine.execCsrr d csr s
  | .csrw csr a => Sys2Proof.Machine.execCsrw csr a s
  | .csrx d csr a => Sys2Proof.Machine.execCsrx d csr a s
  | .trap n => Sys2Proof.Machine.execTrap n s
  | .ovtld a b => Sys2Proof.Machine.execOvtld a b s
  | .ropen d a b => Sys2Proof.Machine.execRopen d a b s
  | .rprep d a => Sys2Proof.Machine.execRprep d a s
  | .rcmt d a => Sys2Proof.Machine.execRcmt d a s
  | .rstat d a b => Sys2Proof.Machine.execRstat d a b s
  | .rrevoke d a b => Sys2Proof.Machine.execRrevoke d a b s
  | .protr d a b k => Sys2Proof.Machine.execProtr d a b k s
  | .vadd w t d a b p => Sys2Proof.Machine.execVadd w t d a b p s
  | .vsub w t d a b p => Sys2Proof.Machine.execVsub w t d a b p s
  | .vmul w t d a b p => Sys2Proof.Machine.execVmul w t d a b p s
  | .vfma w t d a b c p => Sys2Proof.Machine.execVfma w t d a b c p s
  | .vfms w t d a b c p => Sys2Proof.Machine.execVfms w t d a b c p s
  | .vmin w t d a b p => Sys2Proof.Machine.execVmin w t d a b p s
  | .vmax w t d a b p => Sys2Proof.Machine.execVmax w t d a b p s
  | .vabs w t d a p => Sys2Proof.Machine.execVabs w t d a p s
  | .vneg w t d a p => Sys2Proof.Machine.execVneg w t d a p s
  | .vrnd w t md d a p => Sys2Proof.Machine.execVrnd w t md d a p s
  | .vcmp w t c d a b p => Sys2Proof.Machine.execVcmp w t c d a b p s
  | .vsel w t d a b p => Sys2Proof.Machine.execVsel w t d a b p s
  | .pand d a b => Sys2Proof.Machine.execPand d a b s
  | .por d a b => Sys2Proof.Machine.execPor d a b s
  | .pxor d a b => Sys2Proof.Machine.execPxor d a b s
  | .pnot d a => Sys2Proof.Machine.execPnot d a s
  | .pcnt d a => Sys2Proof.Machine.execPcnt d a s
  | .viadd w t sat d a b p => Sys2Proof.Machine.execViadd w t sat d a b p s
  | .visub w t sat d a b p => Sys2Proof.Machine.execVisub w t sat d a b p s
  | .vimul w t sat d a b p => Sys2Proof.Machine.execVimul w t sat d a b p s
  | .vimad w t sat d a b c p => Sys2Proof.Machine.execVimad w t sat d a b c p s
  | .vshl w t d a b p => Sys2Proof.Machine.execVshl w t d a b p s
  | .vshr w t d a b p => Sys2Proof.Machine.execVshr w t d a b p s
  | .vsha w t d a b p => Sys2Proof.Machine.execVsha w t d a b p s
  | .vand w t d a b p => Sys2Proof.Machine.execVand w t d a b p s
  | .vor w t d a b p => Sys2Proof.Machine.execVor w t d a b p s
  | .vxor w t d a b p => Sys2Proof.Machine.execVxor w t d a b p s
  | .vimin w t d a b p => Sys2Proof.Machine.execVimin w t d a b p s
  | .vimax w t d a b p => Sys2Proof.Machine.execVimax w t d a b p s
  | .vexp2 w t d a p => Sys2Proof.Machine.execVexp2 w t d a p s
  | .vlog2 w t d a p => Sys2Proof.Machine.execVlog2 w t d a p s
  | .vrcp w t d a p => Sys2Proof.Machine.execVrcp w t d a p s
  | .vrsq w t d a p => Sys2Proof.Machine.execVrsq w t d a p s
  | .vtanh w t d a p => Sys2Proof.Machine.execVtanh w t d a p s
  | .vcvt w k md sat d a p => Sys2Proof.Machine.execVcvt w k md sat d a p s
  | .vpacksx w r f md sat d a p => Sys2Proof.Machine.execVpacksx w r f md sat d a p s
  | .vunpk w r f d a => Sys2Proof.Machine.execVunpk w r f d a s
  | .vperm w t d a b => Sys2Proof.Machine.execVperm w t d a b s
  | .vbcast w t d a p => Sys2Proof.Machine.execVbcast w t d a p s
  | .vmovsExtract w t d a lane => Sys2Proof.Machine.execVmovsExtract w t d a lane s
  | .vmovsInsert w t d a lane => Sys2Proof.Machine.execVmovsInsert w t d a lane s
  | .vmovv w d a p => Sys2Proof.Machine.execVmovv w d a p s
  | .viota w t d a p => Sys2Proof.Machine.execViota w t d a p s
  | .vreds w t op d a p => Sys2Proof.Machine.execVreds w t op d a p s
  | .skqin w t d a p => Sys2Proof.Machine.execSkqin w t d a p s
  | .skhin w wide d a p => Sys2Proof.Machine.execSkhin w wide d a p s
  | .skdin w wide d a p => Sys2Proof.Machine.execSkdin w wide d a p s
  | .skmrg d a => Sys2Proof.Machine.execSkmrg d a s
  | .skqry d a b => Sys2Proof.Machine.execSkqry d a b s
  | .skrnk d a b => Sys2Proof.Machine.execSkrnk d a b s
  | .skest d c a b => Sys2Proof.Machine.execSkest d c a b s
  | .sktop d c a b => Sys2Proof.Machine.execSktop d c a b s
  | .skclr k d => Sys2Proof.Machine.execSkclr k d s
  | .mma k mt ga gb fa fb klen => Sys2Proof.Machine.execMma k mt ga gb fa fb klen s
  | .mmag k mt ga gb fa fb klen sa => Sys2Proof.Machine.execMmag k mt ga gb fa fb klen sa s
  | .mzero mt => Sys2Proof.Machine.execMzero mt s
  | .mdrainScratchpad k mt sa sb fa ea eb cl ec => Sys2Proof.Machine.execMdrainScratchpad k mt sa sb fa ea eb cl ec s
  | .mdrainGeneric k mt sa sb fa ea eb cl ec => Sys2Proof.Machine.execMdrainGeneric k mt sa sb fa ea eb cl ec s
  | .mldaccScratchpad k mt sa sb => Sys2Proof.Machine.execMldaccScratchpad k mt sa sb s
  | .mldaccGeneric k mt sa sb => Sys2Proof.Machine.execMldaccGeneric k mt sa sb s
  | .mrcfg ga sa sb => Sys2Proof.Machine.execMrcfg ga sa sb s
  | .mrpush ga sa => Sys2Proof.Machine.execMrpush ga sa s
  | .mrpop ga => Sys2Proof.Machine.execMrpop ga s
  | .mkat n => Sys2Proof.Machine.execMkat n s
  | .mkcmp n const => Sys2Proof.Machine.execMkcmp n const s
  | .mwait mask => Sys2Proof.Machine.execMwait mask s
  | .spld k w d a off => Sys2Proof.Machine.execSpld k w d a off s
  | .spst k w d a off => Sys2Proof.Machine.execSpst k w d a off s
  | .splds k d a off => Sys2Proof.Machine.execSplds k d a off s
  | .spldp k w d a p off => Sys2Proof.Machine.execSpldp k w d a p off s
  | .spstp k w d a p off => Sys2Proof.Machine.execSpstp k w d a p off s
  | .skld d a off => Sys2Proof.Machine.execSkld d a off s
  | .skst d a off => Sys2Proof.Machine.execSkst d a off s
  | .spfill k a off => Sys2Proof.Machine.execSpfill k a off s
  | .spmap n d a => Sys2Proof.Machine.execSpmap n d a s
  | .spsyncOne n => Sys2Proof.Machine.execSpsyncOne n s
  | .spadd k t w d a off => Sys2Proof.Machine.execSpadd k t w d a off s
  | .cpy k t a => Sys2Proof.Machine.execCpy k t a s
  | .cpyr k t a g => Sys2Proof.Machine.execCpyr k t a g s
  | .gath k t a => Sys2Proof.Machine.execGath k t a s
  | .scat k t a => Sys2Proof.Machine.execScat k t a s
  | .rld k sx w t a d off => Sys2Proof.Machine.execRld k sx w t a d off s
  | .rst k w t a b off => Sys2Proof.Machine.execRst k w t a b off s
  | .rldt k w a d off => Sys2Proof.Machine.execRldt k w a d off s
  | .amo k op wide t a b c d off => Sys2Proof.Machine.execAmo k op wide t a b c d off s
  | .amoRsc k t a b c d off => Sys2Proof.Machine.execAmoRsc k t a b c d off s
  | .skamo kind t a b off => Sys2Proof.Machine.execSkamo kind t a b off s
  | .cld t a b d off => Sys2Proof.Machine.execCld t a b d off s
  | .cst t a b c d off => Sys2Proof.Machine.execCst t a b c d off s
  | .crcn op t a b d off => Sys2Proof.Machine.execCrcn op t a b d off s
  | .mcast idx t a b => Sys2Proof.Machine.execMcast idx t a b s
  | .coll t a => Sys2Proof.Machine.execColl t a s
  | .pfetch k a off => Sys2Proof.Machine.execPfetch k a off s
  | .pureRepeat rep stop => Sys2Proof.Machine.execPureRepeat rep stop s
  | .brk low => Sys2Proof.Machine.execBrk low s
  | .timedLoadDataArrival ctx idx => Sys2Proof.Machine.execTimedLoadDataArrival ctx idx s
  | .knownAnswerSweepComplete cluster passed => Sys2Proof.Machine.execKnownAnswerSweepComplete cluster passed s
  | .nrptrHeadWrite head => Sys2Proof.Machine.execNrptrHeadWrite head s
  | .pageFaultRingHeadWrite die head => Sys2Proof.Machine.execPageFaultRingHeadWrite die head s
  | .rdmaRequestArrival asid req => Sys2Proof.Machine.execRdmaRequestArrival asid req s
  | .colspillWrite v => Sys2Proof.Machine.execColspillWrite v s
  | .powerOn => Sys2Proof.Machine.execPowerOn s
  | .coldResetRequest => Sys2Proof.Machine.execColdResetRequest s
  | .warmReset => Sys2Proof.Machine.execWarmReset s
  | .powerFaultClear => Sys2Proof.Machine.execPowerFaultClear s
  | .powerUpRequest => Sys2Proof.Machine.execPowerUpRequest s
  | .shutdownHoldExpiry => Sys2Proof.Machine.execShutdownHoldExpiry s
  | .telemetryRead => Sys2Proof.Machine.execTelemetryRead s
  | .eventLogRead => Sys2Proof.Machine.execEventLogRead s
  | .releaseRequest => Sys2Proof.Machine.execReleaseRequest s
  | .assign => Sys2Proof.Machine.execAssign s
  | .release => Sys2Proof.Machine.execRelease s
  | .tenancyBoundOverrun => Sys2Proof.Machine.execTenancyBoundOverrun s
  | .mccmdComplete => Sys2Proof.Machine.execMccmdComplete s
  | .biTimeout => Sys2Proof.Machine.execBiTimeout s
  | .hostLinkDown => Sys2Proof.Machine.execHostLinkDown s
  | .poolLinkDown => Sys2Proof.Machine.execPoolLinkDown s
  | .queueStop => Sys2Proof.Machine.execQueueStop s
  | .queueResume => Sys2Proof.Machine.execQueueResume s
  | .queueDiscard => Sys2Proof.Machine.execQueueDiscard s
  | .commandTake => Sys2Proof.Machine.execCommandTake s
  | .waitSatisfied => Sys2Proof.Machine.execWaitSatisfied s
  | .replayDone => Sys2Proof.Machine.execReplayDone s
  | .launchPlace => Sys2Proof.Machine.execLaunchPlace s
  | .contextSave => Sys2Proof.Machine.execContextSave s
  | .shadowPlace => Sys2Proof.Machine.execShadowPlace s
  | .bankSwitch => Sys2Proof.Machine.execBankSwitch s
  | .bankExchangeComplete => Sys2Proof.Machine.execBankExchangeComplete s
  | .threadEnd => Sys2Proof.Machine.execThreadEnd s
  | .emptyIssue => Sys2Proof.Machine.execEmptyIssue s
  | .landing => Sys2Proof.Machine.execLanding s
  | .c1RequestStart => Sys2Proof.Machine.execC1RequestStart s
  | .mExecute => Sys2Proof.Machine.execMExecute s
  | .mRetire => Sys2Proof.Machine.execMRetire s
  | .sliceEnter => Sys2Proof.Machine.execSliceEnter s
  | .sliceRetire => Sys2Proof.Machine.execSliceRetire s
  | .katPatternDone => Sys2Proof.Machine.execKatPatternDone s
  | .trapEntry => Sys2Proof.Machine.execTrapEntry s
  | .interrupt => Sys2Proof.Machine.execInterrupt s
  | .stepTrap => Sys2Proof.Machine.execStepTrap s
  | .waitStall => Sys2Proof.Machine.execWaitStall s
  | .regionWriteback => Sys2Proof.Machine.execRegionWriteback s
  | .invalidateComplete => Sys2Proof.Machine.execInvalidateComplete s
  | .migrationComplete => Sys2Proof.Machine.execMigrationComplete s
  | .pinComplete => Sys2Proof.Machine.execPinComplete s
  | .create => Sys2Proof.Machine.execCreate s
  | .createTimeout => Sys2Proof.Machine.execCreateTimeout s
  | .dissolve => Sys2Proof.Machine.execDissolve s
  | .admitTimeout => Sys2Proof.Machine.execAdmitTimeout s
  | .heartbeat => Sys2Proof.Machine.execHeartbeat s
  | .voteTimeout => Sys2Proof.Machine.execVoteTimeout s
  | .rcmtTimeout => Sys2Proof.Machine.execRcmtTimeout s
  | .roundAnswer => Sys2Proof.Machine.execRoundAnswer s
  | .nop => Sys2Proof.Machine.execNop s
  | .lexit => Sys2Proof.Machine.execLexit s
  | .trig => Sys2Proof.Machine.execTrig s
  | .yield => Sys2Proof.Machine.execYield s
  | .halt => Sys2Proof.Machine.execHalt s
  | .eret => Sys2Proof.Machine.execEret s
  | .ovtldRst => Sys2Proof.Machine.execOvtldRst s
  | .spsyncAll => Sys2Proof.Machine.execSpsyncAll s
  | .qfence => Sys2Proof.Machine.execQfence s
  | .vin48Falling => Sys2Proof.Machine.execVin48Falling s

end Sys2Proof.Machine
end

