-- ==== Sys2Proof/Machine/Inputs.lean ====
section
/-!
DEFINITION. The inputs from outside that are no row of the opcode table: errors of memory (R13, R62), peers that refuse encryption (R26), link
acknowledgements (R51), scale-out ports (R53), reads of registers (R112), the lines that L1s evict (R212), and copies of a triple issue that disagree (R200).
-/

namespace Sys2Proof.Machine

/-- What an input does. -/
def Module.takeInput (m : Module) (x : Input) : Module :=
  match x with
  | .memError half corrected => m.memError half corrected
  | .poolError half => m.poolError half
  | .peerRefuses n refuses => if n < 36 then m.peerRefuses n refuses else m
  | .linkAck n seq => m.linkAck n seq
  | .ethernet port up => m.ethernet port up
  | .l1Evict core line => m.l1Evict core line
  | .regRead r => m.registerRead r
  | .blockAccess who groups off write => m.blockAccess who groups off write
  | .siloOnly x write => m.siloOnly x write
  | .upset core slot all =>
    if core < 1024 ∧ slot < 3 then m.modCore core fun c => { c with upsets := (slot, all) :: c.upsets.filter fun u => u.1 != slot } else m

end Sys2Proof.Machine
end

