-- ==== Sys2Proof/Machine/Issue.lean ====
section
/-!
DEFINITION. Bundle issue, and what acts next when the agenda is empty (log entry 1): a trap that is due, a bundle of the focused context, else
an event of the machine's own, else the next context. Rules R176 to R198, R319 and R504.
-/

namespace Sys2Proof.Machine

/-! ## The operations of a bundle (R176, R319) -/

/-- One operation of an issue: TOKEN_ARMED, else a re-issue, else the operation's own meaning. -/
def Part.run (p : Part) (s : State) : Out :=
  if s.now.th.tokenArmed p then .next (s.faultHdr Cause.tokenArmed)
  else if p.re then .next (s.reissue p.slot)
  else exec p.op s

/-- The operations of an issue in slot order, until one withdraws or holds the issue. -/
def runParts : List Part → State → Out
  | [], s => .next s
  | p :: ps, s =>
    if s.pre.isNone then .next s
    else match p.run s with
      | .next t => runParts ps t
      | .fault r => .fault r
      | .refused r => .refused r

/-- The short-class registers that an operation writes (R178). -/
def Part.shorts (p : Part) : List Reg :=
  let o := operands p.op
  if o.cls = .short then o.writes.filter fun r => !r.free else []

/-- The sequencer after an issue: run masks, the end of the run, and the repeat count (R177, R178, R194). The exec of PURE_REPEAT counts its own
issue. -/
def Sequencer.afterIssue (u : Sequencer) (b : Bundle) (ps : List Part) (user : Bool) : Sequencer :=
  let u1 := if b.kind = 1 then u else u.countIssue b.rep b.stop
  { u1 with mask := if b.stop then [] else ps.flatMap Part.shorts ++ u.mask, stepped := u.stepped || user, waitFrom := none, cwait := none, pf := .none }

/-- The thread after an issue whose operations are done: where issue continues (R194 to R196). -/
def Thread.goesOn (t : Thread) (b : Bundle) (ps : List Part) (user : Bool) : Thread :=
  let u := t.u.afterIssue b ps user
  match u.rep, t.next with
  | some _, _ => { t with u := u, next := none }
  | none, some a => { t with u := u, pc := a, next := none }
  | none, none =>
    let (ls, a) := stepLoops u.loops (t.after b).toNat
    { t with u := { u with loops := ls }, pc := BitVec.ofNat 64 a, next := none }

/-- What a HALT of the bundle does at the end of its issue: nothing stays armed, and the landing entries are discarded (R375). -/
def Thread.stopsHere (t : Thread) : Thread := t.disarmAll.modU fun u => { u with land := [] }

/-- The thread after an issue whose operations are done. -/
def Thread.afterIssue (t : Thread) (b : Bundle) (ps : List Part) (user : Bool) : Thread :=
  let t1 := t.goesOn b ps user
  if t.status = .halting then t1.stopsHere else t1

/-- Ends an issue. After ERET the restored sequencer stands, and issue continues at EPC; an ERET whose handler has landings left stays at its bundle
(R482). A bundle with a T bit takes two cycles (R200). -/
def State.endIssue (s : State) (b : Bundle) (ps : List Part) : State :=
  match s.pre with
  | none => s
  | some m0 =>
    let user := !m0.th.system
    let m1 := s.now.modTh fun t =>
      if t.u.returning then t
      else if m0.th.trapped && !t.trapped then { t with pc := t.next.getD t.pc, next := none }
      else t.afterIssue b ps user
    ⟨m1.pass (if b.ops.any fun o => o.triple then 2 else 1), none⟩

/-! ## Issue -/

/-- What trying to issue comes to: the step is made, or the bundle is held and only what the hold itself does has happened. -/
inductive Issued where
  | done (o : Out)
  | held (m : Module)

/-- A state in which an issue was withdrawn or held: a trap changes TRAPPED or ends the launch, a hold does neither. -/
def Module.stopped (m : Module) (s : State) : Issued :=
  if s.now.th.trapped = m.th.trapped ∧ s.now.th.status = m.th.status then .held s.now else .done (.next ⟨s.now, none⟩)

/-- The order in which the operations of an issue run: an ERET that can fault no more returns after the others, which issue at its handler's level
(R482). -/
def Thread.inOrder (t : Thread) (ps : List Part) : List Part :=
  if t.system && t.csr.epc.toNat % 4 == 0 then (ps.filter fun p => decide (p.op ≠ .eret)) ++ ps.filter fun p => decide (p.op = .eret) else ps

/-! ## Triple issue (R200) -/

/-- The disagreements that the triple issues of a bundle meet. -/
def disagreements (b : Bundle) (l : List (Nat × Bool)) : List (Nat × Bool) := l.filter fun u => b.ops.any fun o => o.triple && o.slot == u.1

/-- Whether a bundle's triple issue ends in TMR_DIVERGE at the bundle: all three copies of a short-class operation differ. -/
def bundleDiverges (b : Bundle) (l : List (Nat × Bool)) : Bool :=
  l.any fun u => u.2 && b.ops.any fun o => o.triple && o.slot == u.1 && decide ((operands o.op).cls ≠ .long)

/-- TMRCNT counts a corrected disagreement, and stops at its maximum. -/
def Csrs.countUpset (c : Csrs) : Csrs := { c with tmrcnt := if c.tmrcnt.toNat < 0xFFFFFFFF then c.tmrcnt + 1 else c.tmrcnt }

/-- How many landing entries the operations of an issue have taken after that of a slot. -/
def landedAfter (ps : List Part) (slot : Nat) : Nat :=
  (ps.filter fun p => decide (slot < p.slot) && decide ((operands p.op).cls = .long)).length

/-- What one disagreement does to a thread whose bundle has issued: a count, or a fault in the landing entry that its slot has just taken. -/
def Thread.upset (ps : List Part) (t : Thread) (u : Nat × Bool) : Thread :=
  if u.2 then t.modU fun q => { q with land := (modifyAt (fun e : Landing => { e with fault := some ⟨Cause.tmrDiverge, 0, 0, .L⟩ })
    (landedAfter ps u.1) q.land.reverse).reverse }
  else t.modC Csrs.countUpset

/-- The disagreements of a bundle have been met. -/
def Module.dropUpsets (m : Module) (us : List (Nat × Bool)) : Module :=
  m.modCore (coreOf m.focus) fun k => { k with upsets := k.upsets.filter fun u => !us.contains u }

/-- The disagreements of a bundle that has issued take their effect. -/
def Module.metUpsets (m : Module) (ps : List Part) (us : List (Nat × Bool)) : Module :=
  if us = [] then m else (m.dropUpsets us).modTh fun t => us.foldl (Thread.upset ps) t

/-- Issues a decoded bundle of the focused context: an empty issue where landing entries are wanting, else the checks of R319 steps 7 to 9,
the stalls of R188 and R190, and its operations. The syllables that its first issue presents disarm their slots; they stay armed where the bundle
issues nothing, but for a bundle that waits for the token of the operation it replaces (R193, log entry 70). -/
def Module.issueBundle (m : Module) (b : Bundle) : Issued :=
  let first := m.th.u.rep.isNone
  let hdr : Word32 := BitVec.ofNat 32 b.header
  let disarm := fun t : Thread => if first then t.disarmPresented b.ops else t
  let s0 := (m.begin hdr (m.th.after b)).landing
  if s0.pre.isNone then m.stopped s0
  else
    let t0 := s0.now.th
    let ps := t0.parts b.ops first
    let s := s0.upd disarm
    let t := s.now.th
    let tried := t.tried ps
    let us := disagreements b (m.core (coreOf m.focus)).upsets
    if t.landFull ps then m.stopped (m.emptyIssue hdr (m.th.after b))
    else if runDependent t.u.mask ps [] then .done (.next (s.faultHdr Cause.runDependence))
    else if t.windowRead ps then .done (.next (s.faultHdr Cause.windowRead))
    else if tried.any (Part.stalls t) || !t.room tried then m.stopped (s.hold fun t => t)
    else if tried.any (Part.stalls t0) then .held ((m.modTh disarm).pass 1)
    else if bundleDiverges b us then .done (.next ⟨(m.dropUpsets us).diverge (coreOf m.focus), none⟩)
    else match runParts (t.inOrder ps) s with
      | .next s1 => if s1.pre.isNone then m.stopped s1 else .done (.next ((s1.endIssue b ps).on fun m => m.metUpsets ps us))
      | .fault r => .done (.fault r)
      | .refused r => .done (.refused r)

/-- An ERET that has issued, at the focused context: an empty issue while the handler has landings left, else the return (R482). -/
def Module.finishReturn (m : Module) : Issued :=
  if m.th.u.land.isEmpty then .done (.next ⟨m.modTh fun t => let r := t.goBack; { r with pc := r.next.getD r.pc, next := none }, none⟩)
  else m.stopped (m.emptyIssue m.th.u.ir.header m.th.u.ir.after)

/-- Code that cannot be read yet: the thread waits for Meadow, whose answer that there is no page is a precise fault, or for a snoop (R198, R215,
R319). -/
def Module.fetchStop (m : Module) (st : Stop) : Issued :=
  let cx := m.focus
  match m.th.u.pf.cause with
  | some c => .done (.next ⟨m.takeTrap cx ⟨c, 0, BitVec.ofNat 64 (st.pageAt.getD m.th.pc.toNat), .P⟩, none⟩)
  | none =>
    let (w, m1) := m.askStop (m.codeAcc cx) .fetch st
    .held ((m1.modTh fun t => t.modU fun u => { u with pf := w }).pass 1)

/-- The wait that a CBAR set for the next bundle, ended where its phase is complete (R369); none where it still holds. -/
def Module.passCbar (m : Module) : Option Module :=
  match m.th.u.crewWait with
  | none => some m
  | some (h, x) => if (m.crew h).done x then some (m.waitEnds m.focus h x) else none

/-- The focused context tries to issue its next bundle. A fault or late data of a due landing comes first (R185). -/
def Module.issue (m : Module) : Issued :=
  if m.th.u.returning then m.finishReturn
  else match m.passCbar with
  | none => .held ((match m.th.u.crewWait with | some (h, _) => m.crewCheck h | none => m).pass 1)
  | some m0 =>
    let s0 := (⟨m0, some m0⟩ : State).landing
    if s0.pre.isNone then m0.stopped s0
    else match m0.fetch m0.focus with
      | (.stop st, m1) => m1.fetchStop st
      | (.fault c d, m1) => .done (.next ⟨m1.takeTrap m1.focus ⟨c, 0, d, .P⟩, none⟩)
      | (.bundle b, m1) => m1.issueBundle b

/-! ## What acts next (log entry 1) -/

/-- Whether a term of `Instr` is an event and no operation of a bundle. -/
def isEvent (i : Instr) : Bool :=
  match i with
  | .pureRepeat _ _ => false
  | .brk _ => false
  | i => (syllable i).isNone

/-- The memory commands of the queue in focus that move bytes between HBM and the pool alone: no port has to answer for them. -/
def Module.ownCommands (m : Module) : List Instr :=
  let q := m.qfocus % 64
  let inside := fun a : Word64 => fld a.toNat 62 2 != 1
  ((m.queue q).mems.filter fun c => decide (c.mop < 2) && (c.mop == 1 || inside c.src) && inside c.dst).map fun c => Instr.memoryComplete (BitVec.ofNat 6 q) c.id 0 []

/-- The landing entries of a thread and of its trap frame, as events number them, those of a thread that comes to rest by their remaining counts. -/
def Thread.landOrder (t : Thread) : List Nat :=
  let all := t.u.land ++ (t.u.frame.map fun f => f.land).getD []
  let key := fun i : Nat => ((nth? i all).map Landing.rem).getD 0
  if t.pfStopped then sortBy (fun i j : Nat => decide (key i ≤ key j)) (range' 0 all.length) else range' 0 all.length

/-- What may come to an end in the queues of a context; on a thread that has stopped on a page fault in the order of R198: the landing queue, M,
C1, S. -/
def Thread.ownWork (t : Thread) (cx : Nat) : List Instr :=
  let upTo := fun n : Nat => range' 0 n
  let loads := (upTo t.x.sq.length).map (fun i => Instr.loadComplete cx i)
  let c1 := (upTo t.x.c1q.length).map (fun i => Instr.tokenWrite cx i) ++ (upTo t.x.c1q.length).map (fun i => Instr.homeOperation cx i) ++
    (upTo t.x.c1q.length).map (fun i => Instr.jobComplete cx i) ++ (upTo t.x.c1q.length).map (fun i => Instr.jobStart cx i) ++ [.c1RequestStart]
  let mx : List Instr := [.mRetire, .sliceRetire, .mExecute, .sliceEnter, .katPatternDone]
  let lands := t.landOrder.map (fun i => Instr.timedLoadDataArrival cx i)
  if t.pfStopped then lands ++ mx ++ c1 ++ loads else loads ++ c1 ++ mx ++ lands

/-- The events by which the machine goes on of its own accord, in the order in which they are tried: those of the focused context, then those of
the launch unit, the front end, the translation unit, and the group slot in focus, and the time limits that have passed. -/
def Module.ownEvents (m : Module) : List Instr :=
  let cx := m.focus
  let t := m.th
  t.b.fills.map (fun b => Instr.regionFillComplete cx b) ++ t.ownWork cx ++
    (if (m.stallDue cx).isSome || m.waitOver cx then [Instr.waitStall] else []) ++ [.regionWriteback, .threadEnd, .contextSave, .bankExchangeComplete, .bankSwitch, .launchPlace, .shadowPlace] ++
    m.lu.launches.map (fun l => Instr.launchRestore l.id) ++ m.lu.launches.map (fun l => Instr.triggerComplete l.id) ++
    (if m.fb.spilled.isEmpty && m.fb.heldChunks.isEmpty then [] else (range' 0 8).map (fun g => Instr.spillRefetch (coreOf cx) g)) ++
    m.ownCommands ++ [.waitSatisfied, .replayDone, .commandTake, .invalidateComplete, .pinComplete, .migrationComplete, .mccmdComplete, .roundAnswer,
      .createTimeout, .admitTimeout, .voteTimeout, .rcmtTimeout] ++ (if m.heartbeatDue m.gfocus then [Instr.heartbeat] else []) ++
    (m.fb.pending.map fun e => Instr.remoteTimeout e.1)

/-- The first event of a list that changes the module, performed. -/
def Module.firstChange (m : Module) : List Instr → Option Module
  | [] => none
  | i :: l => match exec i ⟨m, none⟩ with
    | .next s => if @decide (s.now = m) (withPtrEqDecEq s.now m fun _ => inferInstance) then m.firstChange l else some s.now
    | .fault _ => m.firstChange l
    | .refused _ => m.firstChange l

/-- The next context after one that holds a thread, round the list. -/
def Module.nextCtx (m : Module) : Nat :=
  let live := (m.cx.ctxs.filter fun e => decide (e.1 < 2048) && e.2.status != .empty).map (·.1)
  match firstWhere (fun c => decide (m.focus < c)) live with
  | some c => c
  | none => live.headD m.focus

/-- The turn of the focused context is over: a cycle passes, and the next context, group slot and queue are in focus. -/
def Module.rotate (m : Module) : Module :=
  { m.pass 1 with turn := 0, focus := m.nextCtx, gfocus := (m.gfocus + 1) % 8, qfocus := (m.qfocus + 1) % 64 }

/-- An event of the machine's own, else the next context. -/
def Module.goOn (m : Module) : Module := (m.firstChange m.ownEvents).getD m.rotate

/-- The trap that is due on the focused context, as the event that takes it, in the order of R504. -/
def Module.trapDue (m : Module) : Option Instr :=
  if !m.mayTrap m.focus then none
  else if m.th.heldA.isSome then some .trapEntry
  else if m.interruptDue m.focus then some .interrupt
  else if m.th.stepDue then some .stepTrap
  else if m.th.u.held.isEmpty then none
  else some .trapEntry

/-- The focused context issues where it may, else something else happens. -/
def Module.tryIssue (m : Module) : Out :=
  if m.mayIssue m.focus then (match m.issue with
    | .done o => o
    | .held m1 => .next ⟨m1.goOn, none⟩)
  else .next ⟨m.goOn, none⟩

/-- What happens next when the agenda is empty: a trap that is due, else an issue. So that no agent waits for ever on a context that goes on
issuing, every eighth time an event of the machine's own comes first, and the turn ends after 32. -/
def Module.schedule (m : Module) : Out :=
  match m.trapDue with
  | some i => exec i ⟨m, none⟩
  | none =>
    if m.turn ≥ 32 then .next ⟨m.rotate, none⟩
    else
      let m1 := { m with turn := m.turn + 1 }
      match (if m1.turn % 8 = 0 then m1.firstChange m1.ownEvents else none) with
      | some m2 => .next ⟨m2, none⟩
      | none => m1.tryIssue

/-- One item of the agenda. -/
def Module.perform (m : Module) (v : Move) : Out :=
  match v with
  | .event i => if isEvent i then exec i ⟨m, none⟩ else .next ⟨m, none⟩
  | .focus c => .next ⟨{ m with focus := c }, none⟩
  | .slot n => .next ⟨{ m with gfocus := n }, none⟩
  | .queue n => .next ⟨{ m with qfocus := n }, none⟩
  | .tick n => .next ⟨m.pass n, none⟩
  | .input x => .next ⟨m.takeInput x, none⟩

/-! ## Placing a bundle where the next fetch reads it -/

/-- A leaf that maps a 64 KiB page onto the frame at a physical address, for every use at either level. -/
def openLeaf (pa : Nat) : Leaf := ⟨2 ^ 63 + 2 ^ 62 + pa + 0xFC, 0, 65536, 0⟩

/-- Puts code bytes where the thread in context `cx` fetches next: its page and the one after it are mapped to the first frames of
memory. -/
def Module.putCode (m : Module) (cx : Nat) (bs : List Byte) : Module :=
  let t := m.ctx cx
  let die := dieOfCore (coreOf cx)
  let pc := t.pc.toNat % 2 ^ 52
  let page := pc / 65536 * 65536
  let m0 := { m with tr := { m.tr with tlb1 := [] } }
  let m1 := (m0.tlbPut die t.asid page (openLeaf 0)).tlbPut die t.asid (page + 65536) (openLeaf 65536)
  let h := pc % 65536 / 64
  let m2 := { m1 with mm := { m1.mm with hostHold := Tab.drop (fun x => x == h || x == h + 1) m1.mm.hostHold } }
  (m2.poke (pc % 65536) bs).clearPoison (64 * h) 128

/-- A sequencer and queues with nothing in progress, running at its program counter: what a fetch at a fresh bundle takes. -/
def Thread.fresh (t : Thread) : Thread :=
  { t with status := .running, next := none, pc := BitVec.ofNat 64 (t.pc.toNat % 2 ^ 52 / 4 * 4), u := Sequencer.clear,
           x := Thread.idle.x, b := { t.b with fills := [] } }

/-- Makes the focused context issue next, with code bytes at its program counter. -/
def Module.withCode (m : Module) (bs : List Byte) : Module :=
  let cx := m.focus % 2048
  let m0 := { m with agenda := [], focus := cx, turn := 0,
                     silo := { m.silo with powerFault := false, dieStop := Tab.set false m.silo.dieStop (dieOfCore (coreOf cx)) false } }
  let m1 := (m0.modCore (coreOf cx) fun k => { k with active := bankOf cx, primary := bankOf cx, exchange := false, frozen := false, frozenAt := 0, post := false }).modCtx cx
    Thread.fresh
  (m1.modLaunch (m1.ctx cx).launch fun l => { l with state := .running }).putCode cx bs

end Sys2Proof.Machine
end

