-- ==== Sys2Proof/Machine/Step.lean ====
section
/-!
DEFINITION. One step of the machine, and the state whose next step runs a given instruction.
-/

namespace Sys2Proof.Machine

/-- One step: the next item of the agenda, else what the machine does of its own accord (log entry 1). -/
def step (s : State) : Host.Outcome State Fault Refusal :=
  match s.now.agenda with
  | v :: l => { s.now with agenda := l }.perform v
  | [] => s.now.schedule

/-- `s` with an instruction where its next step fetches: its bits numbered from the first word's least significant bit, those above
`nbits` zero up to the longest bundle (log entry 30). -/
def State.withFetchWord (s : State) (nbits w : Nat) : State := ⟨s.now.withCode (tableBytes nbits w), none⟩

end Sys2Proof.Machine
end

