-- ==== Sys2Proof/Safety.lean ====
section
/-!
DEFINITION. The terms in which claims about the machine are stated: what an operation does, what it leaves as it was, and the canonical form
of memory.
-/

namespace Sys2Proof.Machine

/-! ## Reading a state -/

/-- A byte of HBM as the machine holds it. -/
def State.byte (s : State) (a : Nat) : Byte := Tab.get 0 s.now.mm.mem a

/-- A byte of the scratchpad of the thread in focus, as every unit but C0 reads it. -/
def State.spByte (s : State) (o : Nat) : Byte := Tab.get 0 s.now.th.r.sp o

/-- Lane `j` of `e` bits of a vector register. -/
def lane (v : VWord) (e j : Nat) : Nat := v.toNat / 2 ^ (j * e) % 2 ^ e

/-! ## What an operation does -/

/-- The instruction answers a next state, of which `P` holds. -/
def Does (i : Instr) (s : State) (P : State → Prop) : Prop := ∃ t, exec i s = .next t ∧ P t

/-! ## Frames -/

/-- Thread `u` is thread `t` but for the registers listed. -/
def Thread.keeps (ws : List Reg) (t u : Thread) : Prop :=
  (∀ n, Reg.s n ∉ ws → u.rdS n = t.rdS n) ∧ (∀ n, Reg.v n ∉ ws → u.rdV n = t.rdV n) ∧ (∀ n, Reg.p n ∉ ws → u.rdP n = t.rdP n) ∧
    (∀ n, Reg.q n ∉ ws → u.rdQ n = t.rdQ n) ∧ (∀ n, Reg.e n ∉ ws → u.rdE n = t.rdE n) ∧
    { u with r := { u.r with s := t.r.s, v := t.r.v, p := t.r.p, q := t.r.q, e := t.r.e } } = t

/-- Nothing outside the thread in focus has changed: no other context, no byte of memory, no queue, group, control register of the module, or
clock. -/
def State.sameOutside (s t : State) : Prop :=
  t.pre = s.pre ∧ t.now.focus = s.now.focus ∧ (∀ c, c ≠ s.now.focus → t.now.ctx c = s.now.ctx c) ∧ (∀ a, t.byte a = s.byte a) ∧
    { t.now with cx := { t.now.cx with ctxs := s.now.cx.ctxs } } = s.now

/-- Nothing outside context `c` has changed: no other context, no byte of memory, no queue, group, control register of the module, or clock. -/
def State.sameBut (c : Nat) (s t : State) : Prop :=
  t.pre = s.pre ∧ (∀ x, x ≠ c → t.now.ctx x = s.now.ctx x) ∧ (∀ a, t.byte a = s.byte a) ∧
    { t.now with cx := { t.now.cx with ctxs := s.now.cx.ctxs } } = s.now

/-- Nothing has changed but registers of the thread in focus that are listed. -/
def State.keeps (ws : List Reg) (s t : State) : Prop := s.sameOutside t ∧ s.now.th.keeps ws t.now.th

/-- Nothing has changed but the thread in focus, which is `f` of what it was. -/
def State.becomes (s : State) (f : Thread → Thread) (t : State) : Prop := s.sameOutside t ∧ t.now.th = f s.now.th

/-- Nothing has changed but the module, outside the contexts: every context is as it was. -/
def State.sameThreads (s t : State) : Prop := t.pre = s.pre ∧ ∀ c, t.now.ctx c = s.now.ctx c

/-- The operation writes a value to a scalar register and nothing else; s0 stays 0. -/
def WritesS (i : Instr) (s : State) (d : RegNo) (v : Word64) : Prop :=
  Does i s fun t => t.now.th.rdS d.toNat = (if d = 0 then 0 else v) ∧ s.keeps [.s d.toNat] t

/-- The operation writes a vector register and nothing else, with a value of which `P` holds. -/
def WritesV (i : Instr) (s : State) (d : RegNo) (P : VWord → Prop) : Prop :=
  Does i s fun t => P (t.now.th.rdV d.toNat) ∧ s.keeps [.v d.toNat] t

/-- The operation writes a predicate register and nothing else; p0 stays all ones. -/
def WritesP (i : Instr) (s : State) (d : BitVec 4) (P : PWord → Prop) : Prop :=
  Does i s fun t => (if d = 0 then t.now.th.rdP 0 = BitVec.allOnes 128 else P (t.now.th.rdP d.toNat)) ∧ s.keeps [.p d.toNat] t

/-- The operation writes a sketch accumulator and nothing else. -/
def WritesQ (i : Instr) (s : State) (d : BitVec 2) (v : Tab Byte) : Prop :=
  Does i s fun t => t.now.th.rdQ d.toNat = v ∧ s.keeps [.q d.toNat] t

/-- The operation takes a landing entry of the thread and changes nothing else: its result is written after `k` issues. -/
def Lands (i : Instr) (s : State) (ws : List (Reg × VWord)) (slot k : Nat) : Prop :=
  Does i s fun t => s.becomes (fun th => { th with u := { th.u with land := th.u.land ++ [⟨ws, k, slot, none, none, false⟩] } }) t

/-- The operation sends issue to an address, and changes nothing else. -/
def GoesTo (i : Instr) (s : State) (a : Nat) : Prop := Does i s (s.becomes fun th => { th with next := some (BitVec.ofNat 64 a) })

/-- The bundle is withdrawn, and a precise trap is taken with a cause and an EDATA. -/
def Traps (i : Instr) (s : State) (c : Cause) (datum : Word64) : Prop :=
  exec i s = .next ⟨s.back.takeTrap s.back.focus ⟨c, 0, datum, .P⟩, none⟩

/-! ## Lanes -/

/-- Lane `j` of `e` bits is active under a predicate: its lowest byte's bit is set. -/
def activeLane (p : PWord) (e j : Nat) : Prop := p.toNat.testBit (j * e / 8) = true

/-- A result of `n` lanes of `e` bits: `f` of the lane where it is active, the old value elsewhere, and zero above the lanes. -/
def LanesAre (n e : Nat) (p : PWord) (old : VWord) (f : Nat → Nat) (v : VWord) : Prop :=
  (∀ j, j < n → activeLane p e j → lane v e j = f j % 2 ^ e) ∧ (∀ j, j < n → ¬activeLane p e j → lane v e j = lane old e j) ∧ v.toNat < 2 ^ (n * e)

/-! ## Memory -/

/-- Memory is in its canonical form: addresses strictly rising, and no entry that holds what an unlisted address reads as. -/
abbrev Memory.wf (m : Memory) : Prop := Tab.wf 0 m.mem = true

/-- Memory is in canonical form now, and in the module that an interrupted bundle returns to. -/
def State.memoryWf (s : State) : Prop := s.now.mm.wf ∧ ∀ m, s.pre = some m → m.mm.wf

/-- No L1 that the access reads through holds a word of the range other than the home's. -/
def Module.freshAt (m : Module) (a : Acc) (pa n : Nat) : Prop :=
  a.l1 = true → ∀ x, m.l1Line (m.l1Of a.core pa) pa = some x → ∀ i, i < n → x.byte (pa + i) = none ∨ x.byte (pa + i) = some (Tab.get 0 m.mm.mem (pa + i))

/-- A read of `n` bytes at `va` reaches HBM at `pa` through leaf `e` of the translation unit, which permits it and is not VERSIONED; the bytes lie in
one half-line, which is not poisoned and not held by the host as modified, and no L1 on the way holds older words of it. -/
def Module.readsAt (m : Module) (a : Acc) (e : TlbEntry) (va n pa : Nat) : Prop :=
  m.leafHeld a.die a.cluster a.asid va = some e ∧ pa = leafPa e.w0.toNat e.size va ∧ permits e.w0.toNat .read a.user = true ∧ bit e.w0.toNat 60 = false ∧
    0 < n ∧ va % 64 = pa % 64 ∧ pa % 64 + n ≤ 64 ∧ isDevReg pa = false ∧ m.held (pa / 64) ≠ .M ∧ pa / 64 ∉ m.mm.poison ∧
    m.freshAt a pa n

/-- A read or write reaches plain HBM: the leaf also permits writes and is marked written already, the host does not hold the half-line, no
coding group is in force and the page is not being migrated. -/
def Module.plainAt (m : Module) (a : Acc) (va n pa : Nat) : Prop :=
  ∃ e, m.readsAt a e va n pa ∧ permits e.w0.toNat .write a.user = true ∧ bit e.w0.toNat 7 = true ∧ m.migrating a.asid va = false ∧
    m.held (pa / 64) = .I ∧ ∀ g, g < 8 → (m.group g).valid = false

end Sys2Proof.Machine
end

