-- ==== Sys2Proof/Certificates/Slice0/Obligations.lean ====
section
/-!
DEFINITION. The statements put to the provers, in the order of OBLIGATIONS.json.
-/

open Sys2Proof Sys2Proof.Machine

/-! ## Scalar arithmetic -/

/-- R348, R351, R352: the results of ADD, ADDI, SUB, MUL, MULH, AND, OR, XOR and ANDN, of MIN and MAX, of CMP, which writes 1 or 0, and of SEL, which takes
sB where sC is 0 and sA elsewhere, each written to the destination and nowhere else. -/
def Obligations.ScalarArithmeticAndCompares : Prop :=
  (∀ (s : State) (d a b : RegNo),
  WritesS (.add d a b) s d (BitVec.ofNat 64 ((s.rdS a).toNat + (s.rdS b).toNat)) ∧
  (∀ v : BitVec 12, WritesS (.addi d a (.short v)) s d (s.rdS a + v.signExtend 64)) ∧
  (∀ v : BitVec (12 + 32), WritesS (.addi d a (.long v)) s d (s.rdS a + v.signExtend 64)) ∧
  WritesS (.sub d a b) s d (BitVec.ofInt 64 ((s.rdS a).toNat - (s.rdS b).toNat)) ∧
  WritesS (.mul d a b) s d (BitVec.ofNat 64 ((s.rdS a).toNat * (s.rdS b).toNat)) ∧
  WritesS (.mulh false d a b) s d (((s.rdS a).signExtend 128 * (s.rdS b).signExtend 128).extractLsb' 64 64) ∧
  WritesS (.mulh true d a b) s d (((s.rdS a).zeroExtend 128 * (s.rdS b).zeroExtend 128).extractLsb' 64 64) ∧
  WritesS (.and d a b) s d (s.rdS a &&& s.rdS b) ∧ WritesS (.or d a b) s d (s.rdS a ||| s.rdS b) ∧
  WritesS (.xor d a b) s d (s.rdS a ^^^ s.rdS b) ∧ WritesS (.andn d a b) s d (s.rdS a &&& ~~~ s.rdS b)) ∧
  (∀ (s : State) (d a b c : RegNo),
  WritesS (.min false d a b) s d (if (s.rdS a).toInt < (s.rdS b).toInt then s.rdS a else s.rdS b) ∧
  WritesS (.min true d a b) s d (if (s.rdS a).toNat < (s.rdS b).toNat then s.rdS a else s.rdS b) ∧
  WritesS (.max false d a b) s d (if (s.rdS a).toInt < (s.rdS b).toInt then s.rdS b else s.rdS a) ∧
  WritesS (.max true d a b) s d (if (s.rdS a).toNat < (s.rdS b).toNat then s.rdS b else s.rdS a) ∧
  WritesS (.cmp .eq d a b) s d (if s.rdS a = s.rdS b then 1 else 0) ∧ WritesS (.cmp .ne d a b) s d (if s.rdS a = s.rdS b then 0 else 1) ∧
  WritesS (.cmp .lt d a b) s d (if (s.rdS a).toInt < (s.rdS b).toInt then 1 else 0) ∧
  WritesS (.cmp .le d a b) s d (if (s.rdS a).toInt ≤ (s.rdS b).toInt then 1 else 0) ∧
  WritesS (.cmp .nlt d a b) s d (if (s.rdS a).toNat < (s.rdS b).toNat then 1 else 0) ∧
  WritesS (.cmp .nle d a b) s d (if (s.rdS a).toNat ≤ (s.rdS b).toNat then 1 else 0) ∧
  WritesS (.sel d a b c) s d (if s.rdS c = 0 then s.rdS b else s.rdS a))

/-- R348, R350, R353, R354, R355: shifts take the whole register as count, a count of 64 or more giving zeros or copies of the sign; ROTL takes it modulo
64. CLZ and CTZ count zeros, 64 for an input of zero, and POPC ones. LI, MOV, SEXT, ZEXT, BFX, BFI and LEA: the field L of BFX and BFI holds the
length less one. -/
def Obligations.ScalarShiftsMovesAndFields : Prop :=
  (∀ (s : State) (d a b : RegNo) (n : BitVec 6),
  (∃ v, WritesS (.shlReg d a b) s d v ∧ ∀ i, v.getLsbD i = (decide (i < 64 ∧ (s.rdS b).toNat ≤ i) && (s.rdS a).getLsbD (i - (s.rdS b).toNat))) ∧
  (∃ v, WritesS (.shlImm d a n) s d v ∧ ∀ i, v.getLsbD i = (decide (i < 64 ∧ n.toNat ≤ i) && (s.rdS a).getLsbD (i - n.toNat))) ∧
  (∃ v, WritesS (.shrReg d a b) s d v ∧ ∀ i, v.getLsbD i = (s.rdS a).getLsbD (i + (s.rdS b).toNat)) ∧
  (∃ v, WritesS (.shrImm d a n) s d v ∧ ∀ i, v.getLsbD i = (s.rdS a).getLsbD (i + n.toNat)) ∧
  (∃ v, WritesS (.shaReg d a b) s d v ∧
    ∀ i, i < 64 → v.getLsbD i = if i + (s.rdS b).toNat < 64 then (s.rdS a).getLsbD (i + (s.rdS b).toNat) else (s.rdS a).getLsbD 63) ∧
  (∃ v, WritesS (.shaImm d a n) s d v ∧
    ∀ i, i < 64 → v.getLsbD i = if i + n.toNat < 64 then (s.rdS a).getLsbD (i + n.toNat) else (s.rdS a).getLsbD 63) ∧
  (∃ v, WritesS (.rotlReg d a b) s d v ∧ ∀ i, i < 64 → v.getLsbD i = (s.rdS a).getLsbD ((i + 64 - (s.rdS b).toNat % 64) % 64)) ∧
  (∃ v, WritesS (.rotlImm d a n) s d v ∧ ∀ i, i < 64 → v.getLsbD i = (s.rdS a).getLsbD ((i + 64 - n.toNat) % 64)) ∧
  (∃ n : Nat, WritesS (.clz d a) s d (BitVec.ofNat 64 n) ∧ n ≤ 64 ∧ (s.rdS a).toNat < 2 ^ (64 - n) ∧ (n < 64 → 2 ^ (63 - n) ≤ (s.rdS a).toNat)) ∧
  (∃ n : Nat, WritesS (.ctz d a) s d (BitVec.ofNat 64 n) ∧ n ≤ 64 ∧ (∀ i, i < n → (s.rdS a).getLsbD i = false) ∧
    (n < 64 → (s.rdS a).getLsbD n = true)) ∧
  WritesS (.popc d a) s d (BitVec.ofNat 64 ((List.range 64).countP fun i => (s.rdS a).getLsbD i))) ∧
  (∀ (s : State) (d a b : RegNo) (p l : BitVec 6) (n : BitVec 2),
  (∀ v : BitVec 12, WritesS (.li d (.short v)) s d (v.signExtend 64)) ∧ (∀ v : BitVec (12 + 32), WritesS (.li d (.long v)) s d (v.signExtend 64)) ∧
  WritesS (.mov d a) s d (s.rdS a) ∧
  (∀ w, ∃ v, WritesS (.sext w d a) s d v ∧
    ∀ i, i < 64 → v.getLsbD i = if i < extBits w then (s.rdS a).getLsbD i else (s.rdS a).getLsbD (extBits w - 1)) ∧
  (∀ w, ∃ v, WritesS (.zext w d a) s d v ∧ ∀ i, v.getLsbD i = (decide (i < extBits w) && (s.rdS a).getLsbD i)) ∧
  (∃ v, WritesS (.bfx d a p l) s d v ∧ ∀ i, v.getLsbD i = (decide (i ≤ l.toNat) && (s.rdS a).getLsbD (p.toNat + i))) ∧
  (p.toNat + l.toNat < 64 → ∃ v, WritesS (.bfi d a p l) s d v ∧ ∀ i, i < 64 → v.getLsbD i =
    if p.toNat ≤ i ∧ i ≤ p.toNat + l.toNat then (s.rdS a).getLsbD (i - p.toNat) else (s.rdS d).getLsbD i) ∧
  WritesS (.lea d a b n) s d (BitVec.ofNat 64 ((s.rdS a).toNat + (s.rdS b).toNat * 2 ^ n.toNat)))


/-- R349: DIV and REM land 24 issues later: a divisor of 0 gives all ones and the dividend, −2^63 / −1 gives −2^63 and 0, and any other pair
the quotient truncated toward zero and its remainder; s0 as destination lands nothing. -/
def Obligations.DivisionLandings : Prop := ∀ (s : State) (nat : Bool) (d a b : RegNo),
  let ws (v : Word64) : List (Reg × VWord) := if d = 0 then [] else [(.s d.toNat, v.setWidth 1024)]
  ∃ q r : Word64,
    Lands (.div nat d a b) s (ws q) 0 24 ∧ Lands (.rem nat d a b) s (ws r) 0 24 ∧
    (s.rdS b = 0 → q = BitVec.allOnes 64 ∧ r = s.rdS a) ∧
    (s.rdS b ≠ 0 → nat = true → q.toNat = (s.rdS a).toNat / (s.rdS b).toNat ∧ r.toNat = (s.rdS a).toNat % (s.rdS b).toNat) ∧
    (s.rdS b ≠ 0 → nat = false → (s.rdS a).toInt = -2 ^ 63 → (s.rdS b).toInt = -1 → q = s.rdS a ∧ r = 0) ∧
    (s.rdS b ≠ 0 → nat = false → ((s.rdS a).toInt ≠ -2 ^ 63 ∨ (s.rdS b).toInt ≠ -1) →
      q.toInt = (s.rdS a).toInt.tdiv (s.rdS b).toInt ∧ r.toInt = (s.rdS a).toInt.tmod (s.rdS b).toInt)

/-- R356, R357: CVTA between a region's global range and its scratchpad window, all ones where the input is not convertible; ISAP. -/
def Obligations.AddressConversion : Prop := ∀ (s : State) (d a b : RegNo),
  (∀ dir : BitVec 2, ∃ v, WritesS (.cvta d a b dir) s d v) ∧
  (∀ n w, s.src.th.mapOfVa (s.rdS a).toNat = some (n, w) → (s.rdS a).toNat < 2 ^ 52 →
    WritesS (.cvta d a b 0) s d (BitVec.ofNat 64 (2 ^ 60 + mapSp w * 4096 + ((s.rdS a).toNat - mapGva w)))) ∧
  (s.src.th.mapOfVa (s.rdS a).toNat = none → WritesS (.cvta d a b 0) s d (BitVec.allOnes 64)) ∧
  (2 ^ 52 ≤ (s.rdS a).toNat → WritesS (.cvta d a b 0) s d (BitVec.allOnes 64)) ∧
  (∀ o n w, o < 2 ^ 20 → (s.rdS a).toNat = 2 ^ 60 + o → s.src.th.mapOfOffset o = some (n, w) →
    WritesS (.cvta d a b 1) s d (BitVec.ofNat 64 (mapGva w + (o - mapSp w * 4096)))) ∧
  (∀ o, o < 2 ^ 20 → (s.rdS a).toNat = 2 ^ 60 + o → s.src.th.mapOfOffset o = none → WritesS (.cvta d a b 1) s d (BitVec.allOnes 64)) ∧
  (∀ o k, o < 2 ^ 20 → k < 8 → (s.rdS a).toNat = 2 ^ 60 + o → (s.rdS b).toNat = k →
    WritesS (.cvta d a b 2) s d (BitVec.ofNat 64 (2 ^ 61 + k * 2 ^ 20 + o))) ∧
  (∀ o, o < 2 ^ 20 → (s.rdS a).toNat = 2 ^ 61 + coreOf s.src.focus % 8 * 2 ^ 20 + o → WritesS (.cvta d a b 3) s d (BitVec.ofNat 64 (2 ^ 60 + o))) ∧
  (∀ ap : BitVec 4, ∃ v, WritesS (.isap d a ap) s d v ∧ (v = 0 ∨ v = 1) ∧ (v = 1 → (s.rdS a).toNat / 2 ^ 60 = ap.toNat)) ∧
  (∀ x, x < 2 ^ 52 → (s.rdS a).toNat = x → WritesS (.isap d a 0) s d 1)

/-- R358, R359: LD and ST enter the S queue with their address, base plus offset times width; LD makes its destination pending. -/
def Obligations.LoadStoreEntersQueue : Prop := ∀ (s : State) (sx : Bool) (w : BitVec 2) (d a : RegNo) (off : BitVec 9),
  Does (.ld sx w d a (.short off)) s (s.becomes fun th =>
    { (th.addPend d.toNat) with
      u := { (th.addPend d.toNat).u with serial := th.u.serial + 1 }
      x := { th.x with sq := th.x.sq ++ [⟨.load sx d.toNat, 2 ^ w.toNat, s.rdS a + off.signExtend 64 * BitVec.ofNat 64 (2 ^ w.toNat), .none,
        !s.src.th.system, none, th.u.serial⟩] } }) ∧
  Does (.st w d a (.short off)) s (s.becomes fun th =>
    { th with
      u := { th.u with serial := th.u.serial + 1 }
      x := { th.x with sq := th.x.sq ++ [⟨.store (s.rdS d), 2 ^ w.toNat, s.rdS a + off.signExtend 64 * BitVec.ofNat 64 (2 ^ w.toNat), .none,
        !s.src.th.system, none, th.u.serial⟩] } })


/-! ## Encodings -/

/-- Chapter 11: for every well-formed operation at every value of its operands, the decoder reads it back from its bundle, whole: no bit of an
encoding is dropped, and the bundle is as long as its bytes. -/
def Obligations.DecodeOfEncode : Prop := ∀ i : Instr, wellFormed i = true → isEvent i = false →
  ∃ b, decodeBundle (encode i) = .ok b ∧ b.ops.map (·.op) = [i] ∧ b.len = (encode i).length

/-- R317, R320: whatever the bytes, an operation that the decoder accepts is a well-formed operation of a bundle, and it stands in a slot of its own.
-/
def Obligations.DecodedIsWellFormed : Prop := ∀ (bs : List Byte) (b : Bundle), decodeBundle bs = .ok b →
  (∀ o ∈ b.ops, wellFormed o.op = true ∧ isEvent o.op = false ∧ o.slot < 6) ∧ b.ops.Pairwise (fun x y => x.slot < y.slot)

/-- Chapters 12 to 17: words that the spec writes out decode to the operations it gives for them. -/
def Obligations.DecodesPrintedWords : Prop :=
  decodeSyl .s 0x2E280301 0 0 = .ok (.li 10 (.short 0x301)) ∧ decodeSyl .s 0x4018D503 0 0 = .ok (.lea 6 13 20 3) ∧
  decodeSyl .s 0x1A1C3F60 0 0 = .ok (.shrImm 7 3 61) ∧ decodeSyl .s 0x520C67FF 0 0 = .ok (.st 3 3 6 (.short (-1))) ∧
  decodeSyl .s 0x92007821 0 0 = .ok (.csrw 0x821 7) ∧ decodeSyl .s 0x74002000 0 0 = .ok (.cbar 2) ∧
  decodeSyl .s 0xA00CA500 0 0 = .ok (.ropen 3 10 20) ∧ decodeSyl .s 0xAA0CA300 0 0 = .ok (.protr 3 10 12 0) ∧
  decodeSyl .v 0xE22001C000000000 0 0 = .ok (.skqry 8 0 7) ∧ decodeSyl .v 0xB50C800002000000 0 0 = .ok (.vbcast .w512 .i32 3 8 0) ∧
  decodeSyl .m 0x10022210000007C0 0 0 = .ok (.mmag false 0 0 1 .bf16 .bf16 31 2)

/-- R323 to R327: every opcode that its map does not list is refused as ILLEGAL_OPCODE, whatever its other fields. -/
def Obligations.UnlistedOpcodesRefused : Prop := ∀ w ext const : Nat,
  (fld w 25 7 ∈ [0x1D, 0x1E, 0x1F, 0x23, 0x24, 0x25, 0x26, 0x27, 0x2A, 0x2B, 0x2C, 0x2D, 0x2E, 0x2F, 0x37, 0x43, 0x44, 0x45, 0x46, 0x47, 0x4E, 0x4F] →
    decodeSyl .s w ext const = .error Cause.illegalOpcode) ∧
  (0x56 ≤ fld w 25 7 → decodeSyl .s w ext const = .error Cause.illegalOpcode) ∧
  (fld w 58 6 ∈ [0x1D, 0x1E, 0x1F, 0x25, 0x26, 0x27, 0x2B, 0x32, 0x33, 0x3D, 0x3E, 0x3F] → decodeSyl .v w ext const = .error Cause.illegalOpcode) ∧
  (fld w 59 5 = 0 ∨ 0x0C ≤ fld w 59 5 → decodeSyl .m w ext const = .error Cause.illegalOpcode) ∧
  (fld w 27 5 = 0 ∨ 0x0C ≤ fld w 27 5 → decodeSyl .c0 w ext const = .error Cause.illegalOpcode) ∧
  (fld w 58 6 ∈ [0, 0x05, 0x06, 0x07, 0x0B, 0x0C, 0x0D, 0x0E, 0x0F, 0x12, 0x13, 0x17, 0x1A, 0x1B] ∨ 0x1E ≤ fld w 58 6 →
    decodeSyl .c1 w ext const = .error Cause.illegalOpcode)

/-! ## The machine as a whole -/

/-- R176, R319 and log entry 1: where the context in focus may issue, with nothing due, nothing armed and no disagreement of copies to meet, and the bundle fetched holds one operation
that the checks pass, the step is that operation's own meaning in the state in which the bundle has begun to issue; where it completes, the
issue ends, and where it takes a trap the step is that trap. What a fetch answers is decoded from the code bytes at the program counter, the header
first; outside a loop body the instruction cache then holds every byte of it.
The model's choice stands in log entries 1, 12 and 13 (who acts next, held code bytes, what is due first). -/
def Obligations.StepRunsDecodedOperation : Prop := (∀ (m m' : Module) (cx : Nat) (b : Bundle), m.fetch cx = (.bundle b, m') →
  ∃ hb rest m1, m.codeBytes cx (m.ctx cx).pc.toNat 4 = .ok (hb, m1) ∧ decodeBundle (hb ++ rest) = .ok b ∧
    ((m.ctx cx).u.loops = [] → ∀ k x, (hb ++ rest)[k]? = some x → Tab.get none (m'.ctx cx).u.icode ((m.ctx cx).pc.toNat + k) = some x)) ∧
  ∀ (m m2 : Module) (p : Option Module) (b : Bundle) (o : SlotOp) (t : State),
  let m1 := { m with turn := m.turn + 1 }
  let s := (m2.begin (BitVec.ofNat 32 b.header) (m2.th.after b)).upd Thread.advance
  let part : Part := ⟨o.slot, o.op, false⟩
  m.agenda = [] → m.trapDue = none → m.turn < 32 → (m.turn + 1) % 8 ≠ 0 → m1.mayIssue m.focus = true → m.th.u.crewWait = none →
  m.th.u.returning = false → m.th.u.land = [] → m1.fetch m.focus = (.bundle b, m2) → b.ops = [o] → o.slot < 6 → m2.th.u.rep = none → m2.th.u.armM = none →
  m2.th.u.armC0 = none → m2.th.u.armC1 = none → runDependent m2.th.u.mask [part] [] = false → part.stalls m2.th = false →
  m2.th.room [part] = true → disagreements b (m2.core (coreOf m2.focus)).upsets = [] → exec o.op s = .next t →
  (t.pre ≠ none → step ⟨m, p⟩ = .next (t.endIssue b [part])) ∧
  (t.pre = none → (t.now.th.trapped ≠ m2.th.trapped ∨ t.now.th.status ≠ m2.th.status) → step ⟨m, p⟩ = .next ⟨t.now, none⟩)

/-- R206 with the model's form of memory: every step keeps memory in its canonical form, from every state that has it.
The model's choice stands in log entry 8 (the form of memory and what an unlisted byte reads as). -/
def Obligations.StepKeepsMemoryForm : Prop := ∀ s t : State, s.now.mm.wf → step s = .next t → t.memoryWf

/-- The model's form of memory: it holds at reset, and in every state made from it by placing code.
The model's choice stands in log entry 8 (the form of memory and what an unlisted byte reads as). -/
def Obligations.ResetMemoryForm : Prop := State.reset.memoryWf ∧ ∀ (s : State) (nbits w : Nat), s.now.mm.wf → (s.withFetchWord nbits w).memoryWf

/-- R319, R481: a step ends between bundles. The operations of one issue take effect together or not at all. -/
def Obligations.StepEndsBetweenBundles : Prop := ∀ s t : State, step s = .next t → t.pre = none

/-- R320: every operation of a bundle that is well formed either executes or raises a trap, in every state: none stops the machine. -/
def Obligations.BundleOperationsNeverStop : Prop := ∀ (i : Instr) (s : State), isEvent i = false → ∃ t, exec i s = .next t

/-- R20, R22, R31, R68, R69, R114, R131: what a cold reset leaves, in the fields whose reset values the spec gives. GROUND takes no write. -/
def Obligations.ResetValues : Prop :=
  let m := State.reset.now
  m.silo.power = .booting 1 ∧ m.silo.tstate = .release ∧ m.fb.devid = 0 ∧ m.fb.devfrlim = 0x20000 ∧ m.fb.impasid = 0 ∧ m.fe.hvec = 0 ∧
  m.tr.atbase = 0 ∧ m.silo.biLimit = 16 ∧ (∀ n, (m.group n).cfg = 0x0000003400008000 ∧ (m.group n).valid = false ∧ (m.group n).state = 3 ∧ (m.group n).round = 0) ∧
  (∀ q, (m.queue q).cfg = (if 60 ≤ q then 14 else 0) ∧ (m.queue q).head = 0 ∧ (m.queue q).tail = 0 ∧ (m.queue q).rpl = 0 ∧ (m.queue q).stopped = false) ∧
  (∀ n, Tab.get 0 m.fe.evcnt n = 0) ∧ (∀ c, (m.ctx c).status = .empty) ∧ (∀ h, (m.crew h).inForce = false) ∧
  ∀ (s : State) (who : Agent) (slot : Nat) (v : Word64), slot < 8 → Does (.registerWrite who (.ground slot) v) s fun t => t.now.groups = s.now.groups


/-! ## Control flow -/

/-- R196, R361, R362: outside loop bodies every branch goes to its target, an untaken BRC changes nothing, CALL also writes the address after the bundle,
and a misaligned register target is ADDR_ALIGN. Inside a loop body a taken BR, BRC or JR must stay in the innermost body; any other, and every CALL and
RET, is LOOP_BRANCH. -/
def Obligations.Branches : Prop := ∀ (s : State) (a : RegNo) (off : ExtImm 17),
  let target := branchTarget s.src.th.pc off
  let x := s.rdS a
  (∀ v, off = .short v → target = s.src.th.pc + v.signExtend 64 * 4) ∧ (∀ v, off = .long v → target = s.src.th.pc + v.signExtend 64 * 4) ∧
  (x = 0 → exec (.brcNe a off) s = .next s) ∧ (x ≠ 0 → exec (.brcEq a off) s = .next s) ∧
  (x.toNat % 4 ≠ 0 → Traps (.ret a) s Cause.addrAlign x ∧ Traps (.jr a) s Cause.addrAlign x) ∧
  (s.src.th.u.loops = [] →
    GoesTo (.br off) s target.toNat ∧ (x = 0 → GoesTo (.brcEq a off) s target.toNat) ∧ (x ≠ 0 → GoesTo (.brcNe a off) s target.toNat) ∧
    (x.toNat % 4 = 0 → GoesTo (.ret a) s x.toNat ∧ GoesTo (.jr a) s x.toNat) ∧
    (target.toNat % 4 = 0 → Does (.call a off) s (s.becomes fun th => { th.wrS a.toNat s.src.th.u.ir.after with next := some target }))) ∧
  (∀ l ls, s.src.th.u.loops = l :: ls →
    (l.first ≤ target.toNat → target.toNat < l.after → GoesTo (.br off) s target.toNat ∧ (x = 0 → GoesTo (.brcEq a off) s target.toNat) ∧
      (x ≠ 0 → GoesTo (.brcNe a off) s target.toNat)) ∧
    (target.toNat < l.first ∨ l.after ≤ target.toNat → Traps (.br off) s Cause.loopBranch target ∧
      (x = 0 → Traps (.brcEq a off) s Cause.loopBranch target) ∧ (x ≠ 0 → Traps (.brcNe a off) s Cause.loopBranch target)) ∧
    Traps (.call a off) s Cause.loopBranch target ∧
    (x.toNat % 4 = 0 → Traps (.ret a) s Cause.loopBranch x ∧ (l.first ≤ x.toNat → x.toNat < l.after → GoesTo (.jr a) s x.toNat) ∧
      (x.toNat < l.first ∨ l.after ≤ x.toNat → Traps (.jr a) s Cause.loopBranch x)))

/-- R195, R363, R364: LOOP, whose body has been captured, opens a level of n bundles and c iterations, skips the body where c is 0, and is LOOP_NEST at
a seventh level or past the end of the enclosing body; a body with an absent page holds the bundle until Meadow answers. LEXIT leaves the innermost level. Where an
iteration's last bundle has issued, levels ending there step innermost first: one with iterations left goes back to its first bundle with one fewer,
one without is left, and the next enclosing level steps.
The model's choice stands in log entry 18 (when LOOP reads its body). -/
def Obligations.LoopLevels : Prop := ∀ (s : State) (n : BitVec 6) (cnt : ExtImm 12) (a : RegNo),
  let t := s.src.th
  let opens (i : Instr) (c : Nat) : Prop :=
    (∀ body after code m1, s.now.capture s.now.focus (n.toNat + 1) = .ok (body, after, code, m1) →
      let s1 : State := { s with now := m1 }
      let fits := t.u.loops.length < 6 ∧ ∀ l ls, t.u.loops = l :: ls → after ≤ l.after
      body.length = n.toNat + 1 ∧
      (fits → 0 < c → Does i s (s1.becomes fun th => { th with u := { th.u with loops := ⟨body, after, c, code⟩ :: th.u.loops } })) ∧
      (t.u.loops = [] → c = 0 → Does i s fun u => u.now.th.next = some (BitVec.ofNat 64 after) ∧ u.now.th.u.loops = []) ∧
      (s.pre ≠ none → ¬fits → Traps i s Cause.loopNest (s.back.th.u.ir.header.setWidth 64))) ∧
    (∀ st, s.now.capture s.now.focus (n.toNat + 1) = .error st → (∀ e va, st = .fault e va → Traps i s e (BitVec.ofNat 64 va)) ∧
      (∀ va e, st.pageAt = some va → s.back.th.u.pf.cause = some e → Traps i s e (BitVec.ofNat 64 va)) ∧
      (∀ va, st.pageAt = some va → s.back.th.u.pf.cause = none → Does i s fun u => u.pre = none ∧ u.now.th.pc = s.back.th.pc))
  opens (.loopImm n cnt) (immNatural cnt) ∧ opens (.loopReg n a) (s.rdS a).toNat ∧
  (t.u.loops = [] → Traps .lexit s Cause.loopNest (s.back.th.u.ir.header.setWidth 64)) ∧
  (∀ l ls, t.u.loops = l :: ls → (∀ k ks, ls = k :: ks → k.after ≠ l.after) →
    Does .lexit s (s.becomes fun th => { th with next := some (BitVec.ofNat 64 l.after), u := { th.u with loops := ls } })) ∧
  (∀ (l : Loop) (ls : List Loop) (e : Nat), stepLoops [] e = ([], e) ∧ (l.after ≠ e → stepLoops (l :: ls) e = (l :: ls, e)) ∧
    (l.after = e → 1 < l.left → stepLoops (l :: ls) e = ({ l with left := l.left - 1 } :: ls, l.first)) ∧
    (l.after = e → l.left ≤ 1 → stepLoops (l :: ls) e = stepLoops ls e))

/-- R240, R373, R374, R375, R377, R379: NOP changes nothing; FENCE and TRIG enter a marker into each of the three queues; HALT stops issue, and the
end of its bundle disarms and discards the landings; WAITT passes a register that is not pending, and otherwise holds its bundle, with the cycle from
which it waits, or, at its limit, takes WAIT_STALL; YIELD does nothing where
no context area is given.
The model's choice stands in log entries 1 and 16 (markers as queue entries, what a wait counts). -/
def Obligations.MarkersAndWaits : Prop := ∀ (s : State) (k : FenceKind) (sc : Scope) (a : RegNo),
  let marked (i : Instr) (ks : SKind) (kc : C1Kind) (km : MKind) : Prop := Does i s fun t =>
    s.sameOutside t ∧ t.now.th.r = s.now.th.r ∧ t.now.th.csr = s.now.th.csr ∧
    (∃ e, t.now.th.x.sq = s.now.th.x.sq ++ [e] ∧ e.kind = ks) ∧ (∃ e, t.now.th.x.c1q = s.now.th.x.c1q ++ [e] ∧ e.kind = kc) ∧
    (∃ e, t.now.th.x.mq = s.now.th.x.mq ++ [e] ∧ e.kind = km)
  exec .nop s = .next s ∧ marked (.fence k sc) (.marker k sc) (.marker k sc) (.marker k sc) ∧
  (s.now.th.u.trigged = true → marked .trig (.marker .rel .device) (.marker .rel .device) (.marker .rel .device)) ∧
  (s.now.th.u.trigged = false → marked .trig .trigMark .trigMark .trigMark ∧ Does .trig s fun t => t.now.th.u.trigged = true) ∧
  Does .halt s (fun t => s.becomes (fun th => { th with status := .halting }) t) ∧
  (∀ (th : Thread) (b : Bundle) (ps : List Part) (user : Bool), th.status = .halting → let v := th.afterIssue b ps user
    v.u.armM = none ∧ v.u.armC0 = none ∧ v.u.armC1 = none ∧ v.u.land = []) ∧
  ((∀ l, s.now.launchOf s.now.th.launch = some l → l.ctxbase = 0) → exec .yield s = .next s) ∧
  (∀ l, s.now.launchOf s.now.th.launch = some l → l.ctxbase ≠ 0 → Does .yield s fun t => t.now = s.now.preempt (some l.id)) ∧
  (a = 0 ∨ (a.toNat ∉ s.now.th.u.pend ∧ ∀ x, s.now.th.u.armC1 = some x → x.token ≠ a.toNat) → exec (.waitt a) s = .next s) ∧
  (a ≠ 0 → a.toNat ∈ s.now.th.u.pend → (∀ x, s.now.th.u.armC1 = some x → x.token ≠ a.toNat) →
    (s.back.waitOver s.back.focus = false → Does (.waitt a) s fun t => t.pre = none ∧ t.now.th.pc = s.back.th.pc ∧
      t.now.th.u.waitFrom = some (s.back.th.u.waitFrom.getD (s.back.coreClock (coreOf s.back.focus), 0))) ∧
    (∀ w, s.back.th.u.waitFrom = some w → w.1 + s.back.th.waitLimit ≤ s.back.coreClock (coreOf s.back.focus) → Traps (.waitt a) s Cause.waitStall 0))

/-- R376, R378: a WAITF whose flag, read in the thread's scratchpad after the earlier accesses that its read must follow, meets its condition ends, and one whose flag does not holds its bundle or, at its
limit, takes WAIT_STALL with the flag's address; a misaligned flag is ADDR_ALIGN.
The model's choice stands in log entry 16 (what a wait counts). -/
def Obligations.WaitForFlag : Prop := ∀ (s : State) (c : Cond) (wide : Bool) (a b : RegNo) (o : Nat) (bs : List Byte),
  let n := if wide then 8 else 4
  ((s.rdS a).toNat % n ≠ 0 → Traps (.waitf c wide a b) s Cause.addrAlign (s.rdS a)) ∧
  ((s.rdS a).toNat % n = 0 → s.back.th.u.pf.cause = none →
    s.now.sAhead s.src.focus ⟨.load false 0, n, s.rdS a, .none, !s.src.th.system, none, 0⟩ (s.now.ctx s.src.focus).x.sq = true → s.now.place s.src.focus (!s.src.th.system) (s.rdS a) n = .ok (.own o) →
    s.now.readP s.src.focus (!s.src.th.system) (wide && (s.rdS a).toNat % 8 == 0) (.own o) n = .ok (bs, s.now) →
    (flagHolds c wide (zext64 (leNat bs) (8 * n)) (s.rdS b) = true →
      Does (.waitf c wide a b) s (s.becomes fun th => { th with u := { th.u with poll := .none } })) ∧
    (flagHolds c wide (zext64 (leNat bs) (8 * n)) (s.rdS b) = false → s.back.waitOver s.back.focus = true →
      Traps (.waitf c wide a b) s Cause.waitStall (s.rdS a)) ∧
    (flagHolds c wide (zext64 (leNat bs) (8 * n)) (s.rdS b) = false → s.back.waitOver s.back.focus = false →
      Does (.waitf c wide a b) s fun t => t.pre = none))

/-! ## Crews -/

/-- R242, R365 to R369, R371: JOIN creates a crew or joins one, LEAVE leaves it, and a handle that names no crew of the launch is CREW_HANDLE. CARR and CBAR
make an arrival at the lowest incomplete phase whose release is the marker they enter; CARR writes the phase, CBAR holds the next bundle on it;
CWAIT passes a complete phase with CBSTAT set, and holds on any other.
The model's choice stands in log entry 20 (the release as a marker, and which bundle CBAR holds). -/
def Obligations.CrewOperations : Prop :=
  (∀ (s : State) (d a : RegNo) (h : Nat),
  let me := s.now.th.tidN
  (s.rdS a = BitVec.allOnes 64 → s.now.freeCrew = some h → Does (.join d a) s fun t =>
    t.now.th.rdS d.toNat = (if d = 0 then 0 else BitVec.ofNat 64 h) ∧ t.now.crew h = { Crew.free with inForce := true, launch := s.now.th.launch, members := [⟨me, 0⟩] } ∧
    (∀ k, k ≠ h → t.now.crew k = s.now.crew k) ∧ (∀ x, t.byte x = s.byte x)) ∧
  (s.rdS a = BitVec.allOnes 64 → s.now.freeCrew = none → Traps (.join d a) s Cause.crewExhausted 0) ∧
  (s.rdS a ≠ BitVec.allOnes 64 → s.now.crewOk s.now.focus (s.rdS a) false = true →
    ((s.now.crew (s.rdS a).toNat).member me ≠ none → WritesS (.join d a) s d (s.rdS a)) ∧
    ((s.now.crew (s.rdS a).toNat).member me = none → Does (.join d a) s fun t => t.now.th.rdS d.toNat = (if d = 0 then 0 else s.rdS a) ∧
      t.now.crew (s.rdS a).toNat = { s.now.crew (s.rdS a).toNat with
        members := (s.now.crew (s.rdS a).toNat).members ++ [⟨me, (s.now.crew (s.rdS a).toNat).phase⟩] })) ∧
  (s.rdS a ≠ BitVec.allOnes 64 → s.now.crewOk s.now.focus (s.rdS a) false = false → Traps (.join d a) s Cause.crewHandle (s.rdS a)) ∧
  (s.back.th.u.crewFault = none →
    (s.now.crewOk s.now.focus (s.rdS a) true = true → Does (.leave a) s fun t => (t.now.crew (s.rdS a).toNat).member me = none) ∧
    (s.now.crewOk s.now.focus (s.rdS a) true = false → Traps (.leave a) s Cause.crewHandle (s.rdS a)))) ∧
  (∀ (s : State) (d a b : RegNo),
  let c := s.now.crew (s.rdS a).toNat
  let x := c.nextOf s.now.th.tidN
  let y : BitVec 32 := (s.rdS b).setWidth 32
  s.back.th.u.crewFault = none → s.back.th.u.cwait = none → s.now.crewOk s.now.focus (s.rdS a) true = true →
  (c.ahead x < 2 →
    Does (.carr d a) s (fun t => t.now.th.rdS d.toNat = (if d = 0 then 0 else x.setWidth 64) ∧
      ∃ e, t.now.th.x.sq = s.now.th.x.sq ++ [e] ∧ e.kind = .crewMark (s.rdS a).toNat x) ∧
    Does (.cbar a) s (fun t => (∀ n, t.now.th.rdS n = s.now.th.rdS n) ∧
      (t.now.th.u.crewWait = some ((s.rdS a).toNat, x) ∨ ∃ τ ∈ t.now.th.u.held, τ.cause = Cause.crewUnreachable) ∧
      ∃ e, t.now.th.x.sq = s.now.th.x.sq ++ [e] ∧ e.kind = .crewMark (s.rdS a).toNat x)) ∧
  (c.done y = true → Does (.cwait a b) s fun t => t.now.th.csr.cbstat = c.status y ∧ t.now.th.r = s.now.th.r ∧
    ∃ e, t.now.th.x.c1q = s.now.th.x.c1q ++ [e] ∧ e.kind = .marker .acq .device) ∧
  (c.done y = false → Does (.cwait a b) s fun t => t.pre = none ∧ t.now.th.pc = s.back.th.pc))


/-! ## Control registers -/

/-- R472, R473, R475: a number the table does not list is ILLEGAL_CSR, and one closed at the thread's level PRIV_CSR; CSRR reads the register, CSRW
sets its writable bits and keeps the others, a read-only register ignores the write, and CSRX writes the value from before. OVTLD sets both
overflow registers at once, reserved bits ignored, and its reset form sets their reset values (R270, R485). -/
def Obligations.ControlRegisterAccess : Prop := ∀ (s : State) (d a b : RegNo) (n : BitVec 12),
  let th := s.src.th
  Does (.ovtld a b) s (s.becomes fun th => { th with csr := { th.csr with ovtab := s.rdS a &&& 0x3F3F3F3F3F3F3F3F, ovtabx := s.rdS b &&& 0x00003F3F3F3F3F3F } }) ∧
  Does .ovtldRst s (s.becomes fun th => { th with csr := { th.csr with ovtab := 0x202428252A252525, ovtabx := 0x0000202020202020 } }) ∧
  (csrRow n.toNat = none → Traps (.csrr d n) s Cause.illegalCsr (n.setWidth 64) ∧ Traps (.csrw n a) s Cause.illegalCsr (n.setWidth 64) ∧
    Traps (.csrx d n a) s Cause.illegalCsr (n.setWidth 64)) ∧
  (∀ row, csrRow n.toNat = some row →
    (csrAccess row th.system = .none → Traps (.csrr d n) s Cause.privCsr (n.setWidth 64) ∧ Traps (.csrw n a) s Cause.privCsr (n.setWidth 64) ∧
      Traps (.csrx d n a) s Cause.privCsr (n.setWidth 64)) ∧
    (csrAccess row th.system = .ro → WritesS (.csrr d n) s d (th.csrGet n.toNat) ∧ exec (.csrw n a) s = .next s ∧
      WritesS (.csrx d n a) s d (th.csrGet n.toNat)) ∧
    (csrAccess row th.system = .rw → WritesS (.csrr d n) s d (th.csrGet n.toNat) ∧
      let v := (s.now.th.csrGet n.toNat &&& ~~~ BitVec.ofNat 64 row.2.2) ||| (s.rdS a &&& BitVec.ofNat 64 row.2.2)
      Does (.csrw n a) s (fun t => s.sameOutside t ∧ t.now.th.csrGet n.toNat = v ∧ t.now.th.r = s.now.th.r ∧
        (∀ k, k ≠ n.toNat → t.now.th.csrGet k = s.now.th.csrGet k) ∧ t.now.th.x = s.now.th.x ∧ t.now.th.b = s.now.th.b) ∧
      Does (.csrx d n a) s (fun t => s.sameOutside t ∧ t.now.th.csrGet n.toNat = v ∧
        t.now.th.rdS d.toNat = (if d = 0 then 0 else th.csrGet n.toNat) ∧ (∀ k, k ≠ n.toNat → t.now.th.csrGet k = s.now.th.csrGet k)))) ∧
  (0x880 ≤ n.toNat → th.system = false → n.toNat ≠ 0x880 → Traps (.csrw n a) s (if n.toNat ≤ 0x888 then Cause.privCsr else Cause.illegalCsr) (n.setWidth 64))

/-- R479: a system-level write to FEND, or the event for it, ends the launch: the thread issues nothing more, and its queue stops with the code, or
with KILLED for 0; FEND reads zero.
The model's choice stands in log entry 64 (how FEND ends a launch). -/
def Obligations.FendEndsLaunch : Prop := ∀ (s : State) (a d : RegNo) (c : Nat) (code : BitVec 7),
  let ends (i : Instr) (cx : Nat) (k : Nat) : Prop := Does i s fun t =>
    (t.now.ctx cx).status = .stopped ∧ (t.now.queue (s.now.ctx cx).queue).stopped = true ∧
    (t.now.queue (s.now.ctx cx).queue).cause = (if k = 0 then Cause.killed else BitVec.ofNat 7 k)
  (s.src.th.system = true → ends (.csrw 0x888 a) s.now.focus ((s.rdS a).toNat % 128) ∧ WritesS (.csrr d 0x888) s d 0) ∧
  (s.src.th.system = true → ends (.csrx 0 0x888 a) s.now.focus ((s.rdS a).toNat % 128)) ∧
  ((s.now.ctx c).status ≠ .empty → ends (.fend c code) c code.toNat)

/-! ## Traps -/

/-- R481: taking a trap saves where to return, the cause with its detail, the datum, the level and IE, and the sequencer's part in the frame; the
handler starts at TVEC.BASE × 4 at system level with IE 0, masks clear, no loop active, nothing armed and no landing entry; nothing else changes. A trap while
one is held ends the launch with TRAP_NESTED, and one without a handler with its own cause: the thread issues nothing more, and its queue stops. -/
def Obligations.TakingATrap : Prop := ∀ (m : Module) (cx : Nat) (τ : Trap),
  let t := m.ctx cx
  let u := (m.takeTrap cx τ).ctx cx
  (t.trapped = false → bit t.csr.tvec.toNat 63 = true →
    u.csr.epc = t.pc ∧ u.csr.cause.toNat = τ.detail.toNat * 128 + τ.cause.toNat ∧ u.csr.edata = τ.datum ∧
    bit u.csr.estat.toNat 2 = bit t.csr.estat.toNat 5 ∧ bit u.csr.estat.toNat 1 = bit t.csr.estat.toNat 0 ∧
    bit u.csr.estat.toNat 3 = decide (τ.delivery ≠ .I) ∧ bit u.csr.estat.toNat 4 = true ∧ bit u.csr.estat.toNat 5 = true ∧
    bit u.csr.estat.toNat 0 = false ∧ bit u.csr.estat.toNat 7 = bit t.csr.estat.toNat 7 ∧
    u.pc.toNat = fld t.csr.tvec.toNat 2 50 * 4 ∧ u.u.mask = [] ∧ u.u.loops = [] ∧ u.u.land = [] ∧ u.u.rep = none ∧
    u.u.armM = none ∧ u.u.armC0 = none ∧ u.u.armC1 = none ∧
    (∃ f, u.u.frame = some f ∧ f.rep = t.u.rep ∧ f.loops = t.u.loops ∧ f.armM = t.u.armM ∧ f.armC0 = t.u.armC0 ∧ f.armC1 = t.u.armC1 ∧
      f.mask = t.u.mask ∧ f.land = t.u.land ∧ f.held = t.u.held) ∧
    (∀ n, u.rdS n = t.rdS n) ∧ (∀ n, u.rdV n = t.rdV n) ∧ (∀ n, u.rdP n = t.rdP n) ∧ u.x = t.x ∧ u.b = t.b ∧
    u.csr.tvec = t.csr.tvec ∧ u.csr.hsave0 = t.csr.hsave0 ∧ u.csr.hsave1 = t.csr.hsave1 ∧
    (∀ c, c ≠ cx → (m.takeTrap cx τ).ctx c = m.ctx c) ∧ (m.takeTrap cx τ).mm = m.mm) ∧
  let n := m.takeTrap cx τ
  (t.trapped = true → (n.ctx cx).status = .stopped ∧ (n.queue t.queue).stopped = true ∧ (n.queue t.queue).cause = Cause.trapNested) ∧
  (t.trapped = false → bit t.csr.tvec.toNat 63 = false →
    (n.ctx cx).status = .stopped ∧ (n.queue t.queue).stopped = true ∧ (n.queue t.queue).cause = τ.cause)

/-- R482: ERET at user level is PRIV_INSTR, a misaligned EPC ADDR_ALIGN; with the handler's entries landed, for
which it waits by empty issues, it restores the frame, the level, IE and
TRAPPED, and issue continues at EPC, the remaining repeat count being kept only where EPC is what trap entry gave it. -/
def Obligations.ReturnFromTrap : Prop := ∀ (s : State),
  (s.src.th.system = false → Traps .eret s Cause.privInstr (BitVec.ofNat 64 (sylWord .eret))) ∧
  (s.src.th.system = true → s.src.th.csr.epc.toNat % 4 ≠ 0 → Traps .eret s Cause.addrAlign s.src.th.csr.epc) ∧
  (s.src.th.system = true → s.src.th.csr.epc.toNat % 4 = 0 → s.now.th.u.land ≠ [] →
    Does .eret s (s.becomes fun th => { th with u := { th.u with returning := true } })) ∧
  (∀ m : Module, m.th.u.returning = true → m.th.u.land ≠ [] → m.issue = m.stopped (m.emptyIssue m.th.u.ir.header m.th.u.ir.after)) ∧
  (∀ m : Module, m.th.u.returning = true → m.th.u.land = [] → ∃ t, m.issue = .done (.next t) ∧ t.pre = none ∧ t.now.th.pc = m.th.csr.epc ∧
    t.now.th.u.returning = false ∧ t.now.th.u.frame = none) ∧
  (∀ f, s.src.th.system = true → s.src.th.csr.epc.toNat % 4 = 0 → s.now.th.u.land = [] → s.now.th.u.frame = some f → Does .eret s fun t =>
    s.sameOutside t ∧
    let u := t.now.th
    let e := s.now.th.csr.estat.toNat
    u.next = some s.now.th.csr.epc ∧ u.u.frame = none ∧ u.u.loops = f.loops ∧ u.u.armM = f.armM ∧ u.u.armC0 = f.armC0 ∧ u.u.armC1 = f.armC1 ∧
    u.u.mask = f.mask ∧ u.u.land = f.land ∧ u.u.rep = (if s.now.th.csr.epc = f.epc then f.rep else none) ∧
    bit u.csr.estat.toNat 5 = bit e 2 ∧ bit u.csr.estat.toNat 0 = bit e 1 ∧ bit u.csr.estat.toNat 4 = false ∧
    bit u.csr.estat.toNat 7 = bit e 7 ∧ bit u.csr.estat.toNat 3 = bit e 3 ∧ bit u.csr.estat.toNat 2 = bit e 2 ∧ u.csr.epc = s.now.th.csr.epc ∧
    u.csr.cause = s.now.th.csr.cause ∧ u.csr.edata = s.now.th.csr.edata ∧ u.x = { s.now.th.x with mhalt := false })

/-- R308, R310, R483: TRAP n makes TRAP_CALL due after the bundle with DETAIL n; BRK is BREAKPOINT with the header; a pure repeat bundle only counts its
issue: of REP + 1 issues the first leaves REP to come, and each later one takes one away. -/
def Obligations.TrapBreakRepeat : Prop := ∀ (s : State) (n : BitVec 12) (low : BitVec 28) (rep : BitVec 5) (stop : Bool),
  Does (.trap n) s (s.becomes fun th => { th with u := { th.u with held := ⟨Cause.trapCall, n.setWidth 25, 0, .A⟩ :: th.u.held } }) ∧
  Traps (.brk low) s Cause.breakpoint (s.back.th.u.ir.header.setWidth 64) ∧
  (s.now.th.u.rep = none → Does (.pureRepeat rep stop) s (s.becomes fun th => { th with u := { th.u with
    rep := if rep = 0 then none else some rep.toNat, mask := if stop then [] else th.u.mask } })) ∧
  (∀ k, s.now.th.u.rep = some (k + 1) → Does (.pureRepeat rep stop) s (s.becomes fun th => { th with u := { th.u with
    rep := if k = 0 then none else some k, mask := if stop then [] else th.u.mask } }))

/-- R484, R504: at a boundary a held cause of delivery A comes first; then a held post is taken as INTERRUPT at user level with IE 1; then STEP_TRAP; then
the cause known first. Each is a trap taken at the address of the next bundle. -/
def Obligations.BoundaryTraps : Prop := ∀ (s : State) (τ : Trap),
  s.pre = none → s.now.mayTrap s.now.focus = true →
  (s.now.th.heldA = some τ → Does .trapEntry s fun t => t.now = s.now.takeHeld s.now.focus τ) ∧
  (s.now.th.heldA = none → s.now.interruptDue s.now.focus = true → Does .interrupt s fun t =>
    t.now = (s.now.modCore (coreOf s.now.focus) fun k => { k with post := false }).takeTrap s.now.focus ⟨Cause.interrupt, 0, 0, .A⟩) ∧
  (s.now.th.heldA = none → s.now.interruptDue s.now.focus = false → s.now.th.stepDue = true → Does .stepTrap s fun t =>
    t.now = s.now.takeTrap s.now.focus ⟨Cause.stepTrap, 0, 0, .A⟩) ∧
  (s.now.th.heldA = none → s.now.interruptDue s.now.focus = false → s.now.th.stepDue = false → s.now.th.u.held.head? = some τ →
    Does .trapEntry s fun t => t.now = s.now.takeHeld s.now.focus τ)


/-! ## The V slots -/

/-- R263, R381, R382, R385, R386: the floating lane operations. Each active lane takes the exact result of the decoded source lanes, rounded once by
RNE under FINOV of the type; an inactive lane keeps its value, bits above the width are zero, and nothing else changes. -/
def Obligations.FloatLanes : Prop := ∀ (s : State) (w : Wid) (t : FTy) (md : RMode) (d a b c : RegNo) (p : BitVec 4),
  let fp := fpOf (ftyFmt t)
  let e := ftyBits t
  let x (r : RegNo) (j : Nat) : FVal := decodeFP fp (lane (s.rdV r) e j)
  let writes (i : Instr) (f : Nat → FVal) : Prop := WritesV i s d
    (LanesAre (widBits w / e) e (s.rdP p) (s.rdV d) fun j => finish fp .rne (finov s.src.th.csr.ovt (ftyCode t)) (f j))
  writes (.vadd w t d a b p) (fun j => (x a j).add (x b j)) ∧ writes (.vsub w t d a b p) (fun j => (x a j).add (x b j).negate) ∧
  writes (.vmul w t d a b p) (fun j => (x a j).mul (x b j)) ∧ writes (.vfma w t d a b c p) (fun j => ((x a j).mul (x b j)).add (x c j)) ∧
  writes (.vfms w t d a b c p) (fun j => ((x a j).mul (x b j)).add (x c j).negate) ∧
  writes (.vmin w t d a b p) (fun j => (x a j).min (x b j)) ∧ writes (.vmax w t d a b p) (fun j => (x a j).max (x b j)) ∧
  writes (.vabs w t d a p) (fun j => (x a j).abs) ∧ writes (.vneg w t d a p) (fun j => (x a j).negate) ∧
  writes (.vrnd w t md d a p) (fun j => (x a j).integral md)

/-- R263, R267, R385: a finite or infinite value that its format holds comes back bit for bit, whatever the mode and FINOV; a NaN source, opposite
infinities and an infinity times a zero give the canonical NaN. A magnitude m × 2^−k rounds to an integer next to it: RNE to the nearest, ties to even;
RTZ down; RDN and RUP away from zero only on the side of their infinity. -/
def Obligations.FloatRounding : Prop := ∀ (t : FTy) (md : RMode) (ov x m k : Nat) (a : FVal) (s : Bool) (e : Int),
  let fp := fpOf (ftyFmt t)
  let n (md : RMode) : Nat := roundInt md s m (-(k : Int))
  (x < 2 ^ ftyBits t → decodeFP fp x ≠ .nan → finish fp md ov (decodeFP fp x) = x) ∧
  finish fp md ov (FVal.nan.add a) = fp.qnan ∧ finish fp md ov (a.add .nan) = fp.qnan ∧ finish fp md ov (FVal.nan.mul a) = fp.qnan ∧
  finish fp md ov (a.mul .nan) = fp.qnan ∧ finish fp md ov ((FVal.inf s).add (.inf (!s))) = fp.qnan ∧
  finish fp md ov ((FVal.inf s).mul (.fin s 0 e)) = fp.qnan ∧ finish fp md ov ((FVal.fin s 0 e).mul (.inf s)) = fp.qnan ∧
  finish fp md ov (a.min .nan) = fp.qnan ∧ finish fp md ov (FVal.nan.max a) = fp.qnan ∧
  n .rtz * 2 ^ k ≤ m ∧ m < (n .rtz + 1) * 2 ^ k ∧ (n md = n .rtz ∨ (n md = n .rtz + 1 ∧ n .rtz * 2 ^ k < m)) ∧
  (2 * m < (2 * n .rtz + 1) * 2 ^ k → n .rne = n .rtz) ∧ ((2 * n .rtz + 1) * 2 ^ k < 2 * m → n .rne = n .rtz + 1) ∧
  (2 * m = (2 * n .rtz + 1) * 2 ^ k → n .rne % 2 = 0) ∧
  (n .rtz * 2 ^ k < m → n .rdn = (if s then n .rtz + 1 else n .rtz) ∧ n .rup = (if s then n .rtz else n .rtz + 1))

/-- R390: the integer lane operations, the exact result wrapped or, under SAT, brought into the type's range, and the bit operations. -/
def Obligations.IntegerLanes : Prop := ∀ (s : State) (w : Wid) (t : ITy) (sat : Bool) (d a b c : RegNo) (p : BitVec 4),
  let e := ityBits t
  let x (r : RegNo) (j : Nat) : Int := if itySigned t then (BitVec.ofNat e (lane (s.rdV r) e j)).toInt else lane (s.rdV r) e j
  let writes (i : Instr) (f : Nat → Nat) : Prop := WritesV i s d (LanesAre (widBits w / e) e (s.rdP p) (s.rdV d) f)
  let fit (z : Int) : Nat := ((if sat then max (ityMin t) (min (ityMax t) z) else z) % 2 ^ e).toNat
  writes (.viadd w t sat d a b p) (fun j => fit (x a j + x b j)) ∧ writes (.visub w t sat d a b p) (fun j => fit (x a j - x b j)) ∧
  writes (.vimul w t sat d a b p) (fun j => fit (x a j * x b j)) ∧ writes (.vimad w t sat d a b c p) (fun j => fit (x a j * x b j + x c j)) ∧
  writes (.vimin w t d a b p) (fun j => (min (x a j) (x b j) % 2 ^ e).toNat) ∧ writes (.vimax w t d a b p) (fun j => (max (x a j) (x b j) % 2 ^ e).toNat) ∧
  writes (.vand w t d a b p) (fun j => lane (s.rdV a) e j &&& lane (s.rdV b) e j) ∧ writes (.vor w t d a b p) (fun j => lane (s.rdV a) e j ||| lane (s.rdV b) e j) ∧
  writes (.vxor w t d a b p) (fun j => lane (s.rdV a) e j ^^^ lane (s.rdV b) e j)

/-- R391: in VSHL, VSHR and VSHA the count of lane j is lane j of vB as a natural; a count of e or more gives 0, or copies of the lane's top bit; the
signedness of the type does not matter. -/
def Obligations.ShiftLanes : Prop := ∀ (s : State) (w : Wid) (t : ITy) (d a b : RegNo) (p : BitVec 4),
  let e := ityBits t
  let x (j : Nat) : Nat := lane (s.rdV a) e j
  let c (j : Nat) : Nat := lane (s.rdV b) e j
  let writes (i : Instr) (g : Nat → Nat → Bool) : Prop := WritesV i s d fun v => ∃ f, LanesAre (widBits w / e) e (s.rdP p) (s.rdV d) f v ∧
    ∀ j i, i < e → (f j).testBit i = g j i
  writes (.vshl w t d a b p) (fun j i => decide (c j ≤ i) && (x j).testBit (i - c j)) ∧
  writes (.vshr w t d a b p) (fun j i => decide (i + c j < e) && (x j).testBit (i + c j)) ∧
  writes (.vsha w t d a b p) (fun j i => if i + c j < e then (x j).testBit (i + c j) else (x j).testBit (e - 1))

/-- R387 to R389: VSEL writes every lane, from vA where it is active and from vB elsewhere; VCMP writes the byte bits of each lane, ones where the lane
is active and the condition holds; the predicate operations act on all 128 bits, and PCNT counts them. The conditions are exact
on float lanes with −0 equal to +0 and NaN unordered, and by the type's signedness on integer lanes. -/
def Obligations.SelectionAndPredicates : Prop := ∀ (s : State) (w : Wid) (t : ITy) (lt : LaneTy) (c : VCond) (r a b : RegNo) (d p q : BitVec 4),
  let e := laneBits lt
  WritesV (.vsel w t r a b p) s r (fun v => v.toNat < 2 ^ widBits w ∧ ∀ j, j < widBits w / ityBits t →
    (activeLane (s.rdP p) (ityBits t) j → lane v (ityBits t) j = lane (s.rdV a) (ityBits t) j) ∧
    (¬activeLane (s.rdP p) (ityBits t) j → lane v (ityBits t) j = lane (s.rdV b) (ityBits t) j)) ∧
  WritesP (.vcmp w lt c d a b p) s d (fun v => ∀ k, v.getLsbD k = true ↔ k < widBits w / 8 ∧ activeLane (s.rdP p) e (8 * k / e) ∧
    vcondLane lt c (lane (s.rdV a) e (8 * k / e)) (lane (s.rdV b) e (8 * k / e)) = true) ∧
  WritesP (.pand d p q) s d (· = s.rdP p &&& s.rdP q) ∧ WritesP (.por d p q) s d (· = s.rdP p ||| s.rdP q) ∧
  WritesP (.pxor d p q) s d (· = s.rdP p ^^^ s.rdP q) ∧ WritesP (.pnot d p) s d (· = ~~~ s.rdP p) ∧
  WritesS (.pcnt r p) s r (BitVec.ofNat 64 ((List.range 128).countP fun i => (s.rdP p).getLsbD i)) ∧
  (∀ (t : ITy) (f : FTy) (x y : Nat),
  let u := decodeFP (fpOf (ftyFmt f)) x
  let v := decodeFP (fpOf (ftyFmt f)) y
  (vcondLane (.int t) .eq x y = decide (laneInt t x = laneInt t y)) ∧ (vcondLane (.int t) .ne x y = !vcondLane (.int t) .eq x y) ∧
  (vcondLane (.int t) .lt x y = decide (laneInt t x < laneInt t y)) ∧ (vcondLane (.int t) .le x y = decide (laneInt t x ≤ laneInt t y)) ∧
  (vcondLane (.flt f) .uo x y = decide (u = .nan ∨ v = .nan)) ∧ (vcondLane (.flt f) .ord x y = !vcondLane (.flt f) .uo x y) ∧
  (vcondLane (.flt f) .ne x y = !vcondLane (.flt f) .eq x y) ∧
  (u = .nan ∨ v = .nan → vcondLane (.flt f) .eq x y = false ∧ vcondLane (.flt f) .lt x y = false ∧ vcondLane (.flt f) .le x y = false) ∧
  (u ≠ .nan → v ≠ .nan → vcondLane (.flt f) .le x y = (vcondLane (.flt f) .lt x y || vcondLane (.flt f) .eq x y)) ∧
  (u.isZero = true → v.isZero = true → vcondLane (.flt f) .eq x y = true))

/-- R400, R401: the moves and permutes; VREDS reduces the active lanes in ascending order into a scalar register: integer lanes extended by their
signedness, with the identity of an empty set; float lanes exactly, rounded once to FP32. -/
def Obligations.LaneMovesAndReductions : Prop :=
  (∀ (s : State) (w : Wid) (t : ITy) (d a b : RegNo) (p : BitVec 4) (k : BitVec 7),
  let e := ityBits t
  let n := widBits w / e
  WritesV (.vperm w t d a b) s d (fun v => v.toNat < 2 ^ widBits w ∧ ∀ j, j < n → lane v e j = lane (s.rdV a) e (lane (s.rdV b) e j % n)) ∧
  WritesV (.vbcast w t d a p) s d (LanesAre n e (s.rdP p) (s.rdV d) fun _ => (s.rdS a).toNat) ∧
  WritesV (.viota w t d a p) s d (LanesAre n e (s.rdP p) (s.rdV d) fun j => (s.rdS a).toNat + j) ∧
  WritesV (.vmovv w d a p) s d (LanesAre (widBits w / 8) 8 (s.rdP p) (s.rdV d) fun j => lane (s.rdV a) 8 j) ∧
  WritesS (.vmovsExtract w t d a k) s d (if itySigned t then (BitVec.ofNat e (lane (s.rdV a) e k.toNat)).signExtend 64
    else (BitVec.ofNat e (lane (s.rdV a) e k.toNat)).zeroExtend 64) ∧
  WritesV (.vmovsInsert w t d a k) s d (fun v => v.toNat < 2 ^ widBits w ∧ ∀ j, j < n →
    lane v e j = if j = k.toNat then (s.rdS a).toNat % 2 ^ e else lane (s.rdV d) e j)) ∧
  (∀ (s : State) (w : Wid) (t : LaneTy) (op : RedOp) (d a : RegNo) (p : BitVec 4),
  let e := laneBits t
  let ls := ((List.range (widBits w / e)).filter fun j => (s.rdP p).toNat.testBit (j * e / 8)).map fun j => lane (s.rdV a) e j
  (∀ i, t = .int i → WritesS (.vreds w t op d a p) s d (match op with
    | .add => BitVec.ofInt 64 ((ls.map (laneInt i)).sum)
    | .min => BitVec.ofInt 64 ((ls.map (laneInt i)).foldl min (ityMax i))
    | .max => BitVec.ofInt 64 ((ls.map (laneInt i)).foldl max (ityMin i))
    | .and => (ls.map fun x => BitVec.ofInt 64 (laneInt i x)).foldl (· &&& ·) (BitVec.allOnes 64)
    | .or => (ls.map fun x => BitVec.ofInt 64 (laneInt i x)).foldl (· ||| ·) 0
    | .xor => (ls.map fun x => BitVec.ofInt 64 (laneInt i x)).foldl (· ^^^ ·) 0)) ∧
  (∀ f, t = .flt f → let vs := ls.map (decodeFP (fpOf (ftyFmt f)))
    (op = .add → vs = [] → WritesS (.vreds w t op d a p) s d 0) ∧
    (op = .add → ∀ x xs, vs = x :: xs → WritesS (.vreds w t op d a p) s d (BitVec.ofNat 64 (finish fpF32 .rne (finov s.src.th.csr.ovt 0) (xs.foldl FVal.add x)))) ∧
    (op = .min → WritesS (.vreds w t op d a p) s d (BitVec.ofNat 64 (toF32 (vs.foldl FVal.min (.inf false))))) ∧
    (op = .max → WritesS (.vreds w t op d a p) s d (BitVec.ofNat 64 (toF32 (vs.foldl FVal.max (.inf true)))))))

/-- R392 to R394: a special function lands eight issues later, merged with the destination's value at issue, each active lane rounded once; its special
inputs give the listed results. -/
def Obligations.SpecialFunctions : Prop := ∀ (s : State) (w : Wid) (t : FTy) (d a : RegNo) (p : BitVec 4),
  let fp := fpOf (ftyFmt t)
  let e := ftyBits t
  let lands (i : Instr) (f : FVal → FVal) : Prop := ∃ v, Lands i s [(.v d.toNat, v)] 1 8 ∧
    LanesAre (widBits w / e) e (s.rdP p) (s.rdV d)
      (fun j => finish fp .rne (finov s.src.th.csr.ovt (ftyCode t)) (f (decodeFP fp (lane (s.rdV a) e j)))) v
  lands (.vexp2 w t d a p) fExp2 ∧ lands (.vlog2 w t d a p) fLog2 ∧ lands (.vrcp w t d a p) fRcp ∧ lands (.vrsq w t d a p) fRsq ∧
  lands (.vtanh w t d a p) fTanh ∧
  (∀ f ∈ [fExp2, fLog2, fRcp, fRsq, fTanh], f .nan = .nan) ∧ fExp2 (.inf true) = .fin false 0 0 ∧ fExp2 (.inf false) = .inf false ∧
  (∀ n k, fExp2 (.fin n 0 k) = .fin false 1 0) ∧ fLog2 (.inf true) = .nan ∧ fLog2 (.inf false) = .inf false ∧ (∀ n k, fLog2 (.fin n 0 k) = .inf true) ∧
  (∀ m k, m ≠ 0 → fLog2 (.fin true m k) = .nan ∧ fRsq (.fin true m k) = .nan) ∧ (∀ k : Int, fLog2 (.fin false 1 k) = ofInteger k) ∧
  (∀ n, (fRcp (.inf n)).isZero = true ∧ (fRcp (.inf n)).neg = n ∧ ∀ k, fRcp (.fin n 0 k) = .inf n ∧ fRsq (.fin n 0 k) = .inf n) ∧
  fRsq (.inf true) = .nan ∧ fRsq (.inf false) = .fin false 0 0 ∧ (∀ n, fTanh (.inf n) = .fin n 1 0 ∧ ∀ k, fTanh (.fin n 0 k) = .fin n 0 0)

/-- R395 to R399: the conversions write what their rule gives where FMTCAP holds both formats, and raise FMT_ABSENT with the syllable where it lacks one.
A lane by lane conversion has one lane for each of the wider width. -/
def Obligations.Conversions : Prop := ∀ (s : State) (w : Wid) (k : Cvt) (r f : Fmt) (md : RMode) (sat : Bool) (d a : RegNo) (p : BitVec 4),
  let th := s.src.th
  ((∀ x ∈ cvtFmts k, th.convOk x = true) → WritesV (.vcvt w k md sat d a p) s d
    (· = cvtValue (widBits w) k md (cvtTable k sat th.csr.ovt) (s.rdP p) (s.rdV d) (s.rdV a))) ∧
  ((∃ x ∈ cvtFmts k, th.convOk x = false) → Traps (.vcvt w k md sat d a p) s Cause.fmtAbsent (BitVec.ofNat 64 (sylWord (.vcvt w k md sat d a p)))) ∧
  (∀ (it : ITy) (g : Nat), g = max (ityBits it) (fmtBits f) → k = .floatInt it f → fmtBits f ∈ [8, 16, 32] → ∀ j, j < widBits w / g →
    lane (cvtValue (widBits w) k md (cvtTable k sat th.csr.ovt) (s.rdP p) (s.rdV d) (s.rdV a)) (ityBits it) j =
      if (s.rdP p).toNat.testBit (j * g / 8) then toInteger it md (decodeFP (fpOf f) (lane (s.rdV a) (fmtBits f) j)) else lane (s.rdV d) (ityBits it) j) ∧
  (th.convOk r = true → th.convOk f = true → WritesV (.vpacksx w r f md sat d a p) s d (· = laneWord (8 * sxBytes r)
    ((packSource (widBits w) (s.rdP p) f (s.rdV a)).map (sxPack r (satTable sat th.csr.ovt (fmtCode r)) md)))) ∧
  (th.convOk r = true → th.convOk f = true → fmtBits r ∈ [16, 32] → WritesV (.vunpk w r f d a) s d fun v => v.toNat < 2 ^ widBits w ∧
    ∀ j, j < widBits w / fmtBits r → lane v (fmtBits r) j = convertTo r th.csr.ovt .rne (blockLane f (s.rdV a).toNat j) % 2 ^ fmtBits r) ∧
  (th.convOk r = false ∨ th.convOk f = false → Traps (.vpacksx w r f md sat d a p) s Cause.fmtAbsent (BitVec.ofNat 64 (sylWord (.vpacksx w r f md sat d a p))) ∧
    Traps (.vunpk w r f d a) s Cause.fmtAbsent (BitVec.ofNat 64 (sylWord (.vunpk w r f d a))))


/-! ## Summaries -/

/-- R402 to R404: an insertion or SKMRG writes the record of its algorithm over the one in qD, lanes in ascending order, and changes nothing else where
it draws no entropy; a record of another kind, or none, is SKETCH_FORMAT. -/
def Obligations.SketchUpdates : Prop := ∀ (s : State) (w : Wid) (t : FTy) (wide : Bool) (d q : BitVec 2) (a : RegNo) (p : BitVec 4),
  let keys (e : Nat) := ((List.range (widBits w / e)).filter fun j => (s.rdP p).toNat.testBit (j * e / 8)).map fun j => lane (s.rdV a) e j
  let puts (i : Instr) (r : SkRec) : Prop := Does i s fun u => u.now.th.rdQ d.toNat = Tab.putBytes (s.rdQ d) 0 (skBytes r) ∧
    (r.head.drew = 0 → s.keeps [.q d.toNat] u)
  let bad (i : Instr) : Prop := Traps i s Cause.sketchFormat (BitVec.ofNat 64 (sylWord i))
  let kb := if wide then 64 else 32
  (∀ r, s.record d = some (.qsk r) →
    puts (.skqin w t d a p) (.qsk (((keys (ftyBits t)).map fun x => toF32 (decodeFP (fpOf (ftyFmt t)) x)).foldl Qsk.insert r))) ∧
  (∀ r, s.record d = some (.hhk r) → puts (.skhin w wide d a p) (.hhk ((keys kb).foldl Hhk.insert r))) ∧
  (∀ r, s.record d = some (.dck r) → puts (.skdin w wide d a p) (.dck ((keys kb).foldl Dck.insert r))) ∧
  (∀ x y r, s.record d = some x → s.record q = some y → skMerge x y = some r → puts (.skmrg d q) r) ∧
  (s.record d = none → bad (.skqin w t d a p) ∧ bad (.skhin w wide d a p) ∧ bad (.skdin w wide d a p) ∧ bad (.skmrg d q)) ∧
  (∀ r, s.record d = some r → (r.kind ≠ .qsk → bad (.skqin w t d a p)) ∧ (r.kind ≠ .hhk → bad (.skhin w wide d a p)) ∧
    (r.kind ≠ .dck → bad (.skdin w wide d a p)) ∧ (∀ y, s.record q = some y → y.kind ≠ r.kind → bad (.skmrg d q)))

/-- R281, R291, R296, R299, R405, R406: a query lands its results eight issues later and changes nothing else; SKCLR writes a cleared record, the bytes
beyond it zero, and CLRN goes up by one unless the bundle's S slot has written SKCTL. -/
def Obligations.SketchQueriesAndClear : Prop := ∀ (s : State) (d c : RegNo) (q : BitVec 2) (b : RegNo) (k : SkKind),
  let y := s.rdS b
  let two (x z : Nat) : List (Reg × VWord) := [(.s d.toNat, BitVec.ofNat 1024 (x % 2 ^ 64)), (.s c.toNat, BitVec.ofNat 1024 (z % 2 ^ 64))]
  (∀ r, s.record q = some (.qsk r) →
    Lands (.skqry d q b) s [(.s d.toNat, BitVec.ofNat 1024 (r.quantile (y.toNat % 2 ^ 32) % 2 ^ 64))] 1 8 ∧
    Lands (.skrnk d q b) s [(.s d.toNat, BitVec.ofNat 1024 (r.rank (y.toNat % 2 ^ 32) % 2 ^ 64))] 1 8 ∧
    Traps (.skest d c q b) s Cause.sketchFormat (BitVec.ofNat 64 (sylWord (.skest d c q b)))) ∧
  (∀ r, s.record q = some (.hhk r) →
    (∀ e ∈ r.es, r.es.find? (fun x => x.1 == y.toNat) = some e → Lands (.skest d c q b) s (two e.2.1 ((e.2.1 + 2 ^ 64 - e.2.2) % 2 ^ 64)) 1 8) ∧
    ((∀ e ∈ r.es, e.1 ≠ y.toNat) → Lands (.skest d c q b) s (two r.minc 0) 1 8) ∧
    (∀ e, r.es[y.toNat]? = some e → Lands (.sktop d c q b) s (two e.1 (e.2.1 + e.2.2 * 2 ^ 32)) 1 8) ∧
    (r.es.length ≤ y.toNat → Lands (.sktop d c q b) s (two 0 0) 1 8)) ∧
  (∀ r, s.record q = some (.dck r) → Lands (.skest d c q b) s (two r.estimate r.h.n) 1 8 ∧
    Traps (.sktop d c q b) s Cause.sketchFormat (BitVec.ofNat 64 (sylWord (.sktop d c q b)))) ∧
  (let n := (fld s.src.th.csr.skctl.toNat 32 32 + s.now.th.u.ir.clears) % 2 ^ 32
   Does (.skclr k q) s fun t => s.sameOutside t ∧
    (∀ o, Tab.get 0 (t.now.th.rdQ q.toNat) o = ((skClear k s.src.th.csr.skseed n (s.src.th.csr.skctl.getLsbD 0))[o]?).getD 0) ∧
    (∀ x, x ≠ q.toNat → t.now.th.rdQ x = s.now.th.rdQ x) ∧ (∀ x, t.now.th.rdS x = s.now.th.rdS x) ∧
    t.now.th.u.ir.clears = s.now.th.u.ir.clears + 1 ∧
    (s.now.th.u.ir.skctlSet = false → fld t.now.th.csr.skctl.toNat 32 32 = (n + 1) % 2 ^ 32 ∧
      fld t.now.th.csr.skctl.toNat 0 32 = fld s.src.th.csr.skctl.toNat 0 32) ∧
    (s.now.th.u.ir.skctlSet = true → t.now.th.csr = s.now.th.csr))

/-- R329, R330: gf_mul(a, b) is the remainder of the carry-less product modulo 0x11D; mix64 is the three xor-shifts and two products given, modulo 2^64;
it is a bijection on 64 bits, and mix64(0) is 0. -/
def Obligations.MixAndFieldProduct : Prop :=
  let carryless (x y : Nat) : Nat := (List.range 8).foldl (fun z i => if y.testBit i then z ^^^ (x <<< i) else z) 0
  (∀ a b, a < 256 → b < 256 → gfMul a b < 256 ∧ ∃ q, q < 256 ∧ carryless a b = gfMul a b ^^^ carryless 0x11D q) ∧
  gfMul 0xA6 0x05 = 0x04 ∧ gfMul 0x80 0x02 = 0x1D ∧
  (∀ x : Word64, mix64 x = let y := (x ^^^ (x >>> 31)) * 0x7FB5D329728EA185
    let z := (y ^^^ (y >>> 27)) * 0x81DADEF4BC2DD44D
    z ^^^ (z >>> 33)) ∧
  (∀ x y, mix64 x = mix64 y → x = y) ∧ (∀ y, ∃ x, mix64 x = y) ∧ mix64 0 = 0

/-- R297: while SAT is 0, a heavy-hitter list built by insertions bounds every key's weight: COUNT − OVER ≤ f(x) ≤ COUNT for a key it holds, f(x) ≤ MINC
for one it does not, and the counts sum to at most N. -/
def Obligations.HeavyHitterBounds : Prop := ∀ (h : SkHead) (l : List Nat),
  let r := l.foldl Hhk.insert ⟨{ h with sat := false, n := 0 }, []⟩
  r.h.sat = false →
    (∀ e ∈ r.es, e.2.1 - e.2.2 ≤ l.count e.1 ∧ l.count e.1 ≤ e.2.1) ∧ (∀ x, (∀ e ∈ r.es, e.1 ≠ x) → l.count x ≤ r.minc) ∧
    (r.es.map fun e => e.2.1).sum ≤ r.h.n ∧ r.es.length ≤ 60

/-- R298: register M[j] stands at byte 64 + j of a record, and bytes 32 to 63 are zero; an insertion counts N and raises the register its hash names to
one more than the leading zeros of the rest; a merge takes the greater of each register and the sum of N, saturated. Merges are associative
and commutative in the registers and N, and insertions commute with each other and with merges. -/
def Obligations.DistinctCountRegisters : Prop := ∀ (a b c : Dck) (x y : Nat),
  let same (u v : Dck) : Prop := u.m = v.m ∧ u.h.n = v.h.n
  let top := 2 ^ 64 - 1
  let hash := (skhash (BitVec.ofNat 64 x)).toNat
  a.m.length = 2048 → b.m.length = 2048 → c.m.length = 2048 → a.h.n < 2 ^ 64 → b.h.n < 2 ^ 64 → c.h.n < 2 ^ 64 →
    (∀ j v : Nat, a.m[j]? = some v → (skBytes (.dck a))[64 + j]? = some (BitVec.ofNat 8 v)) ∧ (∀ j : Nat, 32 ≤ j → j < 64 → (skBytes (.dck a))[j]? = some 0) ∧
    (a.insert x).h.n = Nat.min top (a.h.n + 1) ∧
    (∃ z, z ≤ 53 ∧ hash % 2 ^ 53 < 2 ^ (53 - z) ∧ (z < 53 → 2 ^ (52 - z) ≤ hash % 2 ^ 53) ∧
      ∀ j v : Nat, a.m[j]? = some v → (a.insert x).m[j]? = some (if j = hash / 2 ^ 53 then Nat.max v (z + 1) else v)) ∧
    (a.merge b).h.n = Nat.min top (a.h.n + b.h.n) ∧
    (∀ j u v : Nat, a.m[j]? = some u → b.m[j]? = some v → (a.merge b).m[j]? = some (Nat.max u v)) ∧
    same (a.merge b) (b.merge a) ∧ same ((a.merge b).merge c) (a.merge (b.merge c)) ∧ same ((a.insert x).insert y) ((a.insert y).insert x) ∧
    same ((a.insert x).merge b) ((a.merge b).insert x) ∧ (a.merge a).m = a.m


/-! ## The M slot and the matrix engine -/

/-- R186, R189, R192, R408, R412 to R416, R425 to R432: an M operation enters the M queue with its operands read at issue; its token becomes pending, the
tile it writes busy, and K arms it, the operation armed before being armed no more; nothing else changes. A product whose formats FMTCAP lacks is FMT_ABSENT. MWAIT passes where nothing it names is
busy, and otherwise holds its bundle. -/
def Obligations.MatrixOperationsEnter : Prop := ∀ (s : State) (k cl : Bool) (mt ga gb : BitVec 3) (fa fb : Fmt) (klen : BitVec 10) (sa sb : RegNo) (f : FTy)
    (ea eb ec n : BitVec 4) (c : Word64) (mask : BitVec 8),
  let th := s.src.th
  let x (r : BitVec 4) := th.rdE r.toNat
  let clamp := if cl then some (th.rdE ec.toNat, th.rdE (ec.toNat + 1)) else none
  let enters (i : Instr) (arm : Bool) (kind : MKind) (addr : Word64) (token : RegNo) (tile : List Nat) : Prop := Does i s fun t =>
    s.sameOutside t ∧ (∃ e, t.now.th.x.mq = s.now.th.freeM.x.mq ++ [e] ∧ e.kind = kind ∧ e.addr = addr ∧ e.token = token.toNat ∧ e.header = s.now.th.pc) ∧
    t.now.th.u.busy = tile ++ s.now.th.u.busy ∧ (token ≠ 0 → token.toNat ∈ t.now.th.u.pend) ∧ t.now.th.r = s.now.th.r ∧ t.now.th.csr = s.now.th.csr ∧
    t.now.th.b = s.now.th.b ∧ t.now.th.x.sq = s.now.th.x.sq ∧ t.now.th.x.c1q = s.now.th.x.c1q ∧
    (arm = false → t.now.th.u.armM = none) ∧ (arm = true → ∃ a, t.now.th.u.armM = some a ∧ a.op = i ∧ a.step = 0 ∧ a.base = addr)
  (th.matOk fa fb = true → enters (.mma k mt ga gb fa fb klen) k (.mma mt.toNat ga.toNat gb.toNat fa fb (klen.toNat + 1)) 0 0 [mt.toNat]) ∧
  (th.matOk fa fb = false → Traps (.mma k mt ga gb fa fb klen) s Cause.fmtAbsent (BitVec.ofNat 64 (sylWord (.mma k mt ga gb fa fb klen)))) ∧
  enters (.mzero mt) false (.mzero mt.toNat) 0 0 [mt.toNat] ∧
  enters (.mdrainScratchpad k mt sa sb f ea eb cl ec) k (.mdrain mt.toNat false f (x ea) (x eb) clamp th.csr.ovt) (s.rdS sa) sb [] ∧
  enters (.mdrainGeneric k mt sa sb f ea eb cl ec) k (.mdrain mt.toNat true f (x ea) (x eb) clamp th.csr.ovt) (s.rdS sa) sb [] ∧
  enters (.mldaccScratchpad k mt sa sb) k (.mldacc mt.toNat false) (s.rdS sa) sb [mt.toNat] ∧
  enters (.mldaccGeneric k mt sa sb) k (.mldacc mt.toNat true) (s.rdS sa) sb [mt.toNat] ∧
  enters (.mrcfg ga sa sb) false (.mrcfg ga.toNat (s.rdS sa) (s.rdS sb)) 0 0 [] ∧ enters (.mrpush ga sa) false (.mrpush ga.toNat (s.rdS sa)) 0 0 [] ∧
  enters (.mrpop ga) false (.mrpop ga.toNat) 0 0 [] ∧ enters (.mkat n) false (.mkat n.toNat) 0 0 [] ∧ enters (.mkcmp n c) false (.mkcmp n.toNat c) 0 0 [] ∧
  (mask = 0 → th.x.mq = [] → s.src.gangsOf s.src.focus = false → exec (.mwait mask) s = .next s) ∧
  (mask ≠ 0 → (∀ b ∈ th.u.busy, mask.toNat.testBit b = false) → exec (.mwait mask) s = .next s) ∧
  (∀ b ∈ th.u.busy, mask.toNat.testBit b = true → Does (.mwait mask) s fun t => t.pre = none ∧ t.now.th = s.back.th)

/-- R189, R420 to R424: an MMAG on a crew of two to four members of one cluster, its tile busy in none of them, binds a gang to the crew's next phase and
enters the leader's queue; a bad handle is CREW_HANDLE and any other crew GANG_SHAPE. A partner that has arrived takes its slice; a slice that has
run frees its tile.
The model's choice stands in log entry 34 (a slice takes no place of the partner's queue). -/
def Obligations.GangedProducts : Prop := ∀ (s : State) (k : Bool) (mt ga gb : BitVec 3) (fa fb : Fmt) (klen : BitVec 10) (sa : RegNo) (l : List Nat)
    (g : Nat) (x : Gang) (c1 : Nat) (r : Option Cause),
  let h := s.rdS sa
  let m := s.now
  let i := Instr.mmag k mt ga gb fa fb klen sa
  (s.src.th.matOk fa fb = true → m.crewOk m.focus h true = true → m.gangOf m.focus h.toNat = some l → m.focus ∈ l →
    (∀ c ∈ l, c ≠ m.focus → mt.toNat ∉ (m.ctx c).u.busy) → Does i s fun t =>
      mt.toNat ∈ t.now.th.u.busy ∧ (∃ e ∈ t.now.th.x.mq, e.kind = .mmag mt.toNat ga.toNat gb.toNat fa fb (klen.toNat + 1) m.cx.gangNext ∧ e.addr = h) ∧
      t.now.cx.gangNext = m.cx.gangNext + 1 ∧ (t.now.gang m.cx.gangNext).members = l ∧ (∀ n, t.now.th.rdS n = m.th.rdS n)) ∧
  (s.src.th.matOk fa fb = true → m.crewOk m.focus h true = false → Traps i s Cause.crewHandle h) ∧
  (s.src.th.matOk fa fb = true → m.crewOk m.focus h true = true → m.gangOf m.focus h.toNat = none → Traps i s Cause.gangShape h) ∧
  (s.src.th.matOk fa fb = false → Traps i s Cause.fmtAbsent (BitVec.ofNat 64 (sylWord i))) ∧
  (m.clockHeld m.focus = false → m.cx.gangs = [(g, x)] → x.members = [x.leader, c1] → c1 ≠ x.leader → c1 ∉ x.entered → (m.ctx c1).status = .running →
    (m.ctx c1).launch = (m.crew x.crew).launch → (m.crew x.crew).member (m.ctx c1).tidN ≠ none →
    (m.crew x.crew).arrivedAt (m.ctx c1).tidN x.phase = true → m.active (coreOf c1) = c1 → (m.core (coreOf c1)).exchange = false →
    Does .sliceEnter s fun t => x.mt ∈ (t.now.ctx c1).u.busy ∧ ∃ e ∈ (t.now.ctx c1).x.mq, e.kind = .slice x.leader g 1) ∧
  (m.clockHeld m.focus = false → m.slicePending m.focus = some (g, r) → (m.gang g).members.length ≠ (m.gang g).finished.length + 1 → Does .sliceRetire s fun t =>
    t.now.th.u.busy = m.th.u.busy.erase (m.gang g).mt ∧ (m.focus, r) ∈ (t.now.gang g).finished)

/-- R128, R378, R416 to R419, R425, R430: with the core's clock running, the engine executes the head of the M queue where no page fault, answer, bank
exchange, halt or crew holds it: MZERO clears its tile, MRPOP pops a valid entry, and MMA adds to each element the dot product of a line of each ring's
head entry and pops both. The oldest result retires and frees its tile; a pattern in progress ends; a wait that has lasted WAITLIM cycles of its core
faults; a cluster's sweep ends its suspicion, and one that fails disables its cores.
The model's choice stands in log entries 1, 34 and 60 (each engine step an event, on the context in focus). -/
def Obligations.MatrixEngineSteps : Prop := ∀ (s : State) (e : MEntry) (l : List MEntry) (mt ga gb : Nat) (fa fb : Fmt) (k : Nat) (cl : Nat),
  let m := s.now
  let th := m.th
  let ra := th.ring ga
  let rb := th.ring gb
  let oa := ra.entry (ra.slot ra.head)
  let ob := rb.entry (rb.slot rb.head)
  let runs := (m.core (coreOf m.focus)).frozen = false
  let start := runs ∧ th.x.mq = e :: l ∧ m.mBlocked m.focus e = false
  (e.pf = .none → th.u.pf = .none → m.banked m.focus = false → th.x.mhalt = false → e.remote = none → e.heldOn = [] → m.mBlocked m.focus e = false) ∧
  (start → e.kind = .mzero mt → Does .mExecute s fun t =>
    (∀ n, Tab.get 0 (t.now.th.tile mt) n = 0) ∧ t.now.th.x.retiring = th.x.retiring ++ [mt] ∧ t.now.th.x.mq.length = l.length ∧ (∀ n, t.now.th.rdS n = th.rdS n)) ∧
  (start → e.kind = .mrpop ga → th.ringTest ga = .ready → m.gangHolds m.focus [ga] m.cx.gangNext = false → Does .mExecute s fun t =>
    t.now.th.ring ga = { ra with head := (ra.head + 1) % (2 * ra.n) } ∧ t.now.th.x.mq.length = l.length ∧ (∀ n, n ≠ ga → t.now.th.ring n = th.ring n)) ∧
  (start → e.kind = .mma mt ga gb fa fb k → ga ≠ gb → m.gangHolds m.focus [ga, gb] m.cx.gangNext = false → th.ringTest ga = .ready → th.ringTest gb = .ready →
    ra.headBad = false → rb.headBad = false → ra.layoutBad fa tileSide k = false → rb.layoutBad fb tileSide k = false →
    th.filledAt oa ra.esz = true → th.filledAt ob rb.esz = true → Does .mExecute s fun t =>
      (∀ i j a b, i < tileSide → j < tileSide → (th.image oa ra.span fa tileSide k)[i]? = some a → (th.image ob rb.span fb tileSide k)[j]? = some b →
        Tab.get 0 (t.now.th.tile mt) (i * tileSide + j) = BitVec.ofNat 32 (dotAll e.ovtab (Tab.get 0 (th.tile mt) (i * tileSide + j)).toNat a b)) ∧
      t.now.th.ring ga = ra.pop ∧ t.now.th.ring gb = rb.pop ∧ t.now.th.x.retiring = th.x.retiring ++ [mt] ∧ t.now.th.x.mq.length = l.length ∧
      (∀ n, n ≠ mt → t.now.th.tile n = th.tile n) ∧ (∀ n, t.now.th.rdS n = th.rdS n)) ∧
  (∀ ms, runs → th.x.retiring = mt :: ms → exec .mRetire s =
    .next (s.upd fun th => { th with x := { th.x with retiring := ms }, u := { th.u with busy := th.u.busy.erase mt } })) ∧
  (∀ n, runs → (m.core (coreOf m.focus)).kat = .running n →
    exec .katPatternDone s = .next (s.on fun m => m.modCore (coreOf m.focus) fun c => { c with kat := .result n })) ∧
  (∀ w, m.stallDue m.focus = none → m.mayIssue m.focus = true → th.u.waitFrom = some w → w.1 + th.waitLimit ≤ m.coreClock (coreOf m.focus) →
    exec .waitStall s = .next (s.on fun m => m.takeTrap m.focus ⟨Cause.waitStall, 0, w.2, .P⟩)) ∧
  (∀ n, start → e.kind = .mma mt ga gb fa fb k → th.ringTest ga = .waitRemote → e.since = some n → n + th.waitLimit ≤ m.coreClock (coreOf m.focus) →
    exec .waitStall s = .next (s.on fun m => m.modTh fun t => t.mFault e Cause.waitStall ga)) ∧
  (cl ∈ m.cx.suspect → Does (.knownAnswerSweepComplete cl true) s (fun t => cl ∉ t.now.cx.suspect ∧ t.now.cx.cores = m.cx.cores ∧ s.sameThreads t) ∧
    Does (.knownAnswerSweepComplete cl false) s fun t => cl ∉ t.now.cx.suspect ∧ s.sameThreads t ∧ ∀ j, j < 8 → (t.now.core (8 * cl + j)).disabled = true)



/-! ## The C0 port -/

/-- R192, R209, R235, R437 to R440: at an aligned offset whose blocks are filled, SPLD writes the bytes that C0 loads see, SPLDP those of its active
bytes, SPLDS lands a scale after four issues, and SKLD reads a whole record; nothing else changes, but that K arms. A misaligned offset is ADDR_ALIGN. -/
def Obligations.ScratchpadLoads : Prop := ∀ (s : State) (k : Bool) (w : BitVec 2) (d a : RegNo) (e : BitVec 4) (q : BitVec 2) (p : BitVec 4) (off : BitVec 12)
    (off8 : BitVec 8),
  let th := s.src.th
  let n := c0Width w
  let at_ (x : Int) (unit : Nat) : Nat := (((s.rdS a).toNat + x * unit) % (2 ^ 20 : Int)).toNat
  let o := at_ off.toInt n
  let bytes (o n : Nat) : List Byte := th.c0Bytes o n
  let frame (i : Instr) (ws : List Reg) (t : State) : Prop := s.sameOutside t ∧ t.now.th.r.sp = s.now.th.r.sp ∧ (k = false → s.keeps ws t) ∧
    (k = true → ∃ x, t.now.th.u.armC0 = some x ∧ x.op = i ∧ x.base = s.rdS a ∧ x.step = 0)
  n = [4, 32, 64, 128][w.toNat]! ∧
  (o % n = 0 → th.unfilled o n = none →
    (w = 0 → Does (.spld k w d a off) s fun t => t.now.th.rdS d.toNat = (if d = 0 then 0 else BitVec.ofNat 64 (leNat (bytes o 4))) ∧
      frame (.spld k w d a off) [.s d.toNat] t) ∧
    (w ≠ 0 → Does (.spld k w d a off) s fun t => t.now.th.rdV d.toNat = BitVec.ofNat 1024 (leNat (bytes o n)) ∧ frame (.spld k w d a off) [.v d.toNat] t)) ∧
  (o % n ≠ 0 → Traps (.spld k w d a off) s Cause.addrAlign (BitVec.ofNat 64 (2 ^ 60 + o))) ∧
  (let o := at_ off8.toInt n
   o % n = 0 → th.unfilled o n = none → w ≠ 0 → Does (.spldp k w d a p off8) s fun t => (∀ j, j < n → lane (t.now.th.rdV d.toNat) 8 j =
     if (s.rdP p).toNat.testBit j then (th.c0Bytes (o + j) 1).head!.toNat else lane (s.rdV d) 8 j) ∧ frame (.spldp k w d a p off8) [.v d.toNat] t) ∧
  (let o := at_ off.toInt 4
   (o % 4 = 0 → th.unfilled o 4 = none → Does (.splds k e a off) s fun t => s.sameOutside t ∧ t.now.th.r = s.now.th.r ∧
     t.now.th.u.land = s.now.th.u.land ++ [⟨[(.e e.toNat, BitVec.ofNat 1024 (leNat (bytes o 4)))], 4, 4, none, none, false⟩]) ∧
   (o % 4 ≠ 0 → Traps (.splds k e a off) s Cause.addrAlign (BitVec.ofNat 64 (2 ^ 60 + o)))) ∧
  (let o := at_ off.toInt 64
   (o % 64 = 0 → o + 4096 ≤ 2 ^ 20 → th.unfilled o 4096 = none →
     WritesQ (.skld q a off) s q (Tab.putBytes [] 0 (bytes o 4096))) ∧
   (o % 64 = 0 → 2 ^ 20 < o + 4096 → Traps (.skld q a off) s Cause.addrAperture (BitVec.ofNat 64 (2 ^ 60 + o))) ∧
   (o % 64 ≠ 0 → Traps (.skld q a off) s Cause.addrAlign (BitVec.ofNat 64 (2 ^ 60 + o))))

/-- R192, R226, R235, R437, R439 to R442: at an aligned offset whose blocks are filled, SPST stores its register's low bytes, SPSTP those of its active
bytes, SKST a whole record, and SPADD adds to each 4-byte word; every other byte of the scratchpad, all of memory and every register stay. SPFILL of a
filled block has no effect. -/
def Obligations.ScratchpadStores : Prop := ∀ (s : State) (k : Bool) (w : BitVec 2) (d a : RegNo) (q : BitVec 2) (p : BitVec 4) (ty : SpaTy) (off : BitVec 12)
    (off8 : BitVec 8) (off10 : BitVec 10),
  let th := s.src.th
  let n := c0Width w
  let at_ (x : Int) (unit : Nat) : Nat := (((s.rdS a).toNat + x * unit) % (2 ^ 20 : Int)).toNat
  let data (j : Nat) : Byte := if w = 0 then BitVec.ofNat 8 ((s.rdS d).toNat / 2 ^ (8 * j)) else BitVec.ofNat 8 (lane (s.rdV d) 8 j)
  let stores (i : Instr) (o len : Nat) (new : Nat → Byte) : Prop := Does i s fun t => s.sameOutside t ∧
    (∀ x, t.spByte x = if o ≤ x ∧ x < o + len then new (x - o) else s.spByte x) ∧ (∀ r, t.now.th.rdS r = s.now.th.rdS r) ∧
    (∀ r, t.now.th.rdV r = s.now.th.rdV r) ∧ t.now.th.csr = s.now.th.csr ∧ t.now.th.x = s.now.th.x ∧ t.now.th.pc = s.now.th.pc ∧
    (k = true → i ≠ .skst q a off → ∃ x, t.now.th.u.armC0 = some x ∧ x.op = i ∧ x.base = s.rdS a ∧ x.step = 0)
  (let o := at_ off.toInt n
   (o % n = 0 → th.unfilled o n = none → stores (.spst k w d a off) o n data) ∧
   (o % n ≠ 0 → Traps (.spst k w d a off) s Cause.addrAlign (BitVec.ofNat 64 (2 ^ 60 + o)))) ∧
  (let o := at_ off8.toInt n
   o % n = 0 → th.unfilled o n = none → stores (.spstp k w d a p off8) o n fun j => if (s.rdP p).toNat.testBit j then data j else s.spByte (o + j)) ∧
  (let o := at_ off10.toInt n
   (o % n = 0 → th.unfilled o n = none → stores (.spadd k ty w d a off10) o n
     fun j => ((spaddBytes ty th.csr.ovt (s.now.th.spBytes o n) (wordsOf (s.c0Data w d)))[j]?).getD 0) ∧
   (o % n = 0 → th.unfilled o n = none → ty = .i32 → w = 0 → stores (.spadd k ty w d a off10) o 4
     fun j => BitVec.ofNat 8 ((leNat (s.now.th.spBytes o 4) + (s.rdS d).toNat) % 2 ^ 32 / 2 ^ (8 * j))) ∧
   (o % n ≠ 0 → Traps (.spadd k ty w d a off10) s Cause.addrAlign (BitVec.ofNat 64 (2 ^ 60 + o)))) ∧
  (let o := at_ off.toInt 64
   (o % 64 = 0 → o + 4096 ≤ 2 ^ 20 → th.unfilled o 4096 = none → stores (.skst q a off) o 4096 fun j => Tab.get 0 (s.rdQ q) j) ∧
   (o % 64 = 0 → 2 ^ 20 < o + 4096 → Traps (.skst q a off) s Cause.addrAperture (BitVec.ofNat 64 (2 ^ 60 + o)))) ∧
  (s.now.th.unfilled (at_ off.toInt 4) 1 = none → exec (.spfill false a off) s = .next s ∧
    Does (.spfill true a off) s fun t => s.sameOutside t ∧ t.now.th.r = s.now.th.r ∧ ∃ x, t.now.th.u.armC0 = some x ∧ x.op = .spfill true a off)

/-- R224 to R226, R443, R444: SPMAP refuses a bad entry with REGION_MAP and changes nothing; else, the old entry's dirty blocks written back, it sets the
entry, all of whose blocks are unfilled and clean. SPSYNC writes the dirty blocks of its maps back. A map's window and range hold the same bytes. -/
def Obligations.RegionMapOperations : Prop := ∀ (s : State) (n : BitVec 3) (d a : RegNo) (m1 : Module),
  let th := s.now.th
  let w := (s.rdS d, s.rdS a)
  let dirty (maps : List Nat) := th.b.dirty.filter (th.blockOf maps)
  (mapValid w = true → th.mapBad n.toNat w = true → Traps (.spmap n d a) s Cause.regionMap (n.setWidth 64)) ∧
  ((mapValid w = true → th.mapBad n.toNat w = false) → th.mapFault [n.toNat] = none → s.now.writeBlocks s.now.focus (dirty [n.toNat]) = (m1, none) →
    Does (.spmap n d a) s fun t => t.pre = s.pre ∧ t.now.mm = m1.mm ∧ t.now.th.map n.toNat = (if mapValid w then w else (0, 0)) ∧
      (∀ x, x ≠ n.toNat → t.now.th.map x = m1.th.map x) ∧ t.now.th.r = m1.th.r ∧
      (∀ b ∈ t.now.th.b.filled, b ∈ m1.th.b.filled ∧ ¬(mapValid w = true ∧ mapSp w ≤ b ∧ b < mapSp w + mapBlocks w)) ∧
      (∀ b ∈ t.now.th.b.dirty, ¬(mapValid w = true ∧ mapSp w ≤ b ∧ b < mapSp w + mapBlocks w))) ∧
  (th.mapFault [n.toNat] = none → s.now.writeBlocks s.now.focus (dirty [n.toNat]) = (m1, none) → Does (.spsyncOne n) s fun t => t = ⟨m1, s.pre⟩) ∧
  (th.mapFault [0, 1, 2, 3, 4, 5, 6, 7] = none → s.now.writeBlocks s.now.focus (dirty [0, 1, 2, 3, 4, 5, 6, 7]) = (m1, none) →
    Does .spsyncAll s fun t => t = ⟨m1, s.pre⟩) ∧
  (th.b.dirty = [] → s.now.writeBlocks s.now.focus (dirty [n.toNat]) = (s.now, none)) ∧
  (mapValid w = true → 0 < mapBlocks w → mapSp w + mapBlocks w ≤ 256 → ∀ j, j < mapBlocks w * 4096 →
    mapToVa w (mapSp w * 4096 + j) = mapGva w + j)


/-! ## The C1 port -/

/-- R186, R192, R251, R436, R446, R449, R452, R454, R457 to R461, R463: a C1 operation enters the C1 queue with its registers read at issue; its token
and its destination become pending, K arms it, and CST and CRCN count WCTR; nothing else changes but the token and the issues
in flight of an operation that is armed no more. A job
whose JBIND names a crew binds to it, and a bad handle is CREW_HANDLE.
The model's choice stands in log entry 32 (how a job is bound to a crew). -/
def Obligations.TransportOperationsEnter : Prop := ∀ (s : State) (k sx wide : Bool) (w : BitVec 2) (t a b c d : RegNo) (g : BitVec 3) (off : BitVec 13)
    (op : AmoOp) (sk : SkKind) (cop : BitVec 4) (idx : BitVec 8),
  let th := s.now.th
  let at_ := s.rdS a + BitVec.ofInt 64 off.toInt
  let writer := (th.csr.wctr.toNat + 1) % 2 ^ 24
  let counted := { th.csr with wctr := BitVec.ofNat 64 writer }
  let enters (i : Instr) (arm : Bool) (kind : C1Kind) (addr : Word64) (dest : RegNo) (csr : Csrs) : Prop := Does i s fun u =>
    s.sameOutside u ∧ (∃ e, u.now.th.x.c1q = th.x.c1q ++ [e] ∧ e.kind = kind ∧ e.addr = addr ∧ e.token = t.toNat ∧ e.phase = .queued ∧
      e.serial = th.u.serial ∧ e.user = !th.system ∧ e.bound = none) ∧
    (t ≠ 0 → t.toNat ∈ u.now.th.u.pend) ∧ (dest ≠ 0 → dest.toNat ∈ u.now.th.u.pend) ∧ u.now.th.csr = csr ∧ u.now.th.u.serial = th.u.serial + 1 ∧
    (∀ n, (∀ x, th.u.armC1 = some x → x.token ≠ n) → u.now.th.rdS n = th.rdS n) ∧ (arm = false → u.now.th.u.armC1 = none) ∧
    (arm = true → ∃ x, u.now.th.u.armC1 = some x ∧ x.op = i ∧ x.base = s.rdS a ∧ x.step = 0 ∧ x.token = t.toNat ∧ x.outstanding = 1) ∧
    (arm = false → u.now.th.u.land = th.u.land) ∧ (arm = true → u.now.th.u.land = th.u.land.map fun l => { l with re := false }) ∧
    { u.now.th with
      r := { u.now.th.r with s := th.r.s }, csr := th.csr, x := { u.now.th.x with c1q := th.x.c1q },
      u := { u.now.th.u with pend := th.u.pend, armC1 := th.u.armC1, closing := th.u.closing, land := th.u.land, serial := th.u.serial } } = th
  let jobs : List (Instr × Bool × C1Kind) := [(.cpy k t a, k, .cpy), (.cpyr k t a g, k, .cpyr g.toNat), (.gath k t a, k, .gath), (.scat k t a, k, .scat),
    (.coll t a, false, .coll)]
  let jb := s.src.th.csr.jbind.toNat
  let crew := fld jb 0 10
  let handle : Word64 := BitVec.ofNat 64 crew
  (∀ j ∈ jobs, (bit jb 63 = false → enters j.1 j.2.1 j.2.2 (s.rdS a) 0 th.csr) ∧
    (bit jb 63 = true → s.now.crewOk s.now.focus handle false = true → Does j.1 s fun u => s.now.mm = u.now.mm ∧
      ∃ e, u.now.th.x.c1q = th.x.c1q ++ [e] ∧ e.kind = j.2.2 ∧ e.addr = s.rdS a ∧ e.token = t.toNat ∧
        e.bound = some (crew, (s.now.crew crew).nextOf th.tidN)) ∧
    (bit jb 63 = true → s.now.crewOk s.now.focus handle false = false → Traps j.1 s Cause.crewHandle handle)) ∧
  enters (.rld k sx w t a d off) k (.rld sx (2 ^ w.toNat) d.toNat) at_ d th.csr ∧
  enters (.rst k w t a b off) k (.rst (2 ^ w.toNat) (s.rdS b)) at_ 0 th.csr ∧
  enters (.amo k op wide t a b c d off) k (.amo op wide d.toNat (s.rdS b) (s.rdS c)) at_ d th.csr ∧
  enters (.amoRsc k t a b c d off) k (.rsc d.toNat (s.rdS b) (s.rdS c)) at_ d th.csr ∧
  enters (.skamo sk t a b off) false (.skamo sk (s.rdS b)) at_ 0 th.csr ∧
  enters (.cld t a b d off) false (.cld d.toNat (s.rdS b)) at_ d th.csr ∧
  enters (.cst t a b c d off) false (.cst d.toNat (s.rdS b) (s.rdS c) writer) at_ d counted ∧
  enters (.crcn cop t a b d off) false (.crcn d.toNat cop.toNat (s.rdS b) writer) at_ d counted ∧
  enters (.mcast idx t a b) false (.mcast idx.toNat (s.rdS b)) (s.rdS a) 0 th.csr

/-- R222, R455, R456: RLDT takes a landing entry whose count is that of the leaf's latency class, and its faults are raised at the landing issue in
the order of R455; it changes no other register. The data of a timed load that waits behind no acquire fill its entry and let the core's clock go on.
PFETCH changes nothing but what is armed.
The model's choice stands in log entry 13 (the order of what a landing issue does). -/
def Obligations.TimedLoads : Prop := ∀ (s : State) (k re : Bool) (w : BitVec 2) (a d : RegNo) (off : BitVec 13) (ph : Phys) (m1 : Module) (n sn : Nat)
    (c pa : Nat) (addr : Word64),
  let th := s.now.th
  let at_ := s.rdS a + BitVec.ofInt 64 off.toInt
  let size := 2 ^ w.toNat
  let i := Instr.rldt k w a d off
  let lands (e : Landing) : Prop := Does i s fun t => t.pre = s.pre ∧ t.now.th.csr = th.csr ∧ t.now.th.r.v = th.r.v ∧
    t.now.th.u.land = (if k then th.u.land.map (fun l => { l with re := false }) else th.u.land) ++ [e] ∧
    (∀ n, (∀ x, th.u.armC1 = some x → x.token ≠ n) → t.now.th.rdS n = th.rdS n) ∧
    (k = true → ∃ x, t.now.th.u.armC1 = some x ∧ x.op = i ∧ x.base = s.rdS a)
  let fails (n : Nat) (c : Cause) : Landing := ⟨[], n, 5, some ⟨c, 0, at_, .L⟩, none, k⟩
  let core := coreOf s.now.focus
  let die := dieOfCore core
  let found := translate s.now die (some (clusterOf core)) (s.now.ctx s.now.focus).asid (fld at_.toNat 0 52) .read (!s.src.th.system)
  let cls := fld ph.leaf.w0 54 2
  let count := [64, 64, 512, 4096][cls]!
  let holds := (cls = 1 ∧ homeDie ph.pa = die ∧ fld ph.leaf.w0 52 2 = 1) ∨ (cls = 2 ∧ homeDie ph.pa = die) ∨ cls = 3
  let plain := at_.toNat < 2 ^ 52 ∧ at_.toNat % size = 0
  (aperture at_ ≠ 0 → lands (fails 64 Cause.timedClass)) ∧ (aperture at_ = 0 → at_.toNat % size ≠ 0 → lands (fails 64 Cause.addrAlign)) ∧
  (aperture at_ = 0 → at_.toNat % size = 0 → 2 ^ 52 ≤ at_.toNat → lands (fails 64 Cause.addrAperture)) ∧
  (∀ e, plain → found = .error (.cause e) → lands (fails 64 e)) ∧ (plain → found = .ok (ph, m1) → ¬holds → lands (fails count Cause.timedClass)) ∧
  (plain → found = .ok (ph, m1) → holds → isDevReg ph.pa = true → lands (fails count Cause.devregAccess)) ∧
  (plain → found = .ok (ph, m1) → holds → isDevReg ph.pa = false →
    lands ⟨if d = 0 then [] else [(.s d.toNat, 0)], count, 5, none, some (ph.pa, size, at_, th.u.serial), k⟩) ∧
  (∀ h, plain → found = .error (.snoop h) → Does i s fun t => t.pre = none ∧ t.now.th.pc = s.back.th.pc ∧ h ∈ t.now.mm.snoops) ∧
  (c < 2048 → (s.now.ctx c).u.land = [⟨[(.s d.toNat, 0)], n, 5, none, some (pa, size, addr, sn), re⟩] → s.now.timedWaits c sn = false →
    s.now.held (pa / 64) ≠ .M → pa / 64 ∉ s.now.mm.poison → s.now.cellOf (pa / 64) = none → pa % size = 0 → Does (.timedLoadDataArrival c 0) s fun t =>
      (t.now.ctx c).u.land = [⟨[(.s d.toNat, BitVec.ofNat 1024 (s.now.peekN pa size))], n, 5, none, none, re⟩] ∧
      (t.now.core (coreOf c)).frozen = false ∧ t.now.mm = s.now.mm) ∧
  Does (.pfetch false a off) s (s.becomes Thread.disarmC1) ∧ (th.u.armC1 = none → th.disarmC1 = th) ∧
  (Does (.pfetch true a off) s fun t => s.sameOutside t ∧ t.now.th.r.v = th.r.v ∧ ∃ x, t.now.th.u.armC1 = some x ∧ x.op = .pfetch true a off)

/-- R16, R181, R184, R185, R235, R469: a bundle issue counts the landing entries down and lands those due; a due entry with a fault is raised as its trap,
and one whose data are late freezes the core; an empty issue lands, passes a cycle and issues nothing. QFENCE enters the C1 queue, and
shows to C0 loads every C0 store of an earlier bundle.
The model's choice stands in log entry 13 (the order of what a landing issue does). -/
def Obligations.LandingsAndEmptyIssues : Prop := ∀ (s : State) (d : RegNo) (m : Module) (n sl sn : Nat) (v : VWord) (τ : Trap) (pa size : Nat) (addr : Word64)
    (b : Bundle),
  let th := s.now.th
  (let one (n : Nat) : List Landing := [⟨[(.s d.toNat, v)], n, sl, none, none, false⟩]
   s.pre = some s.now → th.u.land = one (n + 1) → Does .landing s fun t => s.sameOutside t ∧
     (n = 0 → t.now.th.u.land = [] ∧ t.now.th.rdS d.toNat = if d = 0 then 0 else v.setWidth 64) ∧
     (n ≠ 0 → t.now.th.u.land = one n ∧ ∀ r, t.now.th.rdS r = th.rdS r)) ∧
  (s.pre = some s.now → th.u.land = [⟨[], 1, sl, some τ, none, false⟩] → τ.cause ≠ Cause.tmrDiverge →
    Does .landing s fun t => ∃ m0 : Module, m0.th.u.land = [] ∧ m0.th.pc = th.pc ∧ t = ⟨m0.takeTrap m0.focus τ, none⟩) ∧
  (s.pre = some s.now → th.u.land = [⟨[(.s d.toNat, v)], 1, sl, none, some (pa, size, addr, sn), false⟩] →
    Does .landing s fun t => (t.now.core (coreOf s.now.focus)).frozen = true ∧ t.now.cx.ctxs = s.now.cx.ctxs ∧ t.pre = none) ∧
  (s.pre = none → s.now.mayIssue s.now.focus = true → th.u.returning = false → s.now.fetch s.now.focus = (.bundle b, m) →
    (m.th.advance).wantsEmpty b = true → (m.th.u.land.all fun e => e.load.isNone && e.fault.isNone) = true → m.th.u.armM = none →
    m.th.u.armC0 = none → m.th.u.armC1 = none → m.th.room [] = true → Does .emptyIssue s fun t =>
      t.pre = none ∧ t.now.th.pc = m.th.pc ∧ t.now.th.x = m.th.x ∧ t.now.mm = m.mm ∧
      t.now.th.u.land = ((m.th.u.land.map fun e => { e with rem := e.rem - 1 }).filter fun e => e.rem != 0) ∧ t.now.clk.cycle = m.clk.cycle + 1) ∧
  (Does .qfence s fun t => s.sameOutside t ∧ (∃ e, t.now.th.x.c1q = th.x.c1q ++ [e] ∧ e.kind = .qfence ∧ e.phase = .queued) ∧
    (∀ o n, t.now.th.spBytes o n = th.spBytes o n) ∧ ((∀ x ∈ th.r.c0, x.age ≠ 0) → ∀ o n, t.now.th.c0Bytes o n = th.spBytes o n))

/-- R187, R225, R226, R236, R359: with the core's clock running, an LD or ST at the head of the S queue that reaches the own scratchpad or plain HBM reads
or writes exactly its bytes, writes its destination and leaves the queue; a region fill brings a block's bytes; a write-back cleans the oldest
dirty block.
The model's choice stands in log entries 1 and 10 (each completion an event, and the order the model gives them). -/
def Obligations.ScalarAccessesComplete : Prop := ∀ (s : State) (c : Nat) (e : SEntry) (l : List SEntry) (sx : Bool) (d o pa va : Nat) (v : Word64)
    (bs : List Byte) (m1 : Module) (b i : Nat) (mw : Word64 × Word64),
  let m := s.now
  let t := m.ctx c
  let here (u : State) (a n : Nat) (new : Nat → Byte) : Prop := ∀ z, u.byte z = if a ≤ z ∧ z < a + n then new (z - a) else s.byte z
  let pad (u : State) (a n : Nat) (new : Nat → Byte) : Prop := ∀ z, Tab.get 0 (u.now.ctx c).r.sp z = if a ≤ z ∧ z < a + n then new (z - a) else Tab.get 0 t.r.sp z
  let writes (q : Nat) : Byte := BitVec.ofNat 8 (v.toNat / 2 ^ (8 * q))
  let own := m.place c e.user e.addr e.width = .ok (.own o) ∧ m.spReady c e.user true o e.width = .ok ()
  let plain := m.place c e.user e.addr e.width = .ok (.globl va) ∧ m.plainAt (m.acc c e.user false) va e.width pa
  let reads := m.place c e.user e.addr e.width = .ok (.globl va) ∧ ∃ x, m.readsAt (m.acc c e.user false) x va e.width pa
  let head := m.clockHeld c = false ∧ t.x.sq = e :: l ∧ t.pfStopped = false ∧ t.sHeld e = false ∧ e.remote = none ∧ e.pf = .none
  let ends (u : State) : Prop := u.pre = s.pre ∧ (∀ z, z ≠ c → u.now.ctx z = m.ctx z) ∧ (u.now.ctx c).x.sq = l ∧ (u.now.ctx c).x.c1q = t.x.c1q
  let loaded (u : State) (w : Word64) : Prop := (u.now.ctx c).rdS d = (if d = 0 then 0 else w) ∧ d ∉ (u.now.ctx c).u.pend ∧
    ∀ z, z ≠ d → (u.now.ctx c).rdS z = t.rdS z
  (head → e.kind = .load sx d → own → Does (.loadComplete c 0) s fun u => ends u ∧ s.sameBut c u ∧ loaded u (extend sx (t.spBytes o e.width))) ∧
  (head → e.kind = .load sx d → reads → Does (.loadComplete c 0) s fun u => ends u ∧ (∀ z, u.byte z = s.byte z) ∧ loaded u (extend sx (m.peek pa e.width))) ∧
  (head → e.kind = .store v → own → Does (.loadComplete c 0) s fun u => ends u ∧ s.sameBut c u ∧ pad u o e.width writes ∧
    ∀ z, (u.now.ctx c).rdS z = t.rdS z) ∧
  (head → e.kind = .store v → plain → Does (.loadComplete c 0) s fun u => ends u ∧ here u pa e.width writes ∧ (u.now.ctx c).r = t.r) ∧
  (b ∈ t.b.fills → t.mapOfOffset (b * 4096) = some (i, mw) → m.readG (m.acc c (!t.system) false) (mapToVa mw (b * 4096)) 4096 = .ok (bs, m1) →
    Does (.regionFillComplete c b) s fun u => (u.now.ctx c).spBytes (b * 4096) bs.length = bs ∧ b ∈ (u.now.ctx c).b.filled ∧ u.now.mm = m1.mm) ∧
  (fld m.th.csr.rmwbth.toNat 0 9 < m.th.b.dirty.length → m.th.oldestDirty = some b → m.writeBlock m.focus b = .ok m1 →
    Does .regionWriteback s fun u => u = ⟨m1, s.pre⟩ ∧ b ∉ (u.now.ctx m.focus).b.dirty)

/-- R236, R237, R332, R333, R436, R454, R457, R469: with the core's clock running, an RST at the head of the C1 queue starts, and a queue fence with the S
queue empty passes; an RST or RLD that has started and reaches the own scratchpad or plain HBM writes or reads exactly its bytes, and its token
tells it; an AMO at a plain home writes its new value there and keeps the old one for its destination.
The model's choice stands in log entries 1 and 10 (each completion an event, and the order the model gives them). -/
def Obligations.TransportRequestsComplete : Prop := ∀ (s : State) (c : Nat) (j : C1Entry) (jl : List C1Entry) (sx wide : Bool) (d o pa va n : Nat)
    (v x y : Word64) (op : AmoOp),
  let m := s.now
  let t := m.ctx c
  let here (u : State) (a n : Nat) (new : Nat → Byte) : Prop := ∀ z, u.byte z = if a ≤ z ∧ z < a + n then new (z - a) else s.byte z
  let pad (u : State) (a n : Nat) (new : Nat → Byte) : Prop := ∀ z, Tab.get 0 (u.now.ctx c).r.sp z = if a ≤ z ∧ z < a + n then new (z - a) else Tab.get 0 t.r.sp z
  let writes (q : Nat) : Byte := BitVec.ofNat 8 (v.toNat / 2 ^ (8 * q))
  let own (n : Nat) : Prop := m.place c j.user j.addr n = .ok (.own o) ∧ m.spReady c j.user true o n = .ok ()
  let plain (n : Nat) : Prop := m.place c j.user j.addr n = .ok (.globl va) ∧ m.plainAt (m.acc c j.user false) va n pa
  let reads (n : Nat) : Prop := m.place c j.user j.addr n = .ok (.globl va) ∧ ∃ e, m.readsAt (m.acc c j.user false) e va n pa
  let head := m.clockHeld c = false ∧ t.x.c1q = j :: jl ∧ t.pfStopped = false ∧ j.pf = .none ∧ j.armed = false ∧ j.ordered = false
  let others (u : State) : Prop := u.pre = s.pre ∧ ∀ z, z ≠ c → u.now.ctx z = m.ctx z
  let token (u : State) (w : Word64) : Prop := others u ∧ (u.now.ctx c).x.c1q = jl ∧ j.token ∉ (u.now.ctx c).u.pend ∧ (u.now.ctx c).rdS j.token = w
  (head → j.phase = .queued → j.kind = .rst n v → own n → c = m.focus → Does .c1RequestStart s fun u => s.sameBut c u ∧
    (u.now.ctx c).x.c1q = { j with phase := .started, buf := none, pf := .none } :: jl) ∧
  (head → j.kind = .qfence → t.x.sq = [] → c = m.focus → Does .c1RequestStart s (s.becomes fun t => { t with x := { t.x with c1q := jl } })) ∧
  (head → j.phase = .started → j.kind = .rst n v → j.token ≠ 0 → own n → Does (.tokenWrite c 0) s fun u =>
    token u (tokenWord 0 n 0 0) ∧ s.sameBut c u ∧ pad u o n writes) ∧
  (head → j.phase = .started → j.kind = .rst n v → j.token ≠ 0 → plain n → Does (.tokenWrite c 0) s fun u => token u (tokenWord 0 n 0 0) ∧ here u pa n writes) ∧
  (head → j.phase = .started → j.kind = .rld sx n d → j.token ≠ 0 → d ≠ 0 → d ≠ j.token → reads n → Does (.tokenWrite c 0) s fun u =>
    token u (tokenWord 0 n 0 0) ∧ (u.now.ctx c).rdS d = extend sx (m.peek pa n) ∧ d ∉ (u.now.ctx c).u.pend ∧ ∀ z, u.byte z = s.byte z) ∧
  (let n := if wide then 8 else 4
   let old := m.peekN pa n
   head → j.phase = .started → j.kind = .amo op wide d x y → j.addr.toNat < 2 ^ 52 → j.addr.toNat % n = 0 → plain n →
     Does (.homeOperation c 0) s fun u => others u ∧
       here u pa n (fun q => BitVec.ofNat 8 (amoNew op n old (x.toNat % 2 ^ (8 * n)) (y.toNat % 2 ^ (8 * n)) / 2 ^ (8 * q))) ∧
       ∃ k, (u.now.ctx c).x.c1q = k :: jl ∧ k.phase = .done 0 n 0 0 ∧ k.value = some (amoOld op n old) ∧ k.token = j.token)

/-- R161 to R164, R332, R333, R445, R447: with the core's clock running, a job at the head of the C1 queue whose descriptor has been read starts, and a bad
descriptor is DESC_FORMAT; a copy of one element from plain HBM to the own scratchpad moves exactly its bytes; a job that has come to its end
writes its token, and one that failed leaves its footprint for the jobs that have an edge to it.
The model's choice stands in log entries 24 and 31 (the order of a job's elements, and the order of starts). -/
def Obligations.JobsComplete : Prop := ∀ (s : State) (c : Nat) (j : C1Entry) (jl : List C1Entry) (o pa va n : Nat) (cd : CopyDesc) (st : Nat) (cz : Cause)
    (det : BitVec 25) (bs : List Byte) (m1 : Module),
  let m := s.now
  let t := m.ctx c
  let pad (u : State) (a n : Nat) (new : Nat → Byte) : Prop := ∀ z, Tab.get 0 (u.now.ctx c).r.sp z = if a ≤ z ∧ z < a + n then new (z - a) else Tab.get 0 t.r.sp z
  let own (a : Word64) (n : Nat) : Prop := m.place c j.user a n = .ok (.own o) ∧ m.spReady c j.user true o n = .ok ()
  let reads (a : Word64) (n : Nat) : Prop := m.place c j.user a n = .ok (.globl va) ∧ ∃ e, m.readsAt (m.acc c j.user false) e va n pa
  let head := m.clockHeld c = false ∧ t.x.c1q = j :: jl ∧ t.pfStopped = false ∧ j.pf = .none ∧ j.armed = false
  let token (u : State) (w : Word64) : Prop := u.pre = s.pre ∧ (∀ z, z ≠ c → u.now.ctx z = m.ctx z) ∧ (u.now.ctx c).x.c1q = jl ∧
    j.token ∉ (u.now.ctx c).u.pend ∧ (u.now.ctx c).rdS j.token = w
  (head → j.kind = .cpy → j.phase = .queued → j.known = true → t.x.failed = [] → (jl.filter C1Entry.running).length < 4 →
    Does (.jobStart c 0) s fun u => s.sameBut c u ∧ (u.now.ctx c).x.c1q = { j with phase := .started, slot := none } :: jl) ∧
  (head → j.kind = .cpy → j.phase = .queued → j.known = false → m.sourceBytes c j j.addr 128 64 = .ok (bs, m1) → m1.ctx c = t → j.kind.parse bs = none →
    Does (.jobStart c 0) s fun u => u.pre = s.pre ∧ u.now.mm = m1.mm ∧
      (u.now.ctx c).x.c1q = { j with known := true, phase := .done 2 0 Cause.descFormat 0 } :: jl) ∧
  (head → j.kind = .cpy → j.phase = .started → j.slot = none → j.bound = none → j.next = 0 → j.count = 0 → j.buf = none → j.token ≠ 0 →
    j.kind.parse j.desc = some (.copy cd) → cd.iters = 1 → reads (BitVec.ofNat 64 (cd.elem 0).1) cd.size →
    own (BitVec.ofNat 64 (cd.elem 0).2) cd.size → Does (.jobComplete c 0) s fun u => token u (tokenWord 0 cd.size 0 0) ∧
      pad u o cd.size (fun q => s.byte (pa + q)) ∧ ∀ z, u.byte z = s.byte z) ∧
  (head → j.kind = .gath → j.phase = .done st n cz det → j.bound = none → j.slot = none → j.token ≠ 0 → Does (.jobComplete c 0) s fun u =>
    token u (tokenWord st n cz det) ∧ s.sameBut c u ∧ (u.now.ctx c).x.failed = t.x.failed ++ if st = 0 then [] else [(none, j.reads, j.writes)])


/-! ## Coding groups -/

/-- R69, R71, R76, R79, R86, R87, R486 to R491: a round instruction of a thread whose group is valid, not fenced and not lost answers its round
status word and does what R488 gives it; sD alone is written. No slot is GROUP_CONFIG, a lost group is GROUP_LOST; the word's fields are those of R487.
The model's choice stands in log entries 47 and 48 (refusals and answers that no rule settles). -/
def Obligations.RoundInstructions : Prop := ∀ (s : State) (d a b : RegNo) (k : BitVec 6) (slot pa : Nat) (h : RoundHold) (v : Word64) (e : TlbEntry)
    (pages : List (Nat × Nat × Leaf)),
  let th := s.now.th
  let g := s.now.group slot
  let n := (s.rdS b).toNat
  let after (t : State) : Group := t.now.group slot
  let keeps (t : State) : Prop := (∀ x, x ≠ d.toNat → t.now.th.rdS x = th.rdS x) ∧ t.now.th.r.v = th.r.v ∧ t.now.th.r.sp = th.r.sp ∧ t.now.th.csr = th.csr ∧
    t.now.th.x = th.x ∧ t.now.th.pc = th.pc
  let answers (i : Instr) (st : Nat) (refused : Bool) (c : Cause) (round : Nat) (P : State → Prop) : Prop := Does i s fun t => keeps t ∧ P t ∧
    ∃ w : Word64, t.now.th.rdS d.toNat = (if d = 0 then 0 else w) ∧ fld w.toNat 61 3 = st ∧ bit w.toNat 60 = refused ∧ fld w.toNat 48 7 = c.toNat ∧
      fld w.toNat 0 48 = round
  let clear := s.now.sAhead s.now.focus ⟨.load false 0, 16, s.rdS b, .none, !s.src.th.system, none, 0⟩ th.x.sq = true
  let marked (t : State) : Prop := after t = { g with err := true, errCause := Cause.groupRegion } ∧ (∀ z, z ≠ slot → t.now.group z = s.now.group z) ∧
    ∀ z, t.byte z = s.byte z
  let still (t : State) : Prop := t.now.groups = s.now.groups ∧ ∀ z, t.byte z = s.byte z
  let fresh := s.now.recorded s.now.focus = none
  let named := fresh ∧ (s.rdS a).toNat < 2 ^ 16 ∧ s.now.slotOf (s.rdS a).toNat th.asid = some slot
  let ready := named ∧ g.fenced = false ∧ g.lost = false
  let r := g.round % 2 ^ 48
  let decided := g.state = 3 ∨ g.state = 4
  let idle := s.back.th.u.roundHold = none
  let logged := if g.state = 4 ∧ g.logs g.round = true then BitVec.ofNat 7 (fld (g.log g.round).toNat 52 7) else 0
  let ops : List Instr := [.ropen d a b, .rprep d a, .rcmt d a, .rstat d a b, .protr d a b k]
  let w0 := s.now.peekN pa 8
  let w1 := s.now.peekN (pa + 8) 8
  let reads := ready ∧ decided ∧ clear ∧ n % 8 = 0 ∧ n < 2 ^ 52 ∧ s.now.readsAt (s.now.acc s.now.focus (!s.src.th.system) false) e n 16 pa
  (∀ i ∈ ops, fresh → 2 ^ 16 ≤ (s.rdS a).toNat → answers i 7 true Cause.groupConfig 0 still) ∧
  (∀ i ∈ ops, fresh → s.now.slotOf (s.rdS a).toNat th.asid = none → answers i 7 true Cause.groupConfig 0 still) ∧
  (∀ i ∈ ops, named → g.fenced = false → g.lost = true → idle → answers i (g.state % 8) true Cause.groupLost r still) ∧
  (ready → decided → g.degraded = false → g.rebuilding = false → n = g.round + 1 → n < 2 ^ 48 → answers (.ropen d a b) 0 false 0 n fun t =>
    (after t).round = n ∧ (after t).state = 0 ∧ (after t).retain = bit g.cfg.toNat 40 ∧ (after t).retained = g.retained) ∧
  (ready → g.state = 0 → n = g.round → answers (.ropen d a b) 0 false 0 r still) ∧
  (ready → decided → g.degraded = true → answers (.ropen d a b) (g.state % 8) true Cause.groupDegraded r still) ∧
  (ready → decided → g.degraded = false → g.rebuilding = false → n ≠ g.round + 1 → answers (.ropen d a b) (g.state % 8) true Cause.roundClosed r still) ∧
  (ready → ¬decided → ¬(g.state = 0 ∧ n = g.round) → answers (.ropen d a b) (g.state % 8) true Cause.roundClosed r still) ∧
  (ready → g.state = 0 → th.releasing = false → g.isData = false → g.vote = none → answers (.rprep d a) 2 false 0 r fun t => (after t).state = 2) ∧
  (ready → g.state = 0 → th.releasing = false → g.isData = true → g.vote = none → g.pmap = [] → g.chain = [] → g.deltas = [] →
    answers (.rprep d a) 2 false 0 r fun t => (after t).state = 2) ∧
  (ready → g.state = 1 ∨ g.state = 2 → th.releasing = false → answers (.rprep d a) g.state false 0 r still) ∧
  (ready → decided → th.releasing = false → answers (.rprep d a) g.state true Cause.roundClosed r still) ∧
  (ready → th.releasing = true → Does (.rprep d a) s fun t => t.pre = none ∧ t.now.groups = s.back.groups ∧ ∀ c, t.now.ctx c = s.back.ctx c) ∧
  (ready → decided → idle → answers (.rcmt d a) g.state false logged r still) ∧
  (ready → s.back.th.u.roundHold = some { h with answer := some v } → Does (.rcmt d a) s fun t => keeps t ∧ still t ∧
    t.now.th.rdS d.toNat = (if d = 0 then 0 else v) ∧ t.now.th.u.roundHold = none) ∧
  (ready → s.back.th.u.roundHold = some { h with answer := none } → Does (.rcmt d a) s fun t => t.pre = none ∧ ∀ c, t.now.ctx c = s.back.ctx c) ∧
  (ready → s.rdS b = BitVec.allOnes 64 → answers (.rstat d a b) (g.state % 8) false logged r still) ∧
  (ready → s.rdS b ≠ BitVec.allOnes 64 → 2 ^ 48 ≤ n → answers (.rstat d a b) (g.state % 8) true Cause.roundClosed r still) ∧
  (ready → n < 2 ^ 48 → g.logs n = false → answers (.rstat d a b) 7 false 0 n still) ∧
  (ready → n < 2 ^ 48 → g.logs n = true → answers (.rstat d a b) (fld (g.log n).toNat 61 3) false
    (if fld (g.log n).toNat 61 3 = 4 then BitVec.ofNat 7 (fld (g.log n).toNat 52 7) else 0) n still) ∧
  (th.queue < 60 → Traps (.rrevoke d a b) s Cause.privInstr (BitVec.ofNat 64 (sylWord (.rrevoke d a b)))) ∧
  (60 ≤ th.queue → ready → idle → g.mayRevoke (n % 2 ^ 48) = false → answers (.rrevoke d a b) (g.state % 8) true Cause.roundClosed r still) ∧
  (60 ≤ th.queue → ready → s.back.th.u.roundHold = some { h with answer := some v } → Does (.rrevoke d a b) s fun t => keeps t ∧ still t ∧
    t.now.th.rdS d.toNat = if d = 0 then 0 else v) ∧
  (60 ≤ th.queue → ready → idle → s.pre = some s.now → g.mayRevoke n = true → g.round = n → n < 2 ^ 48 → g.others ≠ [] → Does (.rrevoke d a b) s fun t =>
    t.pre = none ∧ (after t).revoking = some (n, g.others) ∧ (after t).retained = none ∧ (after t).state = 4 ∧
      ∃ x, t.now.th.u.roundHold = some x ∧ x.round = n ∧ x.answer = none) ∧
  (reads → bit w0 63 = false → answers (.protr d a b k) g.state false logged r fun t => (after t).regionValid k.toNat = false ∧
    ∀ x l, (after t).lineAt x = some l → nameRegion l ≠ k.toNat) ∧
  (reads → bit w0 63 = true → fld w1 0 30 = 0 → answers (.protr d a b k) g.state true Cause.groupRegion r marked) ∧
  (reads → bit w0 63 = true → s.now.regionPages g (fld w0 6 46 * 64) (fld w1 0 30) = none →
    answers (.protr d a b k) g.state true Cause.groupRegion r marked) ∧
  (reads → bit w0 63 = true → s.now.regionPages g (fld w0 6 46 * 64) (fld w1 0 30) = some pages → s.now.overlaps slot k.toNat pages = true →
    answers (.protr d a b k) g.state true Cause.groupRegion r marked) ∧
  (ready → ¬clear → Does (.protr d a b k) s fun t => t.pre = none ∧ t.now.groups = s.back.groups ∧ ∀ c, t.now.ctx c = s.back.ctx c) ∧
  (reads → bit w0 63 = true → fld w1 0 30 ≠ 0 → s.now.regionPages g (fld w0 6 46 * 64) (fld w1 0 30) = some pages →
    s.now.overlaps slot k.toNat pages = false → g.isData = true → slot < 8 → answers (.protr d a b k) g.state false logged r fun t =>
      (after t).regionValid k.toNat = true ∧ (after t).regionInit k.toNat = true ∧ (after t).regionBase k.toNat = fld w0 6 46 * 64 ∧
      (after t).regionLines k.toNat = fld w1 0 30) ∧
  (ready → ¬decided → clear → n % 8 = 0 → n < 2 ^ 52 → s.now.readsAt (s.now.acc s.now.focus (!s.src.th.system) false) e n 16 pa →
    answers (.protr d a b k) (g.state % 8) true Cause.roundClosed r still)


/-! ## Stations, ports and tables -/

/-- R30, R34, R36, R37, R47, R48, R50 to R52, R121, R229, R464 to R467, R505: what a station delivers, answers and times out; a request of another module
reads or writes exactly what the import table admits, or its cause is answered; lanes lost retrain to a narrower width; arrivals of collectives land in
their window or ring; the import and multicast tables change as written.
The model's choice stands in log entries 23, 41 and 56 (one packet an event, the fields of answers, parts of a request). -/
def Obligations.StationTraffic : Prop := ∀ (s : State) (n seq lane src id off len pa i c k : Nat) (ok thr : Bool) (p : Packet) (bs : List Byte) (e : TlbEntry)
    (w0 w1 v : Word64) (span : BitVec 3) (x : BitVec 48) (q : TunnelMsg) (j : C1Entry) (entry : BitVec 10) (idx : BitVec 8),
  let m := s.now
  let st := m.station n
  let t := m.ctx c
  let sends (u : State) (p : Packet) : Prop := ∃ o, u.now.fb.outbox.getLast? = some o ∧ o.dev = src ∧ o.packet = p
  let here (u : State) (new : Nat → Byte) : Prop := ∀ z, u.byte z = if pa ≤ z ∧ z < pa + len then new (z - pa) else s.byte z
  let failed (l : Nat) : Prop := l ∈ st.failed
  let whole := m.carries = true ∧ m.fb.parked = [] ∧ 0 < len ∧ off + len ≤ tunnelBase
  let found := m.importAt off = some (i, w0, w1) ∧ off + len ≤ impBase w0 + impLen w0 ∧ (bit w1.toNat 10 = true ∨ fld w1.toNat 0 10 = src)
  let va := fld w1.toNat 16 36 * 65536 + (off - impBase w0)
  let clear := m.fb.chunks = [] ∧ m.fb.spilled = [] ∧ m.fb.heldChunks = []
  let waits := t.x.c1q = [j] ∧ j.armed = false
  let ended (u : State) (st n : Nat) (cz : Cause) : Prop := (u.now.ctx c).x.c1q = [{ j with phase := .done st n cz 0 }] ∧ ∀ z, z ≠ c → u.now.ctx z = m.ctx z
  (n < 36 → m.carries = true → st.down = false → st.refused = false → st.retraining = false →
    (∀ req, Does (.packetReceive n st.delivered true (.request src id off thr req)) s fun u =>
      u.now.agenda = .event (.remoteRequest ⟨src, thr⟩ id off req) :: m.agenda ∧
      (u.now.station n).delivered = st.delivered + 1 ∧ u.now.cx = m.cx ∧ u.now.mm = m.mm) ∧
    (q.areaRsp = true → bit q.kind.toNat 7 = true → Does (.packetReceive n st.delivered true (.tunnel q)) s fun u => u.now.agenda = .event (.tunnelResponse q) :: m.agenda) ∧
    (q.areaRsp = true → bit q.kind.toNat 7 = false → Does (.packetReceive n st.delivered true (.tunnel q)) s fun u => ∃ o r,
      u.now.fb.outbox.getLast? = some o ∧ o.dev = q.areaSrc.toNat ∧ o.packet = .tunnel r ∧ r.flags = 1 ∧ r.payload = leBytes Cause.remoteKind.toNat 4) ∧
    (seq ≠ st.delivered ∨ ok = false → exec (.packetReceive n seq ok p) s = .next s)) ∧
  (n < 36 → m.carries = false ∨ st.down = true ∨ st.refused = true ∨ st.retraining = true → exec (.packetReceive n seq ok p) s = .next s) ∧
  (36 ≤ n → exec (.packetReceive n seq ok p) s = .fault .noSuchUnit ∧ exec (.laneLoss n lane) s = .fault .noSuchUnit ∧
    exec (.retrainComplete n) s = .fault .noSuchUnit) ∧
  (n < 36 → lane < 4 → Does (.laneLoss n lane) s fun u => lane ∈ (u.now.station n).failed ∧ (u.now.station n).retraining = true ∧
    (u.now.station n).reported = st.delivered ∧
    (∀ z, z ≠ n → u.now.station z = m.station z) ∧ u.now.cx = m.cx ∧ u.now.mm = m.mm) ∧
  (n < 36 → st.retraining = true →
    ((∀ l, l < 4 → ¬failed l) → Does (.retrainComplete n) s fun u => (u.now.station n).width = 4 ∧ (u.now.station n).lanes = [0, 1, 2, 3] ∧
      (u.now.station n).retraining = false) ∧
    ((failed 0 ∨ failed 1) → ¬failed 2 → ¬failed 3 → Does (.retrainComplete n) s fun u => (u.now.station n).width = 2 ∧ (u.now.station n).lanes = [2, 3] ∧
      (u.now.station n).retraining = false) ∧
    ((failed 2 ∨ failed 3) → ¬failed 0 → ¬failed 1 → Does (.retrainComplete n) s fun u => (u.now.station n).width = 2 ∧ (u.now.station n).lanes = [0, 1] ∧
      (u.now.station n).retraining = false) ∧
    ((failed 0 ∨ failed 1) → (failed 2 ∨ failed 3) → lane < 4 → ¬failed lane → (∀ l, l < lane → failed l) → Does (.retrainComplete n) s fun u =>
      (u.now.station n).width = 1 ∧ (u.now.station n).lanes = [lane] ∧ (u.now.station n).retraining = false) ∧
    (failed 0 → failed 1 → failed 2 → failed 3 → Does (.retrainComplete n) s fun u => (u.now.station n).down = true)) ∧
  (whole → found → bit w0.toNat 62 = true → m.readsAt (m.remoteAcc thr) e va len pa → Does (.remoteRequest ⟨src, thr⟩ id off (.read len)) s fun u =>
    sends u (.completion id 0 len (m.peek pa len) false) ∧ (∀ z, u.byte z = s.byte z) ∧ u.now.cx = m.cx) ∧
  (whole → found → bit w0.toNat 61 = true → bs.length = len → m.plainAt (m.remoteAcc thr) va len pa → Does (.remoteRequest ⟨src, thr⟩ id off (.write bs)) s fun u =>
    sends u (.completion id 0 len [] false) ∧ here u (fun z => bs.getD z 0) ∧ u.now.cx = m.cx) ∧
  (whole → m.importAt off = none → Does (.remoteRequest ⟨src, thr⟩ id off (.read len)) s fun u => sends u (.completion id Cause.remoteUnmapped.toNat 0 [] false) ∧
    u.now.mm = m.mm) ∧
  (whole → found → bit w0.toNat 61 = false → bs.length = len → Does (.remoteRequest ⟨src, thr⟩ id off (.write bs)) s fun u =>
    sends u (.completion id Cause.remotePerm.toNat 0 [] false) ∧ u.now.mm = m.mm) ∧
  (m.carries = false → ∀ i ∈ [Instr.remoteRequest ⟨src, thr⟩ id off (.read len), .remotePostArrival src off ok x, .remoteReadDrop src,
    .windowArrival src id off bs, .ringChunkArrival src id k span off bs], exec i s = .next s) ∧
  (m.carries = true → src < 1024 → 2048 ≤ n → n < 4096 →
    (Does (.remotePostArrival src (postBase + 8 * n) false x) s fun u => u.now.counter n = Nat.min (2 ^ 48 - 1) (m.counter n + x.toNat)) ∧
    Does (.remotePostArrival src (postBase + 8 * n) true x) s fun u => u.now.counter n = Nat.max (m.counter n) x.toNat) ∧
  (src < 1024 → n < 2048 ∨ 4096 ≤ n → ∀ isMax, exec (.remotePostArrival src (postBase + 8 * n) isMax x) s = .next s) ∧
  (m.carries = true → Does (.remoteReadDrop src) s fun u => u.now.mm = m.mm ∧
    ∀ k a, Tab.get none (u.now.core k).ro a = if a / 2 ^ 48 = src then none else Tab.get none (m.core k).ro a) ∧
  (waits → (∃ y, j.kind = .skamo .dck y) → m.carries = true → q.areaRsp = true → bit q.kind.toNat 7 = true → fld q.src.toNat 0 10 = q.areaSrc.toNat →
    bit q.flags.toNat 0 = false → Tab.get .none m.fb.pending (fld q.tag.toNat 0 15) = .tunnel c j.serial n → Does (.tunnelResponse q) s fun u =>
      ended u 0 (skSize .dck) 0 ∧ Tab.get .none u.now.fb.pending (fld q.tag.toNat 0 15) = .none) ∧
  (waits → (∃ z y, j.kind = .rst z y) → (∃ z, j.phase = .remote z) → Tab.get .none m.fb.pending id = .access c j.serial n →
    (n + Nat.max 1 (fld t.csr.frlim.toNat 0 32) ≤ m.coreClock (coreOf c) → (∀ g, g < 8 → (m.group g).valid = false) → Does (.remoteTimeout id) s fun u => ended u 2 0 Cause.remoteTimeout ∧
      Tab.get .none u.now.fb.pending id = .none) ∧
    (m.coreClock (coreOf c) < n + Nat.max 1 (fld t.csr.frlim.toNat 0 32) → exec (.remoteTimeout id) s = .next s)) ∧
  (let o := fld off 0 20
   m.carries = true → m.receiver (fld (off - winBase) 28 10) = some c → t.status ≠ .empty →
    (bit t.csr.cwin.toNat 63 = false → Does (.windowArrival src id off bs) s fun u => sends u (.completion id Cause.collReject.toNat 0 [] false) ∧ u.now.cx = m.cx) ∧
    (bit t.csr.cwin.toNat 63 = true → fld t.csr.cwin.toNat 50 6 = fld off 20 6 → fld (off - winBase) 26 2 = 0 → bs.length = 4 →
      o + 4 ≤ t.winTiles * t.winTile → t.winLo + t.winTiles * t.winTile ≤ t.winFlag → t.winFlag + 8 * t.winTiles ≤ 2 ^ 20 →
      t.unfilled (t.winLo + o) 4 = none → t.unfilled t.winFlag (8 * t.winTiles) = none → Does (.windowArrival src id off bs) s fun u =>
        let f := t.winFlag + 8 * (o / t.winTile)
        let count := leNat (t.spBytes f 4) + 1
        sends u (.completion id 0 4 [] false) ∧ (u.now.ctx c).spBytes (t.winLo + o) 4 = bs ∧
          (count ≠ t.winExpect → leNat ((u.now.ctx c).spBytes f 4) = count % 2 ^ 32) ∧
          (count = t.winExpect → leNat ((u.now.ctx c).spBytes f 4) = 0 ∧
            leNat ((u.now.ctx c).spBytes (f + 4) 4) = (leNat (t.spBytes (f + 4) 4) + 1) % 2 ^ 32))) ∧
  (let g := ringIdx off
   let r := t.ring g
   clear → m.carries = true → m.receiver (ringCore off) = some c → t.status ≠ .empty →
    (r.remote = false → Does (.ringChunkArrival src id k span off bs) s fun u => sends u (.completion id Cause.collReject.toNat 0 [] false) ∧ u.now.cx = m.cx) ∧
    (r.remote = true → r.esz ≠ 0 → fld off 0 23 = 0 → bit off 23 = true → bs.length ≤ r.esz → r.free ≠ 0 → m.pushHeld c g = false →
      t.unfilled (r.entry (r.slot r.rsv)) bs.length = none →
      Does (.ringChunkArrival src id k span off bs) s fun u => sends u (.completion id 0 bs.length [] false) ∧
        (u.now.ctx c).ring g = (r.reserve span.toNat).2.fillDone (r.slot r.rsv) false ∧ (u.now.ctx c).spBytes (r.entry (r.slot r.rsv)) bs.length = bs)) ∧
  (let r := t.ring i
   m.receiver k = some c → m.fb.spilled = [(c, i, n, bs)] → m.fb.heldChunks = [] → r.free ≠ 0 → t.unfilled (r.entry (r.slot r.rsv)) bs.length = none →
     Does (.spillRefetch k i) s fun u => u.now.fb.spilled = [] ∧
    (u.now.ctx c).ring i = (r.reserve n).2.fillDone (r.slot r.rsv) false ∧ (u.now.ctx c).spBytes (r.entry (r.slot r.rsv)) bs.length = bs) ∧
  (m.fb.heldChunks = [] → Does (.colspillWrite v) s fun u => u.now.fb.colspill = v &&& 0x80000FFFFFC00FFF ∧ u.now.mm = m.mm ∧ u.now.cx = m.cx) ∧
  (let old := m.importEntry entry.toNat
   let others (u : State) : Prop := ∀ z, z ≠ entry.toNat → u.now.importEntry z = m.importEntry z
   Does (.importEntryWrite entry true v) s (fun u => u.now.importEntry entry.toNat = (old.1, v &&& 0x000FFFFFFFFF07FF) ∧ others u) ∧
   (bit v.toNat 63 = false ∨ m.importBad entry.toNat v = none → Does (.importEntryWrite entry false v) s fun u =>
     u.now.importEntry entry.toNat = (v, old.2) ∧ others u ∧ u.now.fb.impstat = m.fb.impstat) ∧
   (∀ r, bit v.toNat 63 = true → m.importBad entry.toNat v = some r → r < 4 → Does (.importEntryWrite entry false v) s fun u =>
     bit (u.now.importEntry entry.toNat).1.toNat 63 = false ∧ others u ∧ bit u.now.fb.impstat.toNat 63 = true ∧
       fld u.now.fb.impstat.toNat 42 2 = r ∧ fld u.now.fb.impstat.toNat 32 10 = entry.toNat ∧ fld u.now.fb.impstat.toNat 0 7 = Cause.importRefused.toNat)) ∧
  (let i := idx.toNat
   let total := natSum ((range' 0 16).map fun w => popcount (Tab.get 0 m.fb.mcstage w).toNat 64)
   let installed (u : State) : Prop := Tab.get [] u.now.fb.mcmap i = m.fb.mcstage ∧ Tab.get 0 u.now.fb.mcctl i = BitVec.ofNat 64 (2 ^ 63 + total) ∧
     ∀ z, z ≠ i → Tab.get 0 u.now.fb.mcctl z = Tab.get 0 m.fb.mcctl z
   (m.mcBusy = true → exec (.mcastSetv idx) s = .next s ∧ exec (.mcastClrv idx) s = .next s) ∧
   (m.mcBusy = false → m.mcInFlight i = false → Does (.mcastSetv idx) s installed ∧
     Does (.mcastClrv idx) s fun u => bit (Tab.get 0 u.now.fb.mcctl i).toNat 63 = false ∧ u.now.fb.mcmap = m.fb.mcmap) ∧
   (m.mcBusy = false → m.mcInFlight i = true → Does (.mcastSetv idx) s fun u => u.now.mcBusy = true ∧ u.now.fb.mcctl = m.fb.mcctl) ∧
   (m.mcBusy = true → fld m.fb.mccmd.toNat 0 8 = i → m.mcInFlight i = false → bit m.fb.mccmd.toNat 9 = true →
     Does .mccmdComplete s fun u => installed u ∧ u.now.mcBusy = false))

/-- R56 to R62, R232, R250 to R260, R301, R457, R458, R467: messages of other modules perform their home operation and carry its answer; a bad range draws its
cause; the host reads, owns, writes and gives back half-lines, and a snoop brings its data home; port A down poisons what the host owned, port B down
ends pool accesses; a cell load gives its values in dot order.
The model's choice stands in log entries 22, 38 and 54 (fields that no rule fills, access levels, half-lines the host owns). -/
def Obligations.HomesAndPorts : Prop := ∀ (s : State) (q : TunnelMsg) (va pa n c : Nat) (m1 : Module) (st : Word64) (vs : List (List Byte)) (bs : List Byte)
    (b ord : Bool) (k : SkKind) (cz : Cause) (mask : Word64) (d : BitVec 512) (j : C1Entry) (asid : BitVec 16) (x : Cell) (e : TlbEntry),
  let m := s.now
  let replies (u : State) (base : Module) (aux : Nat) (payload : List Byte) : Prop := ∃ o r, u.now.fb.outbox = base.fb.outbox ++ [o] ∧
    o.dev = q.areaSrc.toNat ∧ o.packet = .tunnel r ∧ r.kind = q.kind ||| 0x80 ∧ r.tag = q.tag ∧ r.flags = 0 ∧ r.payload = payload ∧ r.aux = BitVec.ofNat 16 aux
  let asked (kind : BitVec 8) (n : Nat) : Prop := m.carries = true ∧ m.fb.parked = [] ∧ q.kind = kind ∧ badMessage q = false ∧
    m.importHome (fld q.src.toNat 0 10) q.offset.toNat n = .ok va
  let tells (u : State) (car : Carried) : Prop := ∃ o r, u.now.fb.outbox.getLast? = some o ∧ o.packet = .tunnel r ∧ r.carried = car
  let quiet := m.fb.parked = [] ∧ m.fb.rdmaHeld = [] ∧ m.mm.late = []
  let acc := m.remoteAcc true
  let len := 16 + 4 * numOf q.payload 8 2
  let h := pa / 64
  let open_ := m.mm.hostDown = false ∧ pa < m.silo.hdmWindow.toNat ∧ isHbm pa = true ∧ m.migratingFrame pa = false ∧ quiet
  let plain := m.cellOf h = none ∧ ∀ g, g < 8 → (m.group g).valid = false
  let byteOf (z : Nat) : Byte := BitVec.ofNat 8 (fld d.toNat (8 * (z % 64)) 8)
  let rdmaOpen := m.keyed = true ∧ m.fb.ethUp ≠ [] ∧ m.fb.rdmaHeld = []
  let line (u : State) : Prop := ∀ z, u.byte z = if z / 64 = h then byteOf z else s.byte z
  let owned (u : State) (r : HostHold) : Prop := u.now.held h = r ∧ (∀ z, z ≠ h → u.now.held z = m.held z)
  (asked 1 64 → m.homeCellLoad acc va = .ok (st, vs, m1) → Does (.cellLoad q) s fun u => u.now.mm = m1.mm ∧
    replies u m1 vs.length (leBytes st.toNat 8 ++ leBytes 0 8 ++ vs.flatten)) ∧
  (asked 2 64 → m.homeCellStore acc va (numOf q.payload 0 8) (q.payload.drop 8) q.carried.wid.toNat q.carried.wctr.toNat = .ok (st, b, ord, m1) →
    Does (.cellStore q) s fun u => u.now.mm = m1.mm ∧ replies u m1 (b2n b) (leBytes st.toNat 8) ∧ tells u { Carried.none with ordered := ord }) ∧
  (asked 3 64 → m.homeCellReconcile acc va (fld q.aux.toNat 0 4) q.carried.wid.toNat q.carried.wctr.toNat = .ok (st, bs, m1) → Does (.cellReconcile q) s fun u =>
    u.now.mm = m1.mm ∧ replies u m1 0 (leBytes st.toNat 8 ++ bs)) ∧
  (skOf q.aux.toNat = some k → asked 4 (skSize k) → m.homeMerge acc va k q.payload = .ok (n, m1) → Does (.summaryMerge q) s fun u =>
    u.now.mm = m1.mm ∧ replies u m1 0 []) ∧
  (asked 5 len → m.homeRsc acc va (numOf q.payload 8 2) q.payload = .ok (n, m1) → Does (.rescalingReduction q) s fun u =>
    u.now.mm = m1.mm ∧ replies u m1 0 [] ∧ tells u { Carried.none with old := BitVec.ofNat 32 n }) ∧
  (m.carries = true → m.fb.parked = [] → q.kind = 1 → badMessage q = false → m.importHome (fld q.src.toNat 0 10) q.offset.toNat 64 = .error cz →
    Does (.cellLoad q) s fun u => u.now.mm = m.mm ∧ ∃ o r, u.now.fb.outbox = m.fb.outbox ++ [o] ∧ o.packet = .tunnel r ∧ r.flags = 1 ∧
      r.payload = leBytes cz.toNat 4) ∧
  (open_ → Does (.hostRequest pa .readShared) s (fun u => owned u (if m.held h = .M then .M else .S) ∧ u.now.mm.mem = m.mm.mem) ∧
    Does (.hostRequest pa .readOwn) s fun u => owned u .M ∧ u.now.mm.mem = m.mm.mem) ∧
  (open_ → plain → ∀ r ∈ [HostReq.readShared, .readOwn], Does (.hostRequest pa r) s fun u => ∃ y, u.now.mm.hostOut = m.mm.hostOut ++ [(h, y)] ∧
    (h ∈ m.mm.poison → y = none) ∧
    (h ∉ m.mm.poison → ∃ v, y = some v ∧ ∀ j, j < 64 → BitVec.ofNat 8 (fld v.toNat (8 * j) 8) = s.byte (64 * h + j))) ∧
  (open_ → m.held h = .S → Does (.hostRequest pa .evict) s fun u => owned u .I ∧ u.now.mm.mem = m.mm.mem) ∧
  (open_ → plain → m.held h = .M → Does (.hostRequest pa (.writeBack d)) s fun u => owned u .I ∧ line u) ∧
  (open_ → plain → h ∉ m.mm.poison → Does (.hostRequest pa (.write mask d)) s fun u => ∀ z, u.byte z =
    if z / 64 = h ∧ bit mask.toNat (z % 64) = true then byteOf z else s.byte z) ∧
  (m.mm.hostDown = true → quiet → ∀ r, exec (.hostRequest pa r) s = .next s) ∧
  (plain → quiet → h ∈ m.mm.snoops → m.held h = .M → Does (.snoopComplete pa (some d)) s fun u => owned u .I ∧ line u ∧ h ∉ u.now.mm.snoops) ∧
  (quiet → h ∈ m.mm.snoops → m.held h = .S → Does (.snoopComplete pa none) s fun u => owned u .I ∧ u.now.mm.mem = m.mm.mem ∧
    h ∉ u.now.mm.snoops) ∧
  (m.mm.hostDown = false → quiet → ∀ i ∈ [Instr.hostLinkDown, .biTimeout], (i = .biTimeout → m.mm.snoops ≠ []) → Does i s fun u =>
    u.now.mm.hostDown = true ∧ u.now.mm.snoops = [] ∧ (∀ z, u.now.held z = .I) ∧
      (∀ z, (u.now.ctx z).x.sq = (m.ctx z).x.sq.map fun e => { e with pf := e.pf.unanswered }) ∧ ∀ z y, (z, y) ∈ m.mm.hostHold → z ∈ u.now.mm.poison) ∧
  (m.mm.snoops = [] → exec .biTimeout s = .next s) ∧
  (m.mm.poolDown = false → Does .poolLinkDown s fun u => u.now.mm.poolDown = true ∧ u.now.fb.spilled = [] ∧ u.now.mm.pool = m.mm.pool) ∧
  ((m.ctx c).x.c1q = [j] → j.phase = .started → (∃ n v, j.kind = .rst n v) → aperture j.addr = 4 → Does (.poolTimeout c 0) s fun u => s.sameBut c u ∧
    (u.now.ctx c).x.c1q = [{ j with phase := .done 2 0 Cause.memPoison 0 }]) ∧
  (m.keyed = false ∨ m.fb.ethUp = [] → ∀ r, exec (.rdmaRequestArrival asid r) s = .next s) ∧
  (rdmaOpen → Does (.rdmaRequestArrival asid (.send bs)) s fun u => u.now.fb.rdma = m.fb.rdma ++ [bs] ∧ u.now.mm = m.mm) ∧
  (rdmaOpen → m.readsAt (rdmaAcc asid.toNat) e va n pa → Does (.rdmaRequestArrival asid (.read va n)) s fun u =>
    u.now.fb.rdmaOut = m.fb.rdmaOut ++ [.answer (m.peek pa n)] ∧ ∀ z, u.byte z = s.byte z) ∧
  (rdmaOpen → m.plainAt (rdmaAcc asid.toNat) va bs.length pa → Does (.rdmaRequestArrival asid (.write va bs)) s fun u =>
    ∀ z, u.byte z = if pa ≤ z ∧ z < pa + bs.length then bs.getD (z - pa) 0 else s.byte z) ∧
  (let l := x.load
   l.2.Perm (x.sibs.map (·.value)) ∧ fld l.1.toNat 40 4 = x.present % 16 ∧ fld l.1.toNat 44 3 = x.sibs.length % 8 ∧ fld l.1.toNat 0 40 = x.clock % 2 ^ 40 ∧
     (dotOrder x.sibs).Pairwise fun a b => a.info.wid < b.info.wid ∨ (a.info.wid = b.info.wid ∧
       (a.info.wctr < b.info.wctr ∨ (a.info.wctr = b.info.wctr ∧ a.info.ver ≤ b.info.ver))))


/-! ## Coding groups, tenancy, command queues, launches, translation -/

/-- R37, R39, R64, R73, R75, R86, R88 to R95, R103 to R106, R486, R489: a group message is answered as the member's state says; a gate or form error draws its
cause; CREATE, DISSOLVE, ADMIT and GREPAIR are accepted or set ERR; heartbeats ask every live member; limits end what has waited too long. What
a held round instruction is answered is its round's status word.
The model's choice stands in log entries 42 to 47 and 60 (deltas, votes, journal, commands, and the slot in focus). -/
def Obligations.GroupEvents : Prop := ∀ (s : State) (q : TunnelMsg) (slot j h : Nat) (sl : BitVec 3) (ri : BitVec 4) (reg : BitVec 6) (line : BitVec 30)
    (v : Word64) (c : Cause) (y : JEntry) (x : Vote) (l : List Nat) (ans : List (Nat × Nat × Nat × Nat)) (rh : RoundHold) (cx st : Nat) (d a : RegNo)
    (chain : List JEntry),
  let m := s.now
  let g := m.group slot
  let n := msgRound q
  let after (u : State) : Group := u.now.group slot
  let comes (k : BitVec 8) : Prop := m.carries = true ∧ q.kind = k ∧ badMessage q = false ∧ m.groupGate q = .ok (slot, j) ∧ g.valid = true
  let replies (u : State) (flags : BitVec 8) (payload : List Byte) : Prop := ∃ o r, u.now.fb.outbox.getLast? = some o ∧ o.dev = q.areaSrc.toNat ∧
    o.packet = .tunnel r ∧ r.kind = q.kind ||| 0x80 ∧ r.tag = q.tag &&& 0x7FFF ∧ r.flags = flags ∧ r.payload = payload
  let refuses (i : Instr) (c : Cause) : Prop := Does i s fun u => replies u 1 (leBytes c.toNat 4) ∧ u.now.cx = m.cx ∧ u.now.groups = m.groups ∧ u.now.mm = m.mm
  let accepts (i : Instr) (payload : List Byte) : Prop := Does i s fun u => replies u 0 payload ∧ u.now.cx = m.cx ∧ u.now.groups = m.groups ∧ u.now.mm = m.mm
  let sent (u : State) (k : Nat) (kind : BitVec 8) (payload : List Byte) : Prop := ∃ o ∈ u.now.fb.outbox, o.dev = g.dev k ∧ ∃ r, o.packet = .tunnel r ∧
    r.kind = kind ∧ r.payload = payload
  let region := leNat ((q.payload.drop 7).take 1)
  let off := leNat ((q.payload.drop 8).take 8)
  let inRegion := region < 64 ∧ g.regionValid region = true ∧ off + (q.payload.length - 16) ≤ 64 * g.regionLines region
  let abort := leNat ((q.payload.drop 6).take 1) = 1
  let shReg := leNat ((q.payload.drop 6).take 1)
  let ask := n = g.glast ∧ shReg < 64 ∧ g.regionValid shReg = true ∧ off % 64 = 0 ∧ leNat ((q.payload.drop 16).take 4) = 64 ∧
    off + 64 ≤ 64 * g.regionLines shReg
  let name := lineName shReg (off / 64)
  let failed (i : Instr) (c : Cause) : Prop := Does i s fun u => (after u).err = true ∧ (after u).errCause = c ∧ (after u).busy = .idle ∧
    (after u).valid = g.valid ∧ (after u).state = g.state ∧ u.now.fb = m.fb ∧ u.now.mm = m.mm
  let here := m.gfocus = slot
  let there := sl.toNat = slot
  let free := g.busy = .idle
  let t := ri.toNat
  let w := (Tab.get none g.gstage t).getD (Tab.get 0 g.gmem t)
  let votes := g.rebuilding = false ∧ g.admitting = false
  let admitted : Group := { g with gmem := Tab.set 0 g.gmem t w }
  let beats := here ∧ free ∧ g.valid = true ∧ g.lost = false ∧ g.fenced = false ∧ g.voteReq = false ∧ g.vote = none ∧ g.takeover = none
  let events : List (Instr × BitVec 8) := [(.roundDelta q, 0x10), (.prepare q, 0x11), (.decide q, 0x12), (.stateQuery q, 0x13), (.shareRequest q, 0x14),
    (.revoke q, 0x15), (.voteRequest q, 0x16)]
  let aborts (i : Instr) (c : Cause) : Prop := Does i s fun u => (after u).state = 4 ∧ (after u).vote = none ∧
    fld ((after u).log g.round).toNat 52 7 = c.toNat ∧ ∀ k ∈ g.liveOthers, sent u k 0x12 (leBytes g.round 6 ++ [1])
  let holds := here ∧ (∀ k, k < 64 → (m.queue k).busy = none) ∧ (m.ctx cx).u.roundHold = some rh ∧ rh.slot = slot ∧ rh.answer = none ∧ rh.op = .rcmt d a
  let answered (u : State) (r : Option Word64) : Prop := (u.now.ctx cx).u.roundHold = some { rh with answer := r } ∧ u.now.groups = m.groups ∧ u.now.mm = m.mm
  (m.carries = false → ∀ e ∈ events, exec e.1 s = .next s) ∧
  (m.carries = true → ∀ e ∈ events, q.kind = e.2 → badMessage q = false → m.groupGate q = .error c → refuses e.1 c) ∧
  (m.carries = true → ∀ e ∈ events, q.kind = e.2 → badMessage q = true → refuses e.1 Cause.remoteKind) ∧
  (comes 0x10 → inRegion → g.isData = false → n = g.round → g.state = 0 → q.payload.length = 80 → bit q.flags.toNat 1 = false → g.chain = [y] →
    y.name = lineName region (off / 64) → Does (.roundDelta q) s fun u => replies u 0 [] ∧ (after u).state = 0 ∧
      (after u).chain = [{ y with data := y.data ^^^ BitVec.ofNat 512 (leNat (q.payload.drop 16)) }]) ∧
  (comes 0x10 → g.isData = true → g.state ≠ 2 → refuses (.roundDelta q) Cause.groupRegion) ∧
  (comes 0x10 → g.isData = false → n = g.round + 1 → g.state = 2 → Does (.roundDelta q) s fun u => (after u).held = g.held ++ [q] ∧ u.now.fb = m.fb) ∧
  (m.carries = true → q.kind = 0x11 → badMessage q = false → m.groupGate q = .ok (slot, j) → g.rebuilding = true ∨ g.admitting = true →
    accepts (.prepare q) ([1, 0, 0, 0] ++ leBytes Cause.groupDegraded.toNat 4)) ∧
  (comes 0x11 → votes → n = g.round → g.state = 2 → g.noReason = none → accepts (.prepare q) ([0, 0, 0, 0] ++ leBytes 0 4)) ∧
  (comes 0x11 → votes → n = g.round → g.state < 3 → ¬(g.state = 0 ∧ g.isData = false) → g.noReason = some c → accepts (.prepare q) ([1, 0, 0, 0] ++ leBytes c.toNat 4)) ∧
  (comes 0x11 → votes → n = g.round → g.state < 2 → g.noReason = none → g.isData = true → Does (.prepare q) s fun u =>
    (after u).prepHeld = g.prepHeld ++ [q] ∧ (after u).state = g.state ∧ u.now.fb = m.fb) ∧
  (comes 0x11 → votes → n = g.round → g.state = 0 → g.isData = false → g.vote = none → Does (.prepare q) s fun u => (after u).state = 2 ∧
    (g.noReason = none → replies u 0 ([0, 0, 0, 0] ++ leBytes 0 4)) ∧ (g.noReason = some c → replies u 0 ([1, 0, 0, 0] ++ leBytes c.toNat 4))) ∧
  (comes 0x11 → votes → g.round < n → g.state = 3 ∨ g.state = 4 → g.isData = true → Does (.prepare q) s fun u =>
    replies u 0 ([1, 0, 0, 0] ++ leBytes Cause.roundClosed.toNat 4) ∧ (after u).closedAt = some n ∧ (after u).state = g.state ∧ u.now.mm = m.mm) ∧
  (comes 0x12 → abort → n = g.round → g.state < 3 → Does (.decide q) s fun u => replies u 0 [] ∧ (after u).state = 4 ∧ (after u).round = n ∧
    (after u).chain = [] ∧ (after u).retained = g.retained ∧ (after u).glast = g.glast) ∧
  (comes 0x12 → ¬abort → n = g.round → g.state = 2 → Does (.decide q) s fun u => replies u 0 [] ∧ (after u).state = 3 ∧ (after u).round = n ∧
    (after u).glast = n ∧ (after u).chain = [] ∧ (after u).retained = (if g.retain = true then some (n, g.chain) else none) ∧
    ∀ r, r < 64 → (after u).regionInit r = false ∧ (after u).regionValid r = g.regionValid r) ∧
  (comes 0x12 → ¬abort → n = g.round → g.state < 2 → refuses (.decide q) Cause.roundClosed) ∧
  (comes 0x12 → n = g.round → g.state = (if abort then 4 else 3) → accepts (.decide q) []) ∧
  (comes 0x13 → j ∉ g.spares → accepts (.stateQuery q) (leBytes g.glast 6 ++ [BitVec.ofNat 8 (g.stateOf n), if g.revokedAt n = true then 1 else 0] ++
    leBytes g.round 6 ++ [BitVec.ofNat 8 g.state, 0])) ∧
  (comes 0x14 → n ≠ g.glast → refuses (.shareRequest q) Cause.roundClosed) ∧
  (comes 0x14 → ask → g.isData = true → g.chain = [y] → y.name = name → accepts (.shareRequest q) (leBytes off 8 ++ leBytes y.data.toNat 64)) ∧
  (comes 0x14 → ask → g.chain = [] → g.homeOfLine name = some h → h ∉ m.mm.poison → g.cellAt h = none →
    accepts (.shareRequest q) (leBytes off 8 ++ m.peek (64 * h) 64)) ∧
  (comes 0x15 → g.revokedAt n = false → g.retained = some (n, chain) → 3 ≤ g.state → Does (.revoke q) s fun u => replies u 0 [] ∧ (after u).retained = none ∧
    (after u).revokedAt n = true ∧ (after u).round = g.round ∧ (after u).state = if n = g.round then 4 else g.state) ∧
  (comes 0x15 → g.revokedAt n = false → g.retained = some (n, chain) → g.state < 3 → Does (.revoke q) s fun u => replies u 0 [] ∧ (after u).retained = none ∧
    (after u).revokedAt n = true ∧ (after u).round = g.round ∧ (after u).state = 4) ∧
  (comes 0x15 → g.revokedAt n = true → accepts (.revoke q) []) ∧
  (comes 0x15 → g.revokedAt n = false → g.retained = none → refuses (.revoke q) Cause.roundClosed) ∧
  (comes 0x16 → g.coordinates = false → refuses (.voteRequest q) Cause.roundClosed) ∧
  (comes 0x16 → g.coordinates = true → n = g.round → g.state < 3 → g.vote = some x → accepts (.voteRequest q) []) ∧
  (comes 0x16 → g.coordinates = true → n = g.round → 3 ≤ g.state → accepts (.voteRequest q) []) ∧
  (comes 0x16 → g.coordinates = true → n = g.round → g.state < 3 → g.vote = none → g.isData = true → g.noReason = none → g.others ≠ [] →
    (∀ k ∈ g.others, g.isLive k = true) → Does (.voteRequest q) s fun u => replies u 0 [] ∧ (after u).vote = some ⟨n, m.clk.cycle, []⟩ ∧
      (after u).state = g.state ∧ ∀ k ∈ g.others, sent u k 0x11 (leBytes n 6)) ∧
  (here → free → m.createCheck slot = none → Does .create s fun u => (after u).busy = .creating m.clk.cycle [] ∧ (after u).err = false ∧
    (after u).valid = g.valid ∧ u.now.mm = m.mm ∧ ∀ k ∈ (after u).others, sent u k 0x13 (leBytes 0 6)) ∧
  (here → free → m.createCheck slot = some c → failed .create c) ∧
  (here → ¬free → exec .create s = .next s ∧ exec .dissolve s = .next s) ∧
  (here → g.busy = .creating st l → (st + g.gtlim ≤ m.clk.cycle → failed .createTimeout Cause.roundTimeout) ∧
    (m.clk.cycle < st + g.gtlim → Does .createTimeout s fun u => after u = g)) ∧
  (here → g.busy = .admitting t st ans → (st + g.gtlim ≤ m.clk.cycle → failed .admitTimeout Cause.roundTimeout) ∧
    (m.clk.cycle < st + g.gtlim → Does .admitTimeout s fun u => after u = g)) ∧
  (here → free → (g.state = 3 ∨ g.state = 4 ∨ g.lost = true ∨ g.fenced = true) → Does .dissolve s fun u => (after u).valid = false ∧ (after u).err = false ∧
    (after u).cfg = g.cfg ∧ (after u).greg0 = g.greg0 ∧ (after u).glog = g.glog ∧ u.now.mm = m.mm ∧ u.now.fb = m.fb) ∧
  (here → free → g.state < 3 → g.lost = false → g.fenced = false → failed .dissolve Cause.roundClosed) ∧
  (there → free → g.valid = true → g.lost = false → t < g.size → g.isLive t = false →
    (∀ k, k < g.size → k ≠ t → g.dev k ≠ fld w.toNat 0 10) → admitted.crowded = false →
    (3 ≤ g.state → Does (.admitMember sl ri) s fun u => t ∈ (after u).spares ∧ Tab.get 0 (after u).gmem t = w ∧ (after u).live = g.live ∧ (after u).err = false ∧
      u.now.mm = m.mm) ∧
    (g.state < 3 → failed (.admitMember sl ri) Cause.roundClosed)) ∧
  (there → free → g.valid = true → g.lost = true ∨ g.size ≤ t ∨ g.isLive t = true → failed (.admitMember sl ri) Cause.groupConfig) ∧
  (there → free → g.valid = false → m.createCheck slot = none → t < g.size → g.dev t = m.devid → Does (.admitMember sl ri) s fun u =>
    (after u).busy = .admitting t m.clk.cycle [] ∧ (after u).self = t ∧ (after u).valid = false ∧ ∀ k ∈ (after u).others, sent u k 0x13 (leBytes 0 6)) ∧
  (there → free → g.valid = false → failed (.lineRepair sl reg line) Cause.groupConfig) ∧
  (there → free → g.valid = true → g.degraded = false → g.regionValid reg.toNat = false → failed (.lineRepair sl reg line) Cause.groupRegion) ∧
  (there → free → g.valid = true → g.degraded = true → failed (.lineRepair sl reg line) Cause.groupDegraded) ∧
  (there → free → g.valid = true → g.degraded = false → g.regionValid reg.toNat = true → line.toNat < g.regionLines reg.toNat → g.sources = some l →
    Does (.lineRepair sl reg line) s fun u => (after u).busy = .repairing reg.toNat line.toNat l [] ∧ (after u).err = false ∧ u.now.mm = m.mm ∧
      ∀ k ∈ l, sent u k 0x14 (leBytes g.glast 6 ++ [BitVec.ofNat 8 reg.toNat, 0] ++ leBytes (64 * line.toNat) 8 ++ leBytes 64 4)) ∧
  (there → g.state < 3 → ∀ b, exec (.gregWrite sl reg b v) s = .next s) ∧
  (there → 3 ≤ g.state → bit v.toNat 63 = false → Does (.gregWrite sl reg false v) s fun u => (after u).regionValid reg.toNat = false ∧ u.now.mm = m.mm ∧
    ∀ z k, (after u).lineAt z = some k → nameRegion k ≠ reg.toNat) ∧
  (there → 3 ≤ g.state → g.regionValid reg.toNat = false → Does (.gregWrite sl reg true v) s fun u => (after u).regionLines reg.toNat = fld v.toNat 0 30 ∧
    (after u).regionValid reg.toNat = false ∧ u.now.mm = m.mm) ∧
  (beats → g.hbWait = [] → Does .heartbeat s fun u => (after u).hbWait = g.liveOthers ∧ (after u).hbAt = m.clk.cycle ∧ (after u).live = g.live ∧
    u.now.mm = m.mm ∧ ∀ k ∈ g.liveOthers, sent u k 0x13 (leBytes g.round 6)) ∧
  (beats → g.hbWait = [j] → j < g.size → g.isLive j = true → j ≠ g.self → j ≠ g.coord → Does .heartbeat s fun u => (after u).isLive j = false ∧
    (after u).degraded = true) ∧
  (here → g.vote = some x → x.round = g.round → g.round < 2 ^ 48 → g.state < 3 → g.mayDecide = true →
    (g.noReason = none → x.start + g.gtlim ≤ m.clk.cycle → aborts .voteTimeout (g.lossCause.getD Cause.roundTimeout)) ∧
    (g.noReason = some c → aborts .voteTimeout c) ∧
    (g.noReason = none → m.clk.cycle < x.start + g.gtlim → exec .voteTimeout s = .next s)) ∧
  (holds → Does .roundAnswer s fun u => answered u (if g.decidedAt rh.round = true then some (g.reportDecided rh.round) else none)) ∧
  (holds → rh.since + g.gtlim ≤ m.clk.cycle → g.decidedAt rh.round = false → Does .rcmtTimeout s fun u => answered u (some (g.report Cause.roundTimeout)))


/-- R6, R18 to R24, R75, R110 to R112, R131 to R137, R157, R484: boot goes from step to step and enters SCRUB; power and temperature limits stop and shut down;
resets leave what R20 says; the management port and the mailbox answer; the tenancy cycle goes from state to state and fails into FAILED; a
register is written by the agent whose it is.
The model's choice stands in log entries 29, 30 and 62 (layouts, boot as events, the work of a tenancy state). -/
def Obligations.PowerAndTenancy : Prop := ∀ (s : State) (n watts mean t since : Nat) (bad : List Nat) (r ok : Bool) (img : Image) (nonce : BitVec 256) (bs : List Byte)
    (cl : BitVec 128) (hbm : BitVec 16) (st : BitVec 36) (v : Word64) (core : BitVec 10) (l : List Nat),
  let m := s.now
  let x := m.silo
  let up := x.power = .up
  let only (u : State) (f : Silo) : Prop := u.now = { m with silo := f }
  let nothing (i : Instr) : Prop := exec i s = .next s
  let blank (u : State) : Prop := u.now.mm.mem = [] ∧ u.now.cx = Module.reset.cx ∧ u.now.lu = Module.reset.lu ∧ u.now.fe = Module.reset.fe ∧ u.now.groups = [] ∧
    u.now.tr = Module.reset.tr ∧ u.now.fb = Module.reset.fb
  let cold (u : State) : Prop := blank u ∧ u.now.silo.power = .booting 1 ∧ u.now.silo.warm = false ∧ u.now.silo.flash = x.flash ∧
    u.now.silo.tcount = x.tcount ∧ u.now.silo.powerFault = false ∧ u.now.silo.log = [] ∧ u.now.clk.cycle = 0
  let late := since + 51000000000 ≤ m.clk.cycle
  let working (t : TState) : Prop := up ∧ x.tstate = t ∧ x.suspended = false
  let attests := up ∧ (x.tstate = .ready ∨ x.tstate = .leased ∨ x.tstate = .failed)
  let dead := (range' 0 36).filter fun n => !bit st.toNat n
  (x.power = .booting 1 → Does (.bootStep ⟨true, bad⟩) s fun u => only u { x with power := .booting 2 }) ∧
  (x.power = .booting 2 → (∀ i ∈ x.flash, i.signed = true) → Does (.bootStep ⟨ok, bad⟩) s fun u => u.now.silo.power = .booting 3 ∧ 8 ≤ u.now.silo.measured.length) ∧
  (x.power = .booting 2 → (∃ i ∈ x.flash, i.signed = false) → Does (.bootStep ⟨ok, bad⟩) s fun u => u.now.silo.power = .booting 2 ∧ u.now.silo.bootAuth = true) ∧
  (x.power = .booting n → n = 3 ∨ n = 4 ∨ n = 6 → Does (.bootStep ⟨true, bad⟩) s fun u => only u { x with power := .booting (n + 1) }) ∧
  (x.power = .booting 4 → Does (.bootStep ⟨false, bad⟩) s fun u => only u { x with mgmt := x.mgmt ++ [4 :: bad.map fun n => BitVec.ofNat 8 n] }) ∧
  (x.power = .booting 5 → Does (.bootStep ⟨true, bad⟩) s fun u => u.now.silo.power = .booting 6 ∧ u.now.tr.tlb = [] ∧ u.now.tr.tlb1 = [] ∧ u.now.mm.sheaf = []) ∧
  (x.power = .booting 7 → Does (.bootStep ⟨true, bad⟩) s fun u => u.now.silo.power = .booting 8 ∧
    (∀ k, k < 36 → (∀ l, l < 4 → 4 * k + l ∉ bad) → (u.now.station k).width = 4 ∧ (u.now.station k).down = false) ∧
    (u.now.mm.hostDown = true ↔ 144 ∈ bad) ∧ (u.now.mm.poolDown = true ↔ 145 ∈ bad) ∧ ∀ p, p < 10 → (p ∈ u.now.fb.ethUp ↔ 146 + p ∉ bad)) ∧
  (x.power = .booting n → n = 1 ∨ n = 3 ∨ 5 ≤ n → nothing (.bootStep ⟨false, bad⟩)) ∧
  (x.power = .booting 8 → Does (.bootStep ⟨true, bad⟩) s fun u => u.now.silo.power = .up ∧ u.now.silo.tstate = .scrub ∧ u.now.silo.tcount = x.tcount + 1) ∧
  (up → nothing (.bootStep ⟨ok, bad⟩)) ∧
  (up → 3960 < mean → 99 ≤ x.overMs → Does (.powerSample watts mean) s fun u => u.now.silo.powerFault = true ∧ u.now.silo.watts = watts ∧
    ∀ c, u.now.ctx c = m.ctx c) ∧
  (mean ≤ 3960 → Does (.powerSample watts mean) s fun u => u.now.silo.powerFault = x.powerFault ∧ u.now.silo.watts = watts ∧ u.now.silo.overMs = 0 ∧
    (mean < 3400 → u.now.silo.stretch = x.stretch - 1) ∧ (3400 ≤ mean → mean ≤ 3600 → u.now.silo.stretch = x.stretch) ∧ u.now.cx = m.cx) ∧
  (up → t ∈ l.take 6 → 110 ≤ t → Does (.thermalSample l) s fun u => u.now.silo.power = .shutdown m.clk.cycle false ∧ u.now.silo.alert = true ∧
    blank u) ∧
  (up → t < 110 → Does (.thermalSample [t]) s fun u => u.now.silo.temps = [t] ∧ u.now.silo.power = .up ∧ u.now.silo.alert = decide (105 ≤ t) ∧
    (105 ≤ t → Tab.get false u.now.silo.dieStop 0 = true ∧ Tab.get false u.now.silo.dieStretch 0 = true) ∧
    (95 ≤ t → t < 105 → Tab.get false u.now.silo.dieStop 0 = Tab.get false x.dieStop 0 ∧ Tab.get false u.now.silo.dieStretch 0 = true) ∧
    (t < 92 → Tab.get false u.now.silo.dieStop 0 = false ∧ Tab.get false u.now.silo.dieStretch 0 = false)) ∧
  Does (.firmwareStage img) s (fun u => (∀ i, i ∈ u.now.silo.flash ↔ i = img ∨ (i ∈ x.flash ∧ i.kind ≠ img.kind)) ∧ u.now.cx = m.cx ∧ u.now.mm = m.mm) ∧
  (attests → Does (.attestationRequest nonce) s fun u => u.now.silo.tstate = x.tstate ∧ ∃ r, u.now.silo.mgmt = x.mgmt ++ [r ++ Config.certificates] ∧ r.length = 1024 ∧
    r.take 4 = [0x4A, 0x4C, 0x41, 0x54] ∧ (r.drop 24).take 8 = leBytes x.tcount.toNat 8 ∧ (r.drop 32).take 32 = leBytes nonce.toNat 32) ∧
  (¬attests → nothing (.attestationRequest nonce) ∧ nothing .releaseRequest) ∧
  (¬up → nothing (.mailboxRequest (.other bs)) ∧ nothing .warmReset) ∧
  (up → Does (.mailboxRequest (.other bs)) s (fun u => only u { x with mailbox := x.mailbox ++ [[]] }) ∧
    Does (.mailboxRequest .warmReset) s (fun u => u.now.silo.power = .booting 1 ∧ u.now.silo.warm = true ∧ blank u) ∧
    (x.powerFault = true → Does (.mailboxRequest .powerFaultClear) s fun u => u.now.silo.powerFault = false)) ∧
  (attests → Does (.mailboxRequest .release) s (fun u => u.now.silo.tstate = .release) ∧ Does .releaseRequest s (fun u => u.now.silo.tstate = .release ∧
    u.now.mm = m.mm ∧ u.now.cx = m.cx)) ∧
  (working .scrub → Does (.scrub ok) s fun u => u.now.mm.mem = [] ∧ u.now.mm.poison = [] ∧ u.now.cx.ctxs = [] ∧ u.now.groups = [] ∧ u.now.lu.launches = [] ∧
    u.now.fb.imports = [] ∧ u.now.tr.tlb = [] ∧ u.now.silo.tcount = x.tcount ∧ u.now.silo.tstate = if ok = true then .attest else .failed) ∧
  (¬working .scrub → nothing (.scrub ok)) ∧
  (working .attest → (∀ i ∈ x.flash, i.kind = .meadow → i.signed = true) → Does (.attest ok) s fun u => u.now.silo.keys = m.clk.salt + 1 ∧
    u.now.mm.hostDown = false ∧ u.now.silo.tstate = if ok = true then .health else .failed) ∧
  (working .attest → (∃ i ∈ x.flash, i.kind = .meadow ∧ i.signed = false) → Does (.attest ok) s fun u => u.now.silo.tstate = .failed ∧
    u.now.silo.bootAuth = true) ∧
  (working .health → cl = BitVec.allOnes 128 → hbm = BitVec.allOnes 16 → dead.length ≤ 4 → Does (.health cl hbm st) s fun u => u.now.silo.tstate = .ready ∧
    u.now.silo.clustersOk = cl ∧ u.now.silo.stacksOk = hbm ∧ u.now.silo.stationsOk = st ∧ u.now.silo.htime = m.ticks ∧
    (u.now.silo.removed = true ↔ x.removed = true ∨ dead ≠ []) ∧ ∀ k ∈ dead, (u.now.station k).down = true) ∧
  (working .health → cl ≠ BitVec.allOnes 128 ∨ hbm ≠ BitVec.allOnes 16 ∨ 4 < dead.length → Does (.health cl hbm st) s fun u => u.now.silo.tstate = .failed ∧
    u.now.silo.mgmt = x.mgmt ++ [[BitVec.ofNat 8 Cause.healthFail.toNat]]) ∧
  (x.power = .off → Does .powerOn s cold ∧ nothing .coldResetRequest ∧ nothing .vin48Falling) ∧
  (up → Does .coldResetRequest s cold ∧ Does .warmReset s (fun u => blank u ∧ u.now.silo.power = .booting 1 ∧ u.now.silo.warm = true ∧
    u.now.silo.log = x.log ∧ u.now.silo.tcount = x.tcount ∧ u.now.silo.keys = 0 ∧ u.now.clk = m.clk) ∧
    Does .vin48Falling s (fun u => blank u ∧ u.now.silo.power = .off ∧ u.now.silo.keys = 0)) ∧
  (x.power = .booting n → (x.warm = true → Does .coldResetRequest s cold) ∧ (x.warm = false → nothing .coldResetRequest)) ∧
  (x.power = .shutdown since r → nothing .powerOn ∧ (late → Does .powerUpRequest s cold ∧ Does .coldResetRequest s cold) ∧
    (¬late → Does .powerUpRequest s (fun u => only u { x with power := .shutdown since true }) ∧ nothing .shutdownHoldExpiry) ∧
    (late → r = true → Does .shutdownHoldExpiry s cold) ∧ (r = false → nothing .shutdownHoldExpiry)) ∧
  (x.powerFault = true → Does .powerFaultClear s fun u => u.now.silo.powerFault = false ∧ u.now.silo.overMs = 0 ∧ u.now.cx = m.cx ∧ u.now.mm = m.mm) ∧
  (x.powerFault = false → nothing .powerFaultClear) ∧
  Does .telemetryRead s (fun u => ∃ r, only u { x with mgmt := x.mgmt ++ [r] } ∧ r.take 4 = leBytes x.watts 4) ∧
  Does .eventLogRead s (fun u => only u { x with mgmt := x.mgmt ++ [x.log.flatMap fun e => leBytes e.toNat 32] }) ∧
  (up → x.tstate = .ready → Does .assign s fun u => only u { x with tstate := .leased, entered := m.clk.cycle }) ∧
  (¬(up ∧ x.tstate = .ready) → nothing .assign) ∧
  (working .release → Does .release s fun u => (∀ q, q < 64 → (u.now.queue q).stopped = true) ∧ u.now.lu.launches = [] ∧
    (∀ g, g < 8 → (u.now.group g).valid = false) ∧ u.now.silo.keys = 0 ∧ u.now.mm.hostDown = true ∧ u.now.fb.ethUp = [] ∧
    (∀ k, k < 36 → (u.now.station k).down = true) ∧ u.now.silo.tstate = .scrub ∧
    u.now.silo.tcount = x.tcount + 1) ∧
  (¬working .release → nothing .release) ∧
  (working .scrub → x.entered + 425000000 < m.clk.cycle → Does .tenancyBoundOverrun s fun u => u.now.silo.tstate = .failed ∧ u.now.mm = m.mm) ∧
  (working .attest → x.entered + 850000000 < m.clk.cycle → Does .tenancyBoundOverrun s fun u => u.now.silo.tstate = .failed ∧ u.now.mm = m.mm) ∧
  (working .health → x.entered + 17000000000 < m.clk.cycle → Does .tenancyBoundOverrun s fun u => u.now.silo.tstate = .failed ∧ u.now.mm = m.mm) ∧
  (x.tstate = .ready ∨ x.tstate = .leased → nothing .tenancyBoundOverrun) ∧
  Does (.registerWrite .meadow .tstate v) s (fun u => only u { x with log := x.log ++ [v.setWidth 256] }) ∧
  Does (.registerWrite .meadow .atbase v) s (fun u => u.now = { m with tr := { m.tr with atbase := v &&& 0x000FFFFFFFF80000 } }) ∧
  nothing (.registerWrite .silo .atbase v) ∧
  Does (.registerWrite .silo .devid v) s (fun u => u.now = { m with fb := { m.fb with devid := v &&& 0x80000000000003FF } }) ∧
  (1024 ≤ n → exec (.registerWrite .meadow (.importWord n 0) v) s = .fault .noSuchUnit) ∧
  Does (.notify core) s (fun u => (u.now.core core.toNat).post = true ∧ (∀ k, k ≠ core.toNat → u.now.core k = m.core k) ∧ u.now.mm = m.mm ∧
    u.now.cx.ctxs = m.cx.ctxs)


/-- R44, R53, R89, R101, R103, R114 to R122, R125 to R128, R489: queue registers change as written; a command that is taken advances HEAD and has its effect, one that
cannot run stops its queue with its cause; memory commands move their bytes and complete; posts count; replay starts, ends, or fails.
The model's choice stands in log entries 52, 53, 60 and 61 (replay, memory commands, the queue in focus, malformed entries). -/
def Obligations.CommandQueues : Prop := ∀ (s : State) (q : BitVec 6) (h : CmdHdr) (v src dst len pat : Word64) (tail head : Word32) (cn : BitVec 12) (r : Word64)
    (b : List Byte) (l0 : Launch) (ph : Phys × Module) (c0 c1 c2 c3 : WaitCond) (qp : BitVec 24) (key : Word32) (gid : BitVec 16) (rn vl : BitVec 48)
    (dev : BitVec 10) (slot id cluster pa pb : Nat) (c : Cause) (c' : BitVec 7) (d : MemCmd) (e : TlbEntry) (i : Instr) (cs : List WaitCond)
    (m0 : Module) (o : Outgoing),
  let m := s.now
  let k := q.toNat
  let x := m.queue k
  let g := m.group slot
  let n := rn.toNat
  let after (u : State) : Queue := u.now.queue k
  let others (u : State) : Prop := ∀ j, j ≠ k → u.now.queue j = m.queue j
  let stops (i : Instr) (c : Cause) : Prop := Does i s fun u => (after u).stopped = true ∧ (after u).cause = c ∧ (after u).head = x.head ∧ u.now.groups = m.groups ∧
    others u
  let taken (u : State) : Prop := (after u).head = x.head + 1 ∧ (after u).stopped = x.stopped ∧ others u
  let live := x.replaying = false ∧ h.cev = false
  let here := m.qfocus = k
  let nothing (i : Instr) : Prop := exec i s = .next s
  let met (cs : List WaitCond) : Prop := ∀ w ∈ cs, w.valid = true → w.thresh.toNat ≤ m.counter w.counter.toNat
  let wait := Instr.wait q h c0 c1 c2 c3
  let starts (i : Instr) (mop : Nat) (src dst : Word64) (n : Nat) : Prop := Does i s fun u => taken u ∧ u.now.mm = m.mm ∧ ∃ z, (after u).mems = x.mems ++ [z] ∧
    z.id = m.fe.cmdNext ∧ z.hdr = h ∧ z.mop = mop ∧ z.src = src ∧ z.dst = dst ∧ z.len = n ∧ z.pf = .none
  let front := m.frontAcc k
  let runs := x.replaying = false ∧ x.mems = [d] ∧ d.id = id ∧ d.pf = .none ∧ d.hdr.cev = false
  let group := m.slotOf gid.toNat x.asid = some slot ∧ slot < 8 ∧ g.fenced = false ∧ g.lost = false
  let round := [Instr.roundRopen q h gid rn, .roundRprep q h gid rn, .roundRcmt q h gid rn]
  let decided := g.state = 3 ∨ g.state = 4
  let local_ := x.replaying = false ∧ h.cev = false
  let entry (i : Instr) : Prop := m.nextCommand k = some (.ok i, m0)
  let ports := m.keyed = true ∧ m.fb.ethUp ≠ []
  (x.enabled = false → bit v.toNat 0 = true → 6 ≤ fld v.toNat 4 4 → Does (.cqcfgWrite q v) s fun u => others u ∧ (after u).enabled = true ∧
    fld (after u).cfg.toNat 1 3 = (if 60 ≤ k then 7 else Nat.min 6 (fld v.toNat 1 3)) ∧ (after u).entries = 2 ^ fld v.toNat 4 4 ∧ (after u).asid = fld v.toNat 8 16) ∧
  (x.enabled = false → bit v.toNat 0 = true → fld v.toNat 4 4 < 6 → Does (.cqcfgWrite q v) s fun u => others u ∧ (after u).enabled = false ∧
    (after u).cause = Cause.cmdFormat) ∧
  (x.enabled = true → Does (.cqcfgWrite q v) s fun u => others u ∧ (after u).entries = x.entries ∧ (after u).asid = x.asid) ∧
  ((tail - x.head).toNat ≤ x.entries → Does (.cqptrTailWrite q tail) s fun u => after u = { x with tail := tail } ∧ others u ∧ u.now.mm = m.mm) ∧
  (x.entries < (tail - x.head).toNat → Does (.cqptrTailWrite q tail) s fun u => after u = x ∧ others u ∧ u.now.mm = m.mm) ∧
  (m.counter cn.toNat ≤ fld v.toNat 0 48 → Does (.evcntWrite cn v) s fun u => u.now.counter cn.toNat = fld v.toNat 0 48 ∧
    ∀ j, j ≠ cn.toNat → u.now.counter j = m.counter j) ∧
  (fld v.toNat 0 48 < m.counter cn.toNat → nothing (.evcntWrite cn v)) ∧
  (m.fe.dropped = 0 → Does (.nrptrHeadWrite head) s fun u => fld u.now.fe.nrptr.toNat 0 32 = head.toNat ∧
    fld u.now.fe.nrptr.toNat 32 32 = fld m.fe.nrptr.toNat 32 32 ∧ u.now.mm = m.mm) ∧
  (256 ≤ m.lu.launches.length → nothing (.launch q h r)) ∧
  (m.lu.launches.length < 256 → r.toNat % 256 ≠ 0 ∨ 2 ^ 52 ≤ r.toNat → stops (.launch q h r) Cause.launchFormat) ∧
  (m.lu.launches.length < 256 → x.replaying = false → r.toNat % 256 = 0 → r.toNat < 2 ^ 52 → m.readV 0 x.asid r.toNat 256 = .ok (b, m0) →
    (parseLaunch k (m.level k) x.asid x.head h b = none → stops (.launch q h r) Cause.launchFormat) ∧
    (parseLaunch k (m.level k) x.asid x.head h b = some l0 → l0.cores m.enabled = none → stops (.launch q h r) Cause.launchSize) ∧
    (parseLaunch k (m.level k) x.asid x.head h b = some l0 → (l0.cores m.enabled).isSome = true → translate m0 0 none x.asid l0.code .fetch true = .ok ph →
      Does (.launch q h r) s fun u => taken u ∧ ∃ l, u.now.lu.launches.getLast? = some l ∧ l.queue = k ∧ l.entry = x.head ∧ l.code = l0.code ∧ l.nthr = l0.nthr ∧
        l.lnum = m.lu.lnum ∧ l.state = .waiting ∧ u.now.lu.launches.length = m.lu.launches.length + 1 ∧ u.now.lu.lnum = (m.lu.lnum + 1) % 2 ^ 20)) ∧
  (live → met [c0, c1, c2, c3] → Does wait s fun u => taken u ∧ (after u).waiting = x.waiting) ∧
  (live → ¬met [c0, c1, c2, c3] → Does wait s fun u => taken u ∧ (after u).waiting = some (h, [c0, c1, c2, c3])) ∧
  (here → x.waiting = some (h, cs) → h.cev = false → met cs → Does .waitSatisfied s fun u => after u = { x with waiting := none } ∧ others u) ∧
  (here → x.waiting = some (h, cs) → ¬met cs → nothing .waitSatisfied) ∧
  (live → starts (.memoryCopy q h src dst len) 0 src dst len.toNat ∧ starts (.memoryFill q h dst len pat) 1 0 dst len.toNat ∧
    starts (.rdmaWrite q h src dst len qp key) 2 src dst len.toNat ∧ starts (.rdmaRead q h src dst len qp key) 3 src dst len.toNat) ∧
  (live → ports → Does (.rdmaRead q h src dst len qp key) s fun u => u.now.fb.rdmaOut = m.fb.rdmaOut ++ [.read qp key src len.toNat]) ∧
  (x.mems = [d] → d.id = id → c ≠ 0 → Does (.memoryComplete q id c b) s fun u => (after u).stopped = true ∧ (after u).cause = c ∧ (after u).mems = []) ∧
  (runs → d.mop = 1 → fld d.dst.toNat 62 2 = 0 → m.plainAt front (fld d.dst.toNat 0 52) d.len pa → Does (.memoryComplete q id 0 b) s fun u =>
    (after u).mems = [] ∧ ∀ z, u.byte z = if pa ≤ z ∧ z < pa + d.len then BitVec.ofNat 8 (fld d.param.toNat (8 * ((z - pa) % 8)) 8) else s.byte z) ∧
  (runs → d.mop = 0 → fld d.src.toNat 62 2 = 0 → fld d.dst.toNat 62 2 = 0 → m.readsAt front e (fld d.src.toNat 0 52) d.len pb →
    m.plainAt front (fld d.dst.toNat 0 52) d.len pa → Does (.memoryComplete q id 0 b) s fun u =>
      (after u).mems = [] ∧ ∀ z, u.byte z = if pa ≤ z ∧ z < pa + d.len then s.byte (pb + (z - pa)) else s.byte z) ∧
  (runs → ports → d.mop = 2 → fld d.src.toNat 62 2 = 0 → m.readsAt front e (fld d.src.toNat 0 52) d.len pb → Does (.memoryComplete q id 0 b) s fun u =>
    (after u).mems = [] ∧ (∀ z, u.byte z = s.byte z) ∧
      u.now.fb.rdmaOut = m.fb.rdmaOut ++ [.write (BitVec.ofNat 24 d.qp) (BitVec.ofNat 32 d.rkey) d.dst (m.peek pb d.len)]) ∧
  (∀ i ∈ round, live → m.slotOf gid.toNat x.asid = none → stops i Cause.groupConfig) ∧
  (∀ i ∈ round, live → m.slotOf gid.toNat x.asid = some slot → g.fenced = true → stops i Cause.groupFenced) ∧
  (∀ i ∈ round, live → m.slotOf gid.toNat x.asid = some slot → g.fenced = false → g.lost = true → stops i Cause.groupLost) ∧
  (live → group → decided → g.degraded = false → g.rebuilding = false → n = g.round + 1 → Does (.roundRopen q h gid rn) s fun u => taken u ∧
    (u.now.group slot).round = n ∧ (u.now.group slot).state = 0 ∧ (after u).busy = none) ∧
  (live → group → decided → g.degraded = true → stops (.roundRopen q h gid rn) Cause.groupDegraded) ∧
  (live → group → g.state = 0 → g.isData = false → g.vote = none → Does (.roundRprep q h gid rn) s fun u => taken u ∧ (u.now.group slot).state = 2) ∧
  (live → group → decided → stops (.roundRprep q h gid rn) Cause.roundClosed) ∧
  (live → group → decided → x.waiting = none → Does (.roundRcmt q h gid rn) s fun u => taken u ∧ (after u).busy = none ∧ (after u).record = Replay.empty ∧
    (after u).replays = 0 ∧ u.now.groups = m.groups) ∧
  (live → group → g.state = 2 → g.coordinates = false → Does (.roundRcmt q h gid rn) s fun u => (after u).head = x.head ∧
    (after u).busy = some (.round (.roundRcmt q h gid rn) h slot g.round m.clk.cycle) ∧ (u.now.group slot).voteReq = true ∧
    ∃ o ∈ u.now.fb.outbox, o.dev = g.dev g.coord ∧ ∃ z, o.packet = .tunnel z ∧ z.kind = 0x16 ∧ z.payload = leBytes g.round 6) ∧
  (k < 60 → stops (.roundRrevoke q h gid rn) Cause.cmdPriv ∧ stops (.suspect q h gid rn) Cause.cmdPriv) ∧
  (60 ≤ k → live → group → g.mayRevoke n = false → stops (.roundRrevoke q h gid rn) Cause.roundClosed) ∧
  (60 ≤ k → live → group → g.mayRevoke n = true → g.round = n → g.others ≠ [] → Does (.roundRrevoke q h gid rn) s fun u => (after u).head = x.head ∧
    (after u).busy = some (.round (.roundRrevoke q h gid rn) h slot n m.clk.cycle) ∧ (u.now.group slot).retained = none ∧ (u.now.group slot).state = 4) ∧
  (60 ≤ k → live → firstWhere (fun j => (m.group j).valid && (m.group j).gid == gid.toNat) (range' 0 8) = some slot → g.logs n = true →
    fld (g.log n).toNat 61 3 = 3 → Does (.suspect q h gid rn) s fun u => taken u ∧ bit ((u.now.group slot).log n).toNat 60 = true) ∧
  (local_ → Does (.postAdd q h cn none vl) s (fun u => taken u ∧ u.now.counter cn.toNat = Nat.min (2 ^ 48 - 1) (m.counter cn.toNat + vl.toNat)) ∧
    Does (.postMax q h cn none vl) s (fun u => taken u ∧ u.now.counter cn.toNat = Nat.max (m.counter cn.toNat) vl.toNat)) ∧
  (local_ → dev.toNat ≠ m.devid → (∀ y ∈ m.fb.outbox, y.dev ≠ dev.toNat) → ∀ z ∈ [(Instr.postAdd q h cn (some dev) vl, AmoOp.add), (.postMax q h cn (some dev) vl, .max true)], Does z.1 s fun u =>
    (after u).head = x.head ∧ (after u).busy = some (.post z.1 h) ∧ u.now.fe.evcnt = m.fe.evcnt ∧ ∃ o id, u.now.fb.outbox = m.fb.outbox ++ [o] ∧
      o.dev = dev.toNat ∧ o.packet = .request m.devid id (postBase + 8 * cn.toNat) false (.atomic z.2 true (BitVec.ofNat 64 vl.toNat) 0)) ∧
  (local_ → dev.toNat ≠ m.devid → m.fb.outbox = [o] → m.combinesWith (2052 + k) dev.toNat (postBase + 8 * cn.toNat) .add true o = true →
    Does (.postAdd q h cn (some dev) vl) s fun u => ∃ y, u.now.fb.outbox = [y] ∧ y.dev = o.dev ∧ y.members.length = o.members.length + 1 ∧
      (2052 + k, m.nextId, BitVec.ofNat 64 vl.toNat) ∈ y.members ∧ ∀ z ∈ o.members, z ∈ y.members) ∧
  (cluster < 128 → c' ≠ Cause.katMismatch → c' ≠ Cause.tmrDiverge → cluster ∈ x.clusters →
    (x.noreplay = true → Does (.replayStart cluster c') s fun u => (after u).stopped = true ∧ (after u).cause = Cause.replayFailed ∧ cluster ∈ u.now.cx.suspect) ∧
    (x.noreplay = false → x.replays < 2 → fld x.rpl.toNat 56 8 ≠ 0 → x.record.groups = [] → x.mems = [] → x.busy = none → Does (.replayStart cluster c') s fun u =>
      (after u).replaying = true ∧ (after u).pos = 0 ∧ (after u).skipPosts = x.record.posts ∧ cluster ∈ u.now.cx.suspect)) ∧
  (128 ≤ cluster → exec (.replayStart cluster c') s = .fault .noSuchUnit) ∧
  (here → x.replaying = true → x.record.entries.length ≤ x.pos → Does .replayDone s fun u => (after u).replaying = false ∧ (after u).replays = x.replays + 1 ∧
    (after u).record = x.record) ∧
  (here → x.replaying = false ∨ x.pos < x.record.entries.length → nothing .replayDone) ∧
  (here → Does .queueStop s (fun u => after u = { x with stopped := true, cause := 0 } ∧ others u ∧ u.now.mm = m.mm ∧ u.now.cx = m.cx) ∧
    Does .queueResume s fun u => after u = { x with stopped := false } ∧ others u ∧ u.now.mm = m.mm ∧ u.now.cx = m.cx) ∧
  (here → x.stopped = false → nothing .queueDiscard) ∧
  (here → x.stopped = true → x.mems = [] → Does .queueDiscard s fun u => (after u).head = x.tail ∧ (after u).waiting = none ∧ (after u).busy = none ∧
    (after u).replaying = false ∧ (after u).record = Replay.empty ∧ ∀ l ∈ u.now.lu.launches, l.queue ≠ k) ∧
  (here → m.nextCommand k = none → nothing .commandTake) ∧
  (here → m.nextCommand k = some (.error (.cause c), m0) → stops .commandTake c) ∧
  (here → m.nextCommand k = some (.error (.snoop pa), m0) → Does .commandTake s fun u => pa ∈ u.now.mm.snoops ∧ after u = x ∧ others u) ∧
  (here → x.replaying = false → entry i → startsAlone i = false ∨ m0.queueIdle k = true → ∀ u, exec i ⟨m0, none⟩ = .next u → Does .commandTake s fun t =>
    t.now = u.now ∧ t.pre = s.pre) ∧
  (here → entry i → startsAlone i = true → m0.queueIdle k = false → nothing .commandTake)


/-! ## Launches and banks -/

/-- R142, R144, R146, R148, R151 to R156, R158 to R160, R165, R199, R372, R375: a launch that fits is placed whole and its threads start with the registers of R144;
a shadow takes the other banks; a pre-empted thread is saved and comes back with its registers; the exchange of banks swaps who issues; a
trigger counts; a thread that has drained ends, and the last one ends its launch.
The model's choice stands in log entries 25, 50, 51 and 60 (the image, ends of threads, victims, the context in focus). -/
def Obligations.Launches : Prop := ∀ (s : State) (l : Launch) (cores : List Nat) (j k n a : Nat) (cz : Cause) (m1 : Module) (t2 : Thread) (c2 : Nat),
  let m := s.now
  let c := m.focus
  let t := m.ctx c
  let here := coreOf c
  let nothing (i : Instr) : Prop := exec i s = .next s
  let allFit := ∀ x ∈ m.readyLaunches, m.fits x m.enabled = true
  let runs (u : State) (shadow : Bool) : Prop := ∃ x ∈ u.now.lu.launches, x.id = l.id ∧ x.state = .running ∧ x.asShadow = shadow ∧ x.placed = m.ticks
  let starts (u : Thread) : Prop := u.status = .running ∧ u.launch = l.id ∧ u.queue = l.queue ∧ u.asid = l.asid ∧ u.pc = BitVec.ofNat 64 l.code ∧
    u.rdS 0 = 0 ∧ u.rdS 1 = l.arg ∧ u.csr.tid = BitVec.ofNat 64 j ∧ u.csr.nthr = BitVec.ofNat 64 l.nthr ∧ u.csr.lnum = BitVec.ofNat 64 l.lnum ∧
    u.csr.tvec = m.fe.hvec ∧ (∀ r, 6 ≤ r → u.rdS r = 0) ∧ u.r.v = [] ∧ u.r.sp = [] ∧ u.u = Sequencer.clear ∧
    (l.crews = [0, 0, 0, 0] → ∀ r, 2 ≤ r → r ≤ 5 → u.rdS r = BitVec.allOnes 64)
  let placeable := allFit ∧ m.candidate = some l ∧ l.state = .waiting ∧ m.handlesFor l = true ∧ cores.Nodup ∧ nth? j cores = some k
  let shadowable := m.readyLaunches = [l] ∧ l.state = .waiting ∧ l.shadowOk = true ∧ l.fuse = false ∧ m.lu.claim = none ∧ m.handlesFor l = true ∧
    l.cores (m.coreFree []) = none ∧ cores.Nodup ∧ nth? j cores = some k
  let ours := m.launchOf t.launch = some l
  let saving := ours ∧ l.state = .saving ∧ c < 2048 ∧ (m.core here).exchange = false ∧ m.clockHeld c = false ∧ m.dieHalted (dieOfCore here) = false
  let ending := m.clockHeld c = false ∧ t.status = .halting ∧ t.drained = true ∧ m.cx.crews = [] ∧ m.cx.gangs = []
  (placeable → l.cores (m.coreFree []) = some cores → Does .launchPlace s fun u => starts (u.now.ctx (2 * k)) ∧ runs u false ∧
    (u.now.core k).primary = false ∧ (u.now.core k).active = false) ∧
  (allFit → m.candidate = none → nothing .launchPlace) ∧
  (shadowable → l.cores m.coreShadow = some cores → Does .shadowPlace s fun u => starts (u.now.ctx (m.otherBank k)) ∧ runs u true ∧
    u.now.ctx (m.primary k) = m.ctx (m.primary k) ∧ (u.now.core k).primary = (m.core k).primary ∧ (u.now.core k).active = (m.core k).active) ∧
  (m.readyLaunches = [] → nothing .shadowPlace) ∧
  (m.launchOf l.id = some l → m.allTriggered l = true → l.trigComplete = false → l.tevt = some n → (m.queue l.queue).replaying = false →
    m.counter n < 2 ^ 48 - 1 → Does (.triggerComplete l.id) s fun u => u.now.counter n = m.counter n + 1 ∧
      (∃ x, u.now.launchOf l.id = some x ∧ x.trigComplete = true) ∧ u.now.cx = m.cx ∧ u.now.mm = m.mm) ∧
  (m.launchOf l.id = some l → m.allTriggered l = false ∨ l.trigComplete = true → nothing (.triggerComplete l.id)) ∧
  (saving → t.status = .running → m.atRest c = true → m.writeImage c l = (m1, none) → Does .contextSave s fun u =>
    let v := u.now.ctx (savedCtx l.id c)
    (u.now.ctx c).status = .empty ∧ v.r = t.r ∧ v.csr = t.csr ∧ v.pc = t.pc ∧ v.status = .running ∧ v.x.sq = t.x.sq ∧ v.x.c1q = t.x.c1q ∧
      u.now.mm.mem = m1.mm.mem) ∧
  (saving → t.status = .running → m.atRest c = true → m.writeImage c l = (m1, some (.cause cz)) → Does .contextSave s fun u =>
    (u.now.queue l.queue).stopped = true ∧ (u.now.queue l.queue).cause = Cause.ctxFault ∧ (u.now.ctx c).status = .empty ∧
      ∃ x ∈ u.now.lu.launches, x.id = l.id ∧ x.state = .failed) ∧
  (saving → t.status = .running → m.atRest c = true → m.writeImage c l = (m1, some (.snoop n)) → Does .contextSave s fun u => n ∈ u.now.mm.snoops ∧
    u.now.cx = m.cx ∧ u.now.lu = m.lu) ∧
  (saving → t.status = .ended → Does .contextSave s fun u => (u.now.ctx c).status = .empty ∧ ∃ x ∈ u.now.lu.launches, x.id = l.id ∧
    x.ended = t.tidN :: l.ended) ∧
  (saving → t.status = .running → m.atRest c = false → nothing .contextSave) ∧
  (ours → m.clockHeld c = true ∨ m.dieHalted (dieOfCore here) = true → nothing .contextSave) ∧
  (m.candidate = some l → l.state = .saved → m.cx.gangs = [] → l.fuse = false → t2 = m.ctx a → t2.status = .running → t2.launch = l.id → 2048 ≤ a →
    k < 1024 → (∀ e ∈ m.savedOf l.id, e.2.settled = true) → m.restoreCores l (m.coreFree []) = some [(a, k)] → Does (.launchRestore l.id) s fun u =>
      let v := u.now.ctx (2 * k)
      runs u l.asShadow ∧ (u.now.ctx a).status = .empty ∧ v.r = t2.r ∧ v.csr = t2.csr ∧ v.pc = t2.pc ∧ v.status = .running) ∧
  (m.candidate = none → nothing (.launchRestore n)) ∧
  (m.wantedBank here ≠ (m.core here).active → (m.core here).exchange = false → (m.core here).frozen = false → (m.ctx (m.active here)).c1Touches = false → Does .bankSwitch s fun u =>
    u.now.core here = { m.core here with exchange := true, kat := .none } ∧ u.now.cx.ctxs = m.cx.ctxs ∧ u.now.mm = m.mm) ∧
  (m.wantedBank here = (m.core here).active → nothing .bankSwitch) ∧
  ((m.core here).exchange = true → Does .bankExchangeComplete s fun u =>
    u.now.core here = { m.core here with exchange := false, active := !(m.core here).active } ∧ u.now.mm = m.mm ∧
      ∀ z, u.now.ctx z = if z = u.now.active here then { m.ctx z with u := { (m.ctx z).u with waitFrom := none } } else m.ctx z) ∧
  (ending → ours → l.state = .running → c2 ≠ c → (m.ctx c2).status = .running → (m.ctx c2).launch = l.id → Does .threadEnd s fun u =>
    (u.now.ctx c).status = .ended ∧ (u.now.ctx c).u.trigDone = true ∧ (u.now.core here).post = false ∧ u.now.ctx c2 = m.ctx c2 ∧
      u.now.lu = m.lu ∧ u.now.mm = m.mm) ∧
  (ending → ours → l.state = .running → m.ctxsOf l.id = [c] → Does .threadEnd s fun u => (u.now.ctx c).status = .empty ∧
    ∀ x ∈ u.now.lu.launches, x.id ≠ l.id) ∧
  (t.status ≠ .halting ∨ t.drained = false ∨ m.clockHeld c = true → nothing .threadEnd)

/-! ## Translation -/

/-- R216 to R223, R228 to R231: a walk fills the die's translation unit; an answer of Meadow wakes, or ends with a cause, every access that waits on its
record; an invalidation takes every leaf in scope out before it completes; frames are pinned up to the limit; a migrated page keeps its bytes,
and its leaf names the new frame.
The model's choice stands in log entries 27, 58 and 60 (GO while BUSY, answers to unread records, units that do not exist). -/
def Obligations.Translation : Prop := ∀ (s : State) (die va id cx src dst : Nat) (asid : BitVec 16) (l : Leaf) (e : SEntry) (rest : List SEntry) (p : PfRec)
    (head : Word32) (cmd : Word64) (x : TlbEntry) (c : Cause),
  let m := s.now
  let tr := m.tr
  let only (u : State) (f : Xlate) : Prop := u.now = { m with tr := f }
  let nothing (i : Instr) : Prop := exec i s = .next s
  let ident : BitVec 16 := BitVec.ofNat 16 id
  let waits := id < 65536 ∧ tr.pfrecs = [p] ∧ p.id = id ∧ p.inRing = true ∧ p.kind = pfKindCode .read ∧ m.fb.parked = [] ∧ m.fb.rdmaHeld = [] ∧
    (m.ctx cx).x.sq = e :: rest ∧ e.pf = .waiting id
  let answered (i : Instr) (r : PfWait) : Prop := Does i s fun u => (∃ z, (u.now.ctx cx).x.sq = { e with pf := r } :: z) ∧ u.now.tr.pfrecs = [] ∧
    (u.now.ctx cx).r = (m.ctx cx).r ∧ u.now.mm = m.mm
  let idle := bit tr.invcmd.toNat 63 = false
  let frame := fld cmd.toNat 16 36 * 65536
  let bytes := pinBytes (fld cmd.toNat 0 2)
  let free := bit tr.pincmd.toNat 63 = false
  let busy := bit tr.pincmd.toNat 63 = true
  let held := fld tr.pinRun.toNat 16 36 * 65536
  let size := pinBytes (fld tr.pinRun.toNat 0 2)
  let names (w : Word64) : Prop := fld w.toNat 16 36 = fld cmd.toNat 16 36 ∧ fld w.toNat 0 2 = fld cmd.toNat 0 2
  let quiet := m.fb.parked = [] ∧ m.fb.rdmaHeld = [] ∧ m.mm.late = []
  let pinnedAt (t : Xlate) (a : Nat) : Prop := ∃ r ∈ t.pinned, r.1 ≤ a ∧ a < r.1 + r.2
  let dirty := ∃ z ∈ m.cx.ctxs, z.2.b.dirty ≠ []
  let page := m.migPage
  let space := fld tr.migctl.toNat 0 16
  let moving := bit tr.migctl.toNat 63 = true ∧ walk m space page = .ok l ∧ src = fld l.w0 16 36 * 65536 ∧ bit tr.migRun.2.toNat 63 = false ∧
    dst = fld tr.migRun.2.toNat 16 36 * 65536 ∧ m.migFault dst l.size false = none ∧ m.groups = [] ∧ m.mm.hostHold = [] ∧ ¬dirty ∧ bit l.w0 60 = false ∧
    quiet ∧ (src + l.size ≤ dst ∨ dst + l.size ≤ src)
  (die < 4 → va < 2 ^ 52 → tlbFind die asid.toNat va tr.tlb = none → walk m asid.toNat va = .ok l → 0 < l.size → m.held (l.ptr / 64) = .I → Does (.tableWalk die asid va) s fun u =>
    (∃ z, tlbFind die asid.toNat va u.now.tr.tlb = some z ∧ z.size = l.size ∧ z.w0 = BitVec.ofNat 64 (l.w0 ||| 64) ∧ z.w1 = BitVec.ofNat 64 l.w1) ∧
      (∀ z, u.now.ctx z = m.ctx z) ∧ ∀ a, a ≠ l.ptr → u.byte a = s.byte a) ∧
  (die < 4 → va < 2 ^ 52 → tlbFind die asid.toNat va tr.tlb = some x → nothing (.tableWalk die asid va)) ∧
  (die < 4 → va < 2 ^ 52 → tlbFind die asid.toNat va tr.tlb = none → walk m asid.toNat va = .error (.cause c) → c ≠ Cause.pageNotPresent →
    nothing (.tableWalk die asid va)) ∧
  (die < 4 → va < 2 ^ 52 → tlbFind die asid.toNat va tr.tlb = none → walk m asid.toNat va = .error (.snoop id) → Does (.tableWalk die asid va) s fun u =>
    id ∈ u.now.mm.snoops ∧ u.now.tr = tr ∧ u.now.cx = m.cx) ∧
  (4 ≤ die → exec (.tableWalk die asid va) s = .fault .noSuchUnit ∧ exec (.pageFaultRingHeadWrite die head) s = .fault .noSuchUnit) ∧
  (waits → answered (.pfansRetry ident) .none ∧ answered (.pfansNomap ident) .nomap ∧ answered (.pfansDeny ident) .deny) ∧
  (tr.pfrecs = [] → nothing (.pfansRetry ident) ∧ nothing (.pfansNomap ident) ∧ nothing (.pfansDeny ident)) ∧
  (die < 4 → tr.pfrecs = [] → Does (.pageFaultRingHeadWrite die head) s fun u => fld (Tab.get 0 u.now.tr.pfqptr die).toNat 0 32 = head.toNat ∧
    fld (Tab.get 0 u.now.tr.pfqptr die).toNat 32 32 = fld (Tab.get 0 tr.pfqptr die).toNat 32 32 ∧ (∀ k, k ≠ die → Tab.get 0 u.now.tr.pfqptr k =
      Tab.get 0 tr.pfqptr k) ∧ u.now.mm = m.mm) ∧
  (idle → bit cmd.toNat 59 = false → Does (.invalidate cmd) s fun u => bit u.now.tr.invcmd.toNat 63 = true ∧ u.now.tr.tlb = tr.tlb ∧ u.now.fb = m.fb ∧
    u.now.mm = m.mm) ∧
  (¬idle → nothing (.invalidate cmd)) ∧
  (¬idle → m.dropping = false → ¬dirty → Does .invalidateComplete s fun u => u.now.tr.invcmd = 0 ∧ u.now.mm = m.mm ∧
    ∀ z, z ∈ u.now.tr.tlb ↔ z ∈ tr.tlb ∧ (m.invScope tr.invcmd.toNat).drops z = false) ∧
  (¬idle → m.dropping = false → ¬dirty → Does .invalidateComplete s fun u =>
    ∀ z, z ∈ u.now.tr.tlb1 ↔ z ∈ tr.tlb1 ∧ (m.invScope tr.invcmd.toNat).drops z.2 = false) ∧
  (idle → nothing .invalidateComplete) ∧
  (¬idle → m.dropping = true → nothing .invalidateComplete) ∧
  (free → m.pinRefused frame bytes = none → Does (.pin cmd) s fun u => ∃ w r : Word64, only u { tr with pincmd := w, pinRun := r } ∧ bit w.toNat 63 = true ∧
    bit r.toNat 61 = false ∧ names w ∧ names r) ∧
  (free → m.pinRefused frame bytes = some c → Does (.pin cmd) s fun u => ∃ w : Word64, only u { tr with pincmd := w } ∧ bit w.toNat 63 = false ∧
    bit w.toNat 60 = true ∧ fld w.toNat 53 7 = c.toNat) ∧
  (busy → ∀ i ∈ [Instr.pin cmd, .unpin cmd], Does i s fun u => ∃ w : Word64, only u { tr with pincmd := w } ∧ bit w.toNat 63 = true ∧ names w) ∧
  (free → Does (.unpin cmd) s fun u => ∃ w r : Word64, only u { tr with pincmd := w, pinRun := r } ∧ bit w.toNat 63 = true ∧ bit r.toNat 61 = true ∧
    names w ∧ names r) ∧
  (busy → bit tr.pinRun.toNat 61 = false → Does .pinComplete s fun u => bit u.now.tr.pincmd.toNat 63 = false ∧ u.now.mm = m.mm ∧
    ∀ a, pinnedAt u.now.tr a ↔ pinnedAt tr a ∨ (held ≤ a ∧ a < held + size)) ∧
  (busy → bit tr.pinRun.toNat 61 = true → Does .pinComplete s fun u => bit u.now.tr.pincmd.toNat 63 = false ∧ u.now.mm = m.mm ∧
    ∀ a, pinnedAt u.now.tr a ↔ pinnedAt tr a ∧ ¬(held ≤ a ∧ a < held + size)) ∧
  (free → nothing .pinComplete) ∧
  (bit tr.migctl.toNat 63 = false → Does (.migrate cmd) s (fun u => bit u.now.tr.migctl.toNat 63 = true ∧ fld u.now.tr.migctl.toNat 0 16 = fld cmd.toNat 0 16 ∧
    u.now.mm = m.mm) ∧ nothing .migrationComplete) ∧
  (bit tr.migctl.toNat 63 = true → nothing (.migrate cmd)) ∧
  (bit tr.migctl.toNat 63 = true → walk m space page = .error (.cause c) → quiet → Does .migrationComplete s fun u => bit u.now.tr.migctl.toNat 63 = false ∧
    bit u.now.tr.migctl.toNat 61 = true ∧ fld u.now.tr.migctl.toNat 48 7 = c.toNat ∧ u.now.mm = m.mm) ∧
  (moving → s.memoryWf → (l.ptr + 16 ≤ dst ∨ dst + l.size ≤ l.ptr) → Does .migrationComplete s fun u => u.now.tr.migctl.toNat < 2 ^ 48 ∧
    (∀ i, i < l.size → u.byte (dst + i) = s.byte (src + i)) ∧
    u.now.peekN l.ptr 8 = putFld (m.peekN l.ptr 8) 16 36 (dst / 65536) ∧ ∀ z ∈ u.now.tr.tlb, z.asid = space → z.va + z.size ≤ page / l.size * l.size ∨
      page / l.size * l.size + l.size ≤ z.va)


/-! ## Inputs that are no opcode of the table -/

/-- R6, R7, R13, R15, R26, R51, R53, R62, R66, R112, R114, R200, R212: what the outside world does beside the opcode table: an error of memory counts or poisons a
half-line; a peer that refuses encryption leaves its station out; a link's acknowledgement ends what it acknowledges; a port comes up or goes
down; an L1 loses a line and memory does not; a register reads as its fields do, a write-only one as 0; what is Silo's alone reads 0 and is
logged; copies of a triple issue that disagree are noted; cycles pass.
The model's choice stands in log entries 1, 17 and 29 (inputs as moves of the agenda, upsets as inputs, the log's records). -/
def Obligations.ModuleInputs : Prop := ∀ (s : State) (l : List Move) (h n seq core line slot k off : Nat) (all up : Bool) (r : ModReg) (v : Word64) (x : SiloResource)
    (who : Agent) (o : Outgoing),
  let m := s.now
  let m0 : Module := { m with agenda := l }
  let gives (y : Input) (P : Module → Prop) : Prop := m.agenda = .input y :: l → ∃ u, step s = .next ⟨u, none⟩ ∧ P u
  let logged (u : Module) : Prop := u.silo.log.length = m.silo.log.length + 1 ∧ u.mm = m.mm ∧ u.cx = m.cx
  (isHbm (64 * h) = true → gives (.memError h true) fun u =>
    Tab.get 0 u.silo.memErrors (stackOf (64 * h) / 4) = Tab.get 0 m.silo.memErrors (stackOf (64 * h) / 4) + 1 ∧ u.mm = m.mm ∧ u.cx = m.cx) ∧
  (isHbm (64 * h) = true → gives (.memError h false) fun u => (∀ z, z ∈ u.mm.poison ↔ z = h ∨ z ∈ m.mm.poison) ∧ u.mm.mem = m.mm.mem ∧ u.cx = m.cx) ∧
  (h < 2 ^ 36 → gives (.poolError h) fun u => (∀ z, z ∈ u.mm.poolPoison ↔ z = h ∨ z ∈ m.mm.poolPoison) ∧ u.mm.pool = m.mm.pool ∧ u.cx = m.cx) ∧
  (n < 36 → gives (.peerRefuses n true) fun u => (u.station n).refused = true ∧ n ∉ u.liveStations ∧ u.cx = m.cx ∧ u.mm = m.mm) ∧
  ((∀ z ∈ m.fb.outbox, z.seq.isSome = true) → o ∈ m.fb.outbox → o.station = n → o.seq = some k → k ≤ seq → gives (.linkAck n seq) fun u =>
    (packetAsks o.packet = false → o ∉ u.fb.outbox) ∧ (packetAsks o.packet = true → { o with acked := true } ∈ u.fb.outbox) ∧ u.cx = m.cx ∧ u.mm = m.mm) ∧
  (n < 10 → gives (.ethernet n up) fun u => (n ∈ u.fb.ethUp ↔ up = true) ∧ (∀ z, z ≠ n → (z ∈ u.fb.ethUp ↔ z ∈ m.fb.ethUp)) ∧ u.cx = m.cx ∧ u.mm = m.mm) ∧
  (gives (.l1Evict core line) fun u => (∀ y ∈ (u.core core).l1, y.line ≠ line) ∧ (∀ z, z ≠ core → u.core z = m.core z) ∧ u.mm.mem = m.mm.mem ∧
    u.cx.ctxs = m.cx.ctxs) ∧
  (regExists r = true → gives (.regRead r) fun u => u = { m0 with fe := { m0.fe with readOut := m.readReg r } }) ∧
  (m.readReg .notify = 0 ∧ m.readReg .pfans = 0 ∧ (m.readReg .mccmd).toNat % 2 ^ 63 = 0 ∧ (m.readReg .invcmd).toNat % 2 ^ 63 = 0) ∧
  gives (.siloOnly x false) (fun u => logged u ∧ u.fe.readOut = 0) ∧
  gives (.siloOnly x true) (fun u => logged u ∧ u.fe = m.fe) ∧
  (groupReg off = some r → gives (.blockAccess who true off (some v)) (fun u => u = m0.registerWrite who r v) ∧
    gives (.blockAccess who true off none) fun u => u = m0.registerRead r) ∧
  (frontReg off = some r → gives (.blockAccess who false off (some v)) (fun u => u = m0.registerWrite who r v) ∧
    gives (.blockAccess who false off none) fun u => u = m0.registerRead r) ∧
  (slot < 8 → groupReg (0x2000 * slot) = some (.gctl slot) ∧ groupReg (0x2000 * slot + 0x030) = some (.grepair slot) ∧
    (k < 16 → groupReg (0x2000 * slot + 0x100 + 8 * k) = some (.gmem slot k) ∧ groupReg (0x2000 * slot + 0x1000 + 8 * k) = some (.glog slot k)) ∧
    (k < 64 → groupReg (0x2000 * slot + 0x400 + 16 * k) = some (.greg0 slot k) ∧ groupReg (0x2000 * slot + 0x408 + 16 * k) = some (.greg1 slot k))) ∧
  (k < 64 → frontReg (0x40 * k) = some (.cqcfg k) ∧ frontReg (0x40 * k + 0x10) = some (.cqstat k)) ∧
  (n < 4096 → frontReg (0x1000 + 8 * n) = some (.evcnt n)) ∧
  (core < 1024 → slot < 3 → gives (.upset core slot all) fun u => (slot, all) ∈ (u.core core).upsets ∧ u.cx.ctxs = m.cx.ctxs ∧ u.mm = m.mm) ∧
  (m.agenda = .tick n :: l → ∃ u, step s = .next ⟨u, none⟩ ∧ u.clk.cycle = m.clk.cycle + n ∧ u.cx = m.cx ∧ u.mm = m.mm ∧ u.fe = m.fe)
end

