-- ==== Sys2Proof/Laws/Tab.lean ====
section
/-!
SUPPORT. The laws of sparse stores and of byte strings in them: a read after a write, and the canonical form kept by every operation.
-/

set_option Elab.async false

namespace Sys2Proof

section
variable {α : Type} (d : α)

@[simp] theorem Tab.get_nil (k : Nat) : Tab.get d [] k = d := rfl

theorem Tab.get_erase (t : Tab α) (k j : Nat) : Tab.get d (Tab.erase t k) j = if j = k then d else Tab.get d t j := by
  induction t with
  | nil => simp [Tab.erase, Tab.get]
  | cons e t ih =>
    obtain ⟨i, v⟩ := e
    by_cases hi : i = k
    · subst hi
      by_cases hj : i = j
      · subst hj; simp [Tab.erase, ih]
      · simp [Tab.erase, Tab.get, ih, hj, Ne.symm hj]
    · by_cases hj : i = j
      · subst hj; simp [Tab.erase, Tab.get, hi]
      · simp [Tab.erase, Tab.get, hi, hj, ih]

theorem Tab.get_of_not_has (t : Tab α) (k : Nat) (h : Tab.has t k = false) : Tab.get d t k = d := by
  induction t with
  | nil => rfl
  | cons e t ih =>
    obtain ⟨i, v⟩ := e
    simp only [Tab.has] at h
    simp only [Tab.get]
    split <;> simp_all

theorem Tab.get_without (t : Tab α) (k j : Nat) : Tab.get d (Tab.without t k) j = if j = k then d else Tab.get d t j := by
  unfold Tab.without
  split
  · exact Tab.get_erase d t k j
  · split
    · next h hj => subst hj; exact Tab.get_of_not_has d t j (by simpa using h)
    · rfl

variable [DecidableEq α]

/-- A read after a write. -/
theorem Tab.get_set (t : Tab α) (k j : Nat) (v : α) : Tab.get d (Tab.set d t k v) j = if j = k then v else Tab.get d t j := by
  induction t with
  | nil =>
    by_cases hj : j = k
    · subst hj; by_cases hv : v = d <;> simp [Tab.set, Tab.get, hv]
    · by_cases hv : v = d <;> simp [Tab.set, Tab.get, hv, hj, Ne.symm hj]
  | cons e t ih =>
    obtain ⟨i, w⟩ := e
    by_cases hi : i = k
    · subst hi
      by_cases hj : j = i
      · subst hj; by_cases hv : v = d <;> simp [Tab.set, Tab.get, Tab.get_without, hv]
      · by_cases hv : v = d <;> simp [Tab.set, Tab.get, Tab.get_without, hv, hj, Ne.symm hj]
    · by_cases hk : k < i
      · by_cases hj : j = k
        · subst hj; by_cases hv : v = d <;> simp [Tab.set, Tab.get, Tab.get_without, hv, hi, hk]
        · by_cases hv : v = d <;> simp [Tab.set, Tab.get, Tab.get_without, hv, hi, hk, hj, Ne.symm hj]
      · by_cases hj : j = k
        · subst hj; simp [Tab.set, Tab.get, ih, hi, hk]
        · simp [Tab.set, Tab.get, ih, hi, hk, hj]

@[simp] theorem Tab.get_set_self (t : Tab α) (k : Nat) (v : α) : Tab.get d (Tab.set d t k v) k = v := by simp [Tab.get_set]

theorem Tab.get_set_ne (t : Tab α) {k j : Nat} (v : α) (h : j ≠ k) : Tab.get d (Tab.set d t k v) j = Tab.get d t j := by
  simp [Tab.get_set, h]

/-- A write leaves every other key alone, whatever an unlisted key there reads as. -/
theorem Tab.get_set_other (c : α) (t : Tab α) {k j : Nat} (v : α) (h : j ≠ k) : Tab.get c (Tab.set d t k v) j = Tab.get c t j := by
  have gone : ∀ l : Tab α, Tab.get c (Tab.without l k) j = Tab.get c l j := fun l => by simp [Tab.get_without, h]
  induction t with
  | nil => by_cases hv : v = d <;> simp [Tab.set, Tab.get, hv, Ne.symm h]
  | cons e t ih =>
    obtain ⟨i, w⟩ := e
    by_cases hi : i = k
    · subst hi; by_cases hv : v = d <;> simp [Tab.set, Tab.get, gone, hv, Ne.symm h]
    · by_cases hk : k < i
      · by_cases hv : v = d <;> simp [Tab.set, Tab.get, gone, hv, hi, hk, Ne.symm h]
      · simp [Tab.set, Tab.get, ih, hi, hk]

theorem Tab.get_modify (t : Tab α) (k j : Nat) (f : α → α) :
    Tab.get d (Tab.modify d t k f) j = if j = k then f (Tab.get d t k) else Tab.get d t j := Tab.get_set d t k j _

/-! ## The canonical form -/

theorem Tab.wfFrom_mono {lo lo' : Nat} (t : Tab α) (h : lo' ≤ lo) (hw : Tab.wfFrom d lo t = true) : Tab.wfFrom d lo' t = true := by
  cases t with
  | nil => rfl
  | cons e t =>
    obtain ⟨j, v⟩ := e
    simp only [Tab.wfFrom, Bool.and_eq_true, decide_eq_true_eq] at *
    exact ⟨⟨by omega, hw.1.2⟩, hw.2⟩

theorem Tab.has_eq_false {lo : Nat} (t : Tab α) (k : Nat) (hw : Tab.wfFrom d lo t = true) (h : k < lo) : Tab.has t k = false := by
  induction t generalizing lo with
  | nil => rfl
  | cons e t ih =>
    obtain ⟨j, v⟩ := e
    simp only [Tab.wfFrom, Bool.and_eq_true, decide_eq_true_eq] at hw
    have : j ≠ k := by omega
    simp [Tab.has, this, ih hw.2 (by omega)]

theorem Tab.without_eq {lo : Nat} (t : Tab α) (k : Nat) (hw : Tab.wfFrom d lo t = true) (h : k < lo) : Tab.without t k = t := by
  simp [Tab.without, Tab.has_eq_false d t k hw h]

theorem Tab.wfFrom_set {lo : Nat} (t : Tab α) (k : Nat) (v : α) (hw : Tab.wfFrom d lo t = true) (h : lo ≤ k) :
    Tab.wfFrom d lo (Tab.set d t k v) = true := by
  induction t generalizing lo with
  | nil => simp only [Tab.set]; split <;> simp_all [Tab.wfFrom]
  | cons e t ih =>
    obtain ⟨j, w⟩ := e
    have hw' := hw
    simp only [Tab.wfFrom, Bool.and_eq_true, decide_eq_true_eq] at hw
    simp only [Tab.set]
    split
    · next hj =>
      subst hj
      split
      · rw [Tab.without_eq d t j hw.2 (by omega)]; exact Tab.wfFrom_mono d t (by omega) hw.2
      · next hv => simp [Tab.wfFrom, hv, hw]
    · split
      · split
        · rw [Tab.without_eq d t k hw.2 (by omega)]; exact hw'
        · next hv => simp only [Tab.wfFrom, Bool.and_eq_true, decide_eq_true_eq]; exact ⟨⟨h, hv⟩, ⟨by omega, hw.1.2⟩, hw.2⟩
      · simp only [Tab.wfFrom, Bool.and_eq_true, decide_eq_true_eq]; exact ⟨hw.1, ih hw.2 (by omega)⟩

/-- A write keeps the canonical form. -/
theorem Tab.wf_set (t : Tab α) (k : Nat) (v : α) (hw : Tab.wf d t = true) : Tab.wf d (Tab.set d t k v) = true :=
  Tab.wfFrom_set d t k v hw (Nat.zero_le _)

theorem Tab.wf_modify (t : Tab α) (k : Nat) (f : α → α) (hw : Tab.wf d t = true) : Tab.wf d (Tab.modify d t k f) = true :=
  Tab.wf_set d t k _ hw

theorem Tab.wfFrom_drop {lo : Nat} (p : Nat → Bool) (t : Tab α) (hw : Tab.wfFrom d lo t = true) : Tab.wfFrom d lo (Tab.drop p t) = true := by
  induction t generalizing lo with
  | nil => rfl
  | cons e t ih =>
    obtain ⟨j, v⟩ := e
    simp only [Tab.wfFrom, Bool.and_eq_true, decide_eq_true_eq] at hw
    simp only [Tab.drop]
    split
    · exact Tab.wfFrom_mono d _ (by omega) (ih hw.2)
    · simp only [Tab.wfFrom, Bool.and_eq_true, decide_eq_true_eq]; exact ⟨hw.1, ih hw.2⟩

/-- Taking entries out keeps the canonical form. -/
theorem Tab.wf_drop (p : Nat → Bool) (t : Tab α) (hw : Tab.wf d t = true) : Tab.wf d (Tab.drop p t) = true := Tab.wfFrom_drop d p t hw

end

/-! ## Byte strings -/

/-- Writing a byte string keeps the canonical form. -/
theorem Tab.wf_putBytes (t : Tab Byte) (a : Nat) (bs : List Byte) (hw : Tab.wf 0 t = true) : Tab.wf 0 (Tab.putBytes t a bs) = true := by
  induction bs generalizing t a with
  | nil => exact hw
  | cons b bs ih => exact ih _ _ (Tab.wf_set 0 t a b hw)

/-- Writing only some bytes of a string keeps the canonical form. -/
theorem Tab.wf_putSome (t : Tab Byte) (a : Nat) (bs : List (Option Byte)) (hw : Tab.wf 0 t = true) :
    Tab.wf 0 (Tab.putSome t a bs) = true := by
  induction bs generalizing t a with
  | nil => exact hw
  | cons b bs ih =>
    cases b with
    | none => exact ih _ _ hw
    | some b => exact ih _ _ (Tab.wf_set 0 t a b hw)

/-- A byte outside a written string keeps its value. -/
theorem Tab.get_putBytes_ne (t : Tab Byte) (a k : Nat) (bs : List Byte) (h : k < a ∨ a + bs.length ≤ k) :
    Tab.get 0 (Tab.putBytes t a bs) k = Tab.get 0 t k := by
  induction bs generalizing t a with
  | nil => rfl
  | cons b bs ih =>
    simp only [List.length_cons] at h
    simp only [Tab.putBytes]
    rw [ih _ _ (by omega), Tab.get_set_ne _ _ _ (by omega)]

/-- A byte inside a written string reads as the string's. -/
theorem Tab.get_putBytes (t : Tab Byte) (a i : Nat) (bs : List Byte) (h : i < bs.length) :
    Tab.get 0 (Tab.putBytes t a bs) (a + i) = bs[i] := by
  induction bs generalizing t a i with
  | nil => simp at h
  | cons b bs ih =>
    simp only [Tab.putBytes]
    cases i with
    | zero => rw [Nat.add_zero, Tab.get_putBytes_ne _ _ _ _ (by omega)]; simp
    | succ i =>
      have := ih (Tab.set 0 t a b) (a + 1) i (by simpa using h)
      rw [show a + (i + 1) = a + 1 + i by omega, this]; simp

/-- The bytes of a string read back after it is written. -/
theorem Tab.bytes_putBytes (t : Tab Byte) (a : Nat) (bs : List Byte) : Tab.bytes (Tab.putBytes t a bs) a bs.length = bs := by
  have key : ∀ (n o : Nat), o + n = bs.length → Tab.bytes (Tab.putBytes t a bs) (a + o) n = bs.drop o := by
    intro n
    induction n with
    | zero => intro o ho; simp [Tab.bytes, List.drop_eq_nil_of_le (by omega : bs.length ≤ o)]
    | succ n ih =>
      intro o ho
      simp only [Tab.bytes]
      rw [Tab.get_putBytes _ _ _ _ (by omega), Nat.add_assoc, ih (o + 1) (by omega), List.drop_eq_getElem_cons (by omega : o < bs.length)]
  simpa using key bs.length 0 (by omega)

@[simp] theorem Tab.length_bytes (t : Tab Byte) (a n : Nat) : (Tab.bytes t a n).length = n := by
  induction n generalizing a with
  | zero => rfl
  | succ n ih => simp [Tab.bytes, ih]

end Sys2Proof
end

