-- ==== Sys2Proof/Laws/State.lean ====
section
/-!
SUPPORT. What each update of the state leaves alone and what it changes: one lemma per field per update, so that no proof unfolds a record
update.
-/

set_option Elab.async false

namespace Sys2Proof.Machine

/-! ## Updates of the module -/

@[simp] theorem Module.setCtx_agenda (m : Module) (c : Nat) (t : Thread) : (m.setCtx c t).agenda = m.agenda := rfl
@[simp] theorem Module.setCtx_focus (m : Module) (c : Nat) (t : Thread) : (m.setCtx c t).focus = m.focus := rfl
@[simp] theorem Module.setCtx_gfocus (m : Module) (c : Nat) (t : Thread) : (m.setCtx c t).gfocus = m.gfocus := rfl
@[simp] theorem Module.setCtx_qfocus (m : Module) (c : Nat) (t : Thread) : (m.setCtx c t).qfocus = m.qfocus := rfl
@[simp] theorem Module.setCtx_turn (m : Module) (c : Nat) (t : Thread) : (m.setCtx c t).turn = m.turn := rfl
@[simp] theorem Module.setCtx_clk (m : Module) (c : Nat) (t : Thread) : (m.setCtx c t).clk = m.clk := rfl
@[simp] theorem Module.setCtx_silo (m : Module) (c : Nat) (t : Thread) : (m.setCtx c t).silo = m.silo := rfl
@[simp] theorem Module.setCtx_mm (m : Module) (c : Nat) (t : Thread) : (m.setCtx c t).mm = m.mm := rfl
@[simp] theorem Module.setCtx_tr (m : Module) (c : Nat) (t : Thread) : (m.setCtx c t).tr = m.tr := rfl
@[simp] theorem Module.setCtx_lu (m : Module) (c : Nat) (t : Thread) : (m.setCtx c t).lu = m.lu := rfl
@[simp] theorem Module.setCtx_fe (m : Module) (c : Nat) (t : Thread) : (m.setCtx c t).fe = m.fe := rfl
@[simp] theorem Module.setCtx_fb (m : Module) (c : Nat) (t : Thread) : (m.setCtx c t).fb = m.fb := rfl
@[simp] theorem Module.setCtx_groups (m : Module) (c : Nat) (t : Thread) : (m.setCtx c t).groups = m.groups := rfl

@[simp] theorem Module.modCtx_agenda (m : Module) (c : Nat) (f : Thread → Thread) : (m.modCtx c f).agenda = m.agenda := rfl
@[simp] theorem Module.modCtx_focus (m : Module) (c : Nat) (f : Thread → Thread) : (m.modCtx c f).focus = m.focus := rfl
@[simp] theorem Module.modCtx_gfocus (m : Module) (c : Nat) (f : Thread → Thread) : (m.modCtx c f).gfocus = m.gfocus := rfl
@[simp] theorem Module.modCtx_qfocus (m : Module) (c : Nat) (f : Thread → Thread) : (m.modCtx c f).qfocus = m.qfocus := rfl
@[simp] theorem Module.modCtx_turn (m : Module) (c : Nat) (f : Thread → Thread) : (m.modCtx c f).turn = m.turn := rfl
@[simp] theorem Module.modCtx_clk (m : Module) (c : Nat) (f : Thread → Thread) : (m.modCtx c f).clk = m.clk := rfl
@[simp] theorem Module.modCtx_silo (m : Module) (c : Nat) (f : Thread → Thread) : (m.modCtx c f).silo = m.silo := rfl
@[simp] theorem Module.modCtx_mm (m : Module) (c : Nat) (f : Thread → Thread) : (m.modCtx c f).mm = m.mm := rfl
@[simp] theorem Module.modCtx_tr (m : Module) (c : Nat) (f : Thread → Thread) : (m.modCtx c f).tr = m.tr := rfl
@[simp] theorem Module.modCtx_lu (m : Module) (c : Nat) (f : Thread → Thread) : (m.modCtx c f).lu = m.lu := rfl
@[simp] theorem Module.modCtx_fe (m : Module) (c : Nat) (f : Thread → Thread) : (m.modCtx c f).fe = m.fe := rfl
@[simp] theorem Module.modCtx_fb (m : Module) (c : Nat) (f : Thread → Thread) : (m.modCtx c f).fb = m.fb := rfl
@[simp] theorem Module.modCtx_groups (m : Module) (c : Nat) (f : Thread → Thread) : (m.modCtx c f).groups = m.groups := rfl

@[simp] theorem Module.modTh_agenda (m : Module) (f : Thread → Thread) : (m.modTh f).agenda = m.agenda := rfl
@[simp] theorem Module.modTh_focus (m : Module) (f : Thread → Thread) : (m.modTh f).focus = m.focus := rfl
@[simp] theorem Module.modTh_gfocus (m : Module) (f : Thread → Thread) : (m.modTh f).gfocus = m.gfocus := rfl
@[simp] theorem Module.modTh_qfocus (m : Module) (f : Thread → Thread) : (m.modTh f).qfocus = m.qfocus := rfl
@[simp] theorem Module.modTh_turn (m : Module) (f : Thread → Thread) : (m.modTh f).turn = m.turn := rfl
@[simp] theorem Module.modTh_clk (m : Module) (f : Thread → Thread) : (m.modTh f).clk = m.clk := rfl
@[simp] theorem Module.modTh_silo (m : Module) (f : Thread → Thread) : (m.modTh f).silo = m.silo := rfl
@[simp] theorem Module.modTh_mm (m : Module) (f : Thread → Thread) : (m.modTh f).mm = m.mm := rfl
@[simp] theorem Module.modTh_tr (m : Module) (f : Thread → Thread) : (m.modTh f).tr = m.tr := rfl
@[simp] theorem Module.modTh_lu (m : Module) (f : Thread → Thread) : (m.modTh f).lu = m.lu := rfl
@[simp] theorem Module.modTh_fe (m : Module) (f : Thread → Thread) : (m.modTh f).fe = m.fe := rfl
@[simp] theorem Module.modTh_fb (m : Module) (f : Thread → Thread) : (m.modTh f).fb = m.fb := rfl
@[simp] theorem Module.modTh_groups (m : Module) (f : Thread → Thread) : (m.modTh f).groups = m.groups := rfl

@[simp] theorem Module.modCore_agenda (m : Module) (k : Nat) (f : Core → Core) : (m.modCore k f).agenda = m.agenda := rfl
@[simp] theorem Module.modCore_focus (m : Module) (k : Nat) (f : Core → Core) : (m.modCore k f).focus = m.focus := rfl
@[simp] theorem Module.modCore_gfocus (m : Module) (k : Nat) (f : Core → Core) : (m.modCore k f).gfocus = m.gfocus := rfl
@[simp] theorem Module.modCore_qfocus (m : Module) (k : Nat) (f : Core → Core) : (m.modCore k f).qfocus = m.qfocus := rfl
@[simp] theorem Module.modCore_turn (m : Module) (k : Nat) (f : Core → Core) : (m.modCore k f).turn = m.turn := rfl
@[simp] theorem Module.modCore_clk (m : Module) (k : Nat) (f : Core → Core) : (m.modCore k f).clk = m.clk := rfl
@[simp] theorem Module.modCore_silo (m : Module) (k : Nat) (f : Core → Core) : (m.modCore k f).silo = m.silo := rfl
@[simp] theorem Module.modCore_mm (m : Module) (k : Nat) (f : Core → Core) : (m.modCore k f).mm = m.mm := rfl
@[simp] theorem Module.modCore_tr (m : Module) (k : Nat) (f : Core → Core) : (m.modCore k f).tr = m.tr := rfl
@[simp] theorem Module.modCore_lu (m : Module) (k : Nat) (f : Core → Core) : (m.modCore k f).lu = m.lu := rfl
@[simp] theorem Module.modCore_fe (m : Module) (k : Nat) (f : Core → Core) : (m.modCore k f).fe = m.fe := rfl
@[simp] theorem Module.modCore_fb (m : Module) (k : Nat) (f : Core → Core) : (m.modCore k f).fb = m.fb := rfl
@[simp] theorem Module.modCore_groups (m : Module) (k : Nat) (f : Core → Core) : (m.modCore k f).groups = m.groups := rfl

@[simp] theorem Module.setCrew_agenda (m : Module) (h : Nat) (c : Crew) : (m.setCrew h c).agenda = m.agenda := rfl
@[simp] theorem Module.setCrew_focus (m : Module) (h : Nat) (c : Crew) : (m.setCrew h c).focus = m.focus := rfl
@[simp] theorem Module.setCrew_gfocus (m : Module) (h : Nat) (c : Crew) : (m.setCrew h c).gfocus = m.gfocus := rfl
@[simp] theorem Module.setCrew_qfocus (m : Module) (h : Nat) (c : Crew) : (m.setCrew h c).qfocus = m.qfocus := rfl
@[simp] theorem Module.setCrew_turn (m : Module) (h : Nat) (c : Crew) : (m.setCrew h c).turn = m.turn := rfl
@[simp] theorem Module.setCrew_clk (m : Module) (h : Nat) (c : Crew) : (m.setCrew h c).clk = m.clk := rfl
@[simp] theorem Module.setCrew_silo (m : Module) (h : Nat) (c : Crew) : (m.setCrew h c).silo = m.silo := rfl
@[simp] theorem Module.setCrew_mm (m : Module) (h : Nat) (c : Crew) : (m.setCrew h c).mm = m.mm := rfl
@[simp] theorem Module.setCrew_tr (m : Module) (h : Nat) (c : Crew) : (m.setCrew h c).tr = m.tr := rfl
@[simp] theorem Module.setCrew_lu (m : Module) (h : Nat) (c : Crew) : (m.setCrew h c).lu = m.lu := rfl
@[simp] theorem Module.setCrew_fe (m : Module) (h : Nat) (c : Crew) : (m.setCrew h c).fe = m.fe := rfl
@[simp] theorem Module.setCrew_fb (m : Module) (h : Nat) (c : Crew) : (m.setCrew h c).fb = m.fb := rfl
@[simp] theorem Module.setCrew_groups (m : Module) (h : Nat) (c : Crew) : (m.setCrew h c).groups = m.groups := rfl

@[simp] theorem Module.setGang_agenda (m : Module) (g : Nat) (x : Gang) : (m.setGang g x).agenda = m.agenda := rfl
@[simp] theorem Module.setGang_focus (m : Module) (g : Nat) (x : Gang) : (m.setGang g x).focus = m.focus := rfl
@[simp] theorem Module.setGang_gfocus (m : Module) (g : Nat) (x : Gang) : (m.setGang g x).gfocus = m.gfocus := rfl
@[simp] theorem Module.setGang_qfocus (m : Module) (g : Nat) (x : Gang) : (m.setGang g x).qfocus = m.qfocus := rfl
@[simp] theorem Module.setGang_turn (m : Module) (g : Nat) (x : Gang) : (m.setGang g x).turn = m.turn := rfl
@[simp] theorem Module.setGang_clk (m : Module) (g : Nat) (x : Gang) : (m.setGang g x).clk = m.clk := rfl
@[simp] theorem Module.setGang_silo (m : Module) (g : Nat) (x : Gang) : (m.setGang g x).silo = m.silo := rfl
@[simp] theorem Module.setGang_mm (m : Module) (g : Nat) (x : Gang) : (m.setGang g x).mm = m.mm := rfl
@[simp] theorem Module.setGang_tr (m : Module) (g : Nat) (x : Gang) : (m.setGang g x).tr = m.tr := rfl
@[simp] theorem Module.setGang_lu (m : Module) (g : Nat) (x : Gang) : (m.setGang g x).lu = m.lu := rfl
@[simp] theorem Module.setGang_fe (m : Module) (g : Nat) (x : Gang) : (m.setGang g x).fe = m.fe := rfl
@[simp] theorem Module.setGang_fb (m : Module) (g : Nat) (x : Gang) : (m.setGang g x).fb = m.fb := rfl
@[simp] theorem Module.setGang_groups (m : Module) (g : Nat) (x : Gang) : (m.setGang g x).groups = m.groups := rfl

@[simp] theorem Module.modQueue_agenda (m : Module) (q : Nat) (f : Queue → Queue) : (m.modQueue q f).agenda = m.agenda := rfl
@[simp] theorem Module.modQueue_focus (m : Module) (q : Nat) (f : Queue → Queue) : (m.modQueue q f).focus = m.focus := rfl
@[simp] theorem Module.modQueue_gfocus (m : Module) (q : Nat) (f : Queue → Queue) : (m.modQueue q f).gfocus = m.gfocus := rfl
@[simp] theorem Module.modQueue_qfocus (m : Module) (q : Nat) (f : Queue → Queue) : (m.modQueue q f).qfocus = m.qfocus := rfl
@[simp] theorem Module.modQueue_turn (m : Module) (q : Nat) (f : Queue → Queue) : (m.modQueue q f).turn = m.turn := rfl
@[simp] theorem Module.modQueue_clk (m : Module) (q : Nat) (f : Queue → Queue) : (m.modQueue q f).clk = m.clk := rfl
@[simp] theorem Module.modQueue_silo (m : Module) (q : Nat) (f : Queue → Queue) : (m.modQueue q f).silo = m.silo := rfl
@[simp] theorem Module.modQueue_mm (m : Module) (q : Nat) (f : Queue → Queue) : (m.modQueue q f).mm = m.mm := rfl
@[simp] theorem Module.modQueue_tr (m : Module) (q : Nat) (f : Queue → Queue) : (m.modQueue q f).tr = m.tr := rfl
@[simp] theorem Module.modQueue_cx (m : Module) (q : Nat) (f : Queue → Queue) : (m.modQueue q f).cx = m.cx := rfl
@[simp] theorem Module.modQueue_lu (m : Module) (q : Nat) (f : Queue → Queue) : (m.modQueue q f).lu = m.lu := rfl
@[simp] theorem Module.modQueue_fb (m : Module) (q : Nat) (f : Queue → Queue) : (m.modQueue q f).fb = m.fb := rfl
@[simp] theorem Module.modQueue_groups (m : Module) (q : Nat) (f : Queue → Queue) : (m.modQueue q f).groups = m.groups := rfl

@[simp] theorem Module.modGroup_agenda (m : Module) (g : Nat) (f : Group → Group) : (m.modGroup g f).agenda = m.agenda := rfl
@[simp] theorem Module.modGroup_focus (m : Module) (g : Nat) (f : Group → Group) : (m.modGroup g f).focus = m.focus := rfl
@[simp] theorem Module.modGroup_gfocus (m : Module) (g : Nat) (f : Group → Group) : (m.modGroup g f).gfocus = m.gfocus := rfl
@[simp] theorem Module.modGroup_qfocus (m : Module) (g : Nat) (f : Group → Group) : (m.modGroup g f).qfocus = m.qfocus := rfl
@[simp] theorem Module.modGroup_turn (m : Module) (g : Nat) (f : Group → Group) : (m.modGroup g f).turn = m.turn := rfl
@[simp] theorem Module.modGroup_clk (m : Module) (g : Nat) (f : Group → Group) : (m.modGroup g f).clk = m.clk := rfl
@[simp] theorem Module.modGroup_silo (m : Module) (g : Nat) (f : Group → Group) : (m.modGroup g f).silo = m.silo := rfl
@[simp] theorem Module.modGroup_mm (m : Module) (g : Nat) (f : Group → Group) : (m.modGroup g f).mm = m.mm := rfl
@[simp] theorem Module.modGroup_tr (m : Module) (g : Nat) (f : Group → Group) : (m.modGroup g f).tr = m.tr := rfl
@[simp] theorem Module.modGroup_cx (m : Module) (g : Nat) (f : Group → Group) : (m.modGroup g f).cx = m.cx := rfl
@[simp] theorem Module.modGroup_lu (m : Module) (g : Nat) (f : Group → Group) : (m.modGroup g f).lu = m.lu := rfl
@[simp] theorem Module.modGroup_fe (m : Module) (g : Nat) (f : Group → Group) : (m.modGroup g f).fe = m.fe := rfl
@[simp] theorem Module.modGroup_fb (m : Module) (g : Nat) (f : Group → Group) : (m.modGroup g f).fb = m.fb := rfl

@[simp] theorem Module.modStation_agenda (m : Module) (n : Nat) (f : Station → Station) : (m.modStation n f).agenda = m.agenda := rfl
@[simp] theorem Module.modStation_focus (m : Module) (n : Nat) (f : Station → Station) : (m.modStation n f).focus = m.focus := rfl
@[simp] theorem Module.modStation_gfocus (m : Module) (n : Nat) (f : Station → Station) : (m.modStation n f).gfocus = m.gfocus := rfl
@[simp] theorem Module.modStation_qfocus (m : Module) (n : Nat) (f : Station → Station) : (m.modStation n f).qfocus = m.qfocus := rfl
@[simp] theorem Module.modStation_turn (m : Module) (n : Nat) (f : Station → Station) : (m.modStation n f).turn = m.turn := rfl
@[simp] theorem Module.modStation_clk (m : Module) (n : Nat) (f : Station → Station) : (m.modStation n f).clk = m.clk := rfl
@[simp] theorem Module.modStation_silo (m : Module) (n : Nat) (f : Station → Station) : (m.modStation n f).silo = m.silo := rfl
@[simp] theorem Module.modStation_mm (m : Module) (n : Nat) (f : Station → Station) : (m.modStation n f).mm = m.mm := rfl
@[simp] theorem Module.modStation_tr (m : Module) (n : Nat) (f : Station → Station) : (m.modStation n f).tr = m.tr := rfl
@[simp] theorem Module.modStation_cx (m : Module) (n : Nat) (f : Station → Station) : (m.modStation n f).cx = m.cx := rfl
@[simp] theorem Module.modStation_lu (m : Module) (n : Nat) (f : Station → Station) : (m.modStation n f).lu = m.lu := rfl
@[simp] theorem Module.modStation_fe (m : Module) (n : Nat) (f : Station → Station) : (m.modStation n f).fe = m.fe := rfl
@[simp] theorem Module.modStation_groups (m : Module) (n : Nat) (f : Station → Station) : (m.modStation n f).groups = m.groups := rfl

@[simp] theorem Module.pass_agenda (m : Module) (n : Nat) : (m.pass n).agenda = m.agenda := rfl
@[simp] theorem Module.pass_focus (m : Module) (n : Nat) : (m.pass n).focus = m.focus := rfl
@[simp] theorem Module.pass_gfocus (m : Module) (n : Nat) : (m.pass n).gfocus = m.gfocus := rfl
@[simp] theorem Module.pass_qfocus (m : Module) (n : Nat) : (m.pass n).qfocus = m.qfocus := rfl
@[simp] theorem Module.pass_turn (m : Module) (n : Nat) : (m.pass n).turn = m.turn := rfl
@[simp] theorem Module.pass_silo (m : Module) (n : Nat) : (m.pass n).silo = m.silo := rfl
@[simp] theorem Module.pass_mm (m : Module) (n : Nat) : (m.pass n).mm = m.mm := rfl
@[simp] theorem Module.pass_tr (m : Module) (n : Nat) : (m.pass n).tr = m.tr := rfl
@[simp] theorem Module.pass_cx (m : Module) (n : Nat) : (m.pass n).cx = m.cx := rfl
@[simp] theorem Module.pass_lu (m : Module) (n : Nat) : (m.pass n).lu = m.lu := rfl
@[simp] theorem Module.pass_fe (m : Module) (n : Nat) : (m.pass n).fe = m.fe := rfl
@[simp] theorem Module.pass_fb (m : Module) (n : Nat) : (m.pass n).fb = m.fb := rfl
@[simp] theorem Module.pass_groups (m : Module) (n : Nat) : (m.pass n).groups = m.groups := rfl

@[simp] theorem Module.poke_agenda (m : Module) (pa : Nat) (bs : List Byte) : (m.poke pa bs).agenda = m.agenda := rfl
@[simp] theorem Module.poke_focus (m : Module) (pa : Nat) (bs : List Byte) : (m.poke pa bs).focus = m.focus := rfl
@[simp] theorem Module.poke_gfocus (m : Module) (pa : Nat) (bs : List Byte) : (m.poke pa bs).gfocus = m.gfocus := rfl
@[simp] theorem Module.poke_qfocus (m : Module) (pa : Nat) (bs : List Byte) : (m.poke pa bs).qfocus = m.qfocus := rfl
@[simp] theorem Module.poke_turn (m : Module) (pa : Nat) (bs : List Byte) : (m.poke pa bs).turn = m.turn := rfl
@[simp] theorem Module.poke_clk (m : Module) (pa : Nat) (bs : List Byte) : (m.poke pa bs).clk = m.clk := rfl
@[simp] theorem Module.poke_silo (m : Module) (pa : Nat) (bs : List Byte) : (m.poke pa bs).silo = m.silo := rfl
@[simp] theorem Module.poke_tr (m : Module) (pa : Nat) (bs : List Byte) : (m.poke pa bs).tr = m.tr := rfl
@[simp] theorem Module.poke_cx (m : Module) (pa : Nat) (bs : List Byte) : (m.poke pa bs).cx = m.cx := rfl
@[simp] theorem Module.poke_lu (m : Module) (pa : Nat) (bs : List Byte) : (m.poke pa bs).lu = m.lu := rfl
@[simp] theorem Module.poke_fe (m : Module) (pa : Nat) (bs : List Byte) : (m.poke pa bs).fe = m.fe := rfl
@[simp] theorem Module.poke_fb (m : Module) (pa : Nat) (bs : List Byte) : (m.poke pa bs).fb = m.fb := rfl
@[simp] theorem Module.poke_groups (m : Module) (pa : Nat) (bs : List Byte) : (m.poke pa bs).groups = m.groups := rfl

@[simp] theorem Module.addPoison_agenda (m : Module) (h : Nat) : (m.addPoison h).agenda = m.agenda := rfl
@[simp] theorem Module.addPoison_focus (m : Module) (h : Nat) : (m.addPoison h).focus = m.focus := rfl
@[simp] theorem Module.addPoison_gfocus (m : Module) (h : Nat) : (m.addPoison h).gfocus = m.gfocus := rfl
@[simp] theorem Module.addPoison_qfocus (m : Module) (h : Nat) : (m.addPoison h).qfocus = m.qfocus := rfl
@[simp] theorem Module.addPoison_turn (m : Module) (h : Nat) : (m.addPoison h).turn = m.turn := rfl
@[simp] theorem Module.addPoison_clk (m : Module) (h : Nat) : (m.addPoison h).clk = m.clk := rfl
@[simp] theorem Module.addPoison_silo (m : Module) (h : Nat) : (m.addPoison h).silo = m.silo := rfl
@[simp] theorem Module.addPoison_tr (m : Module) (h : Nat) : (m.addPoison h).tr = m.tr := rfl
@[simp] theorem Module.addPoison_cx (m : Module) (h : Nat) : (m.addPoison h).cx = m.cx := rfl
@[simp] theorem Module.addPoison_lu (m : Module) (h : Nat) : (m.addPoison h).lu = m.lu := rfl
@[simp] theorem Module.addPoison_fe (m : Module) (h : Nat) : (m.addPoison h).fe = m.fe := rfl
@[simp] theorem Module.addPoison_fb (m : Module) (h : Nat) : (m.addPoison h).fb = m.fb := rfl
@[simp] theorem Module.addPoison_groups (m : Module) (h : Nat) : (m.addPoison h).groups = m.groups := rfl

@[simp] theorem Module.clearPoison_agenda (m : Module) (pa n : Nat) : (m.clearPoison pa n).agenda = m.agenda := rfl
@[simp] theorem Module.clearPoison_focus (m : Module) (pa n : Nat) : (m.clearPoison pa n).focus = m.focus := rfl
@[simp] theorem Module.clearPoison_gfocus (m : Module) (pa n : Nat) : (m.clearPoison pa n).gfocus = m.gfocus := rfl
@[simp] theorem Module.clearPoison_qfocus (m : Module) (pa n : Nat) : (m.clearPoison pa n).qfocus = m.qfocus := rfl
@[simp] theorem Module.clearPoison_turn (m : Module) (pa n : Nat) : (m.clearPoison pa n).turn = m.turn := rfl
@[simp] theorem Module.clearPoison_clk (m : Module) (pa n : Nat) : (m.clearPoison pa n).clk = m.clk := rfl
@[simp] theorem Module.clearPoison_silo (m : Module) (pa n : Nat) : (m.clearPoison pa n).silo = m.silo := rfl
@[simp] theorem Module.clearPoison_tr (m : Module) (pa n : Nat) : (m.clearPoison pa n).tr = m.tr := rfl
@[simp] theorem Module.clearPoison_cx (m : Module) (pa n : Nat) : (m.clearPoison pa n).cx = m.cx := rfl
@[simp] theorem Module.clearPoison_lu (m : Module) (pa n : Nat) : (m.clearPoison pa n).lu = m.lu := rfl
@[simp] theorem Module.clearPoison_fe (m : Module) (pa n : Nat) : (m.clearPoison pa n).fe = m.fe := rfl
@[simp] theorem Module.clearPoison_fb (m : Module) (pa n : Nat) : (m.clearPoison pa n).fb = m.fb := rfl
@[simp] theorem Module.clearPoison_groups (m : Module) (pa n : Nat) : (m.clearPoison pa n).groups = m.groups := rfl

@[simp] theorem Module.setCtx_cx_cores (m : Module) (c : Nat) (t : Thread) : (m.setCtx c t).cx.cores = m.cx.cores := rfl
@[simp] theorem Module.setCtx_cx_crews (m : Module) (c : Nat) (t : Thread) : (m.setCtx c t).cx.crews = m.cx.crews := rfl
@[simp] theorem Module.setCtx_cx_gangs (m : Module) (c : Nat) (t : Thread) : (m.setCtx c t).cx.gangs = m.cx.gangs := rfl
@[simp] theorem Module.setCtx_cx_gangNext (m : Module) (c : Nat) (t : Thread) : (m.setCtx c t).cx.gangNext = m.cx.gangNext := rfl
@[simp] theorem Module.setCtx_cx_suspect (m : Module) (c : Nat) (t : Thread) : (m.setCtx c t).cx.suspect = m.cx.suspect := rfl
@[simp] theorem Module.setCtx_cx_fused (m : Module) (c : Nat) (t : Thread) : (m.setCtx c t).cx.fused = m.cx.fused := rfl
@[simp] theorem Module.setCtx_cx_passed (m : Module) (c : Nat) (t : Thread) : (m.setCtx c t).cx.passed = m.cx.passed := rfl

@[simp] theorem Module.modCtx_cx_cores (m : Module) (c : Nat) (f : Thread → Thread) : (m.modCtx c f).cx.cores = m.cx.cores := rfl
@[simp] theorem Module.modCtx_cx_crews (m : Module) (c : Nat) (f : Thread → Thread) : (m.modCtx c f).cx.crews = m.cx.crews := rfl
@[simp] theorem Module.modCtx_cx_gangs (m : Module) (c : Nat) (f : Thread → Thread) : (m.modCtx c f).cx.gangs = m.cx.gangs := rfl
@[simp] theorem Module.modCtx_cx_gangNext (m : Module) (c : Nat) (f : Thread → Thread) : (m.modCtx c f).cx.gangNext = m.cx.gangNext := rfl
@[simp] theorem Module.modCtx_cx_suspect (m : Module) (c : Nat) (f : Thread → Thread) : (m.modCtx c f).cx.suspect = m.cx.suspect := rfl
@[simp] theorem Module.modCtx_cx_fused (m : Module) (c : Nat) (f : Thread → Thread) : (m.modCtx c f).cx.fused = m.cx.fused := rfl
@[simp] theorem Module.modCtx_cx_passed (m : Module) (c : Nat) (f : Thread → Thread) : (m.modCtx c f).cx.passed = m.cx.passed := rfl

@[simp] theorem Module.modTh_cx_cores (m : Module) (f : Thread → Thread) : (m.modTh f).cx.cores = m.cx.cores := rfl
@[simp] theorem Module.modTh_cx_crews (m : Module) (f : Thread → Thread) : (m.modTh f).cx.crews = m.cx.crews := rfl
@[simp] theorem Module.modTh_cx_gangs (m : Module) (f : Thread → Thread) : (m.modTh f).cx.gangs = m.cx.gangs := rfl
@[simp] theorem Module.modTh_cx_gangNext (m : Module) (f : Thread → Thread) : (m.modTh f).cx.gangNext = m.cx.gangNext := rfl
@[simp] theorem Module.modTh_cx_suspect (m : Module) (f : Thread → Thread) : (m.modTh f).cx.suspect = m.cx.suspect := rfl
@[simp] theorem Module.modTh_cx_fused (m : Module) (f : Thread → Thread) : (m.modTh f).cx.fused = m.cx.fused := rfl
@[simp] theorem Module.modTh_cx_passed (m : Module) (f : Thread → Thread) : (m.modTh f).cx.passed = m.cx.passed := rfl

@[simp] theorem Module.modCore_cx_ctxs (m : Module) (k : Nat) (f : Core → Core) : (m.modCore k f).cx.ctxs = m.cx.ctxs := rfl
@[simp] theorem Module.modCore_cx_crews (m : Module) (k : Nat) (f : Core → Core) : (m.modCore k f).cx.crews = m.cx.crews := rfl
@[simp] theorem Module.modCore_cx_gangs (m : Module) (k : Nat) (f : Core → Core) : (m.modCore k f).cx.gangs = m.cx.gangs := rfl
@[simp] theorem Module.modCore_cx_gangNext (m : Module) (k : Nat) (f : Core → Core) : (m.modCore k f).cx.gangNext = m.cx.gangNext := rfl
@[simp] theorem Module.modCore_cx_suspect (m : Module) (k : Nat) (f : Core → Core) : (m.modCore k f).cx.suspect = m.cx.suspect := rfl
@[simp] theorem Module.modCore_cx_fused (m : Module) (k : Nat) (f : Core → Core) : (m.modCore k f).cx.fused = m.cx.fused := rfl
@[simp] theorem Module.modCore_cx_passed (m : Module) (k : Nat) (f : Core → Core) : (m.modCore k f).cx.passed = m.cx.passed := rfl

@[simp] theorem Module.setCrew_cx_cores (m : Module) (h : Nat) (c : Crew) : (m.setCrew h c).cx.cores = m.cx.cores := rfl
@[simp] theorem Module.setCrew_cx_ctxs (m : Module) (h : Nat) (c : Crew) : (m.setCrew h c).cx.ctxs = m.cx.ctxs := rfl
@[simp] theorem Module.setCrew_cx_gangs (m : Module) (h : Nat) (c : Crew) : (m.setCrew h c).cx.gangs = m.cx.gangs := rfl
@[simp] theorem Module.setCrew_cx_gangNext (m : Module) (h : Nat) (c : Crew) : (m.setCrew h c).cx.gangNext = m.cx.gangNext := rfl
@[simp] theorem Module.setCrew_cx_suspect (m : Module) (h : Nat) (c : Crew) : (m.setCrew h c).cx.suspect = m.cx.suspect := rfl
@[simp] theorem Module.setCrew_cx_fused (m : Module) (h : Nat) (c : Crew) : (m.setCrew h c).cx.fused = m.cx.fused := rfl
@[simp] theorem Module.setCrew_cx_passed (m : Module) (h : Nat) (c : Crew) : (m.setCrew h c).cx.passed = m.cx.passed := rfl

@[simp] theorem Module.setGang_cx_cores (m : Module) (g : Nat) (x : Gang) : (m.setGang g x).cx.cores = m.cx.cores := rfl
@[simp] theorem Module.setGang_cx_ctxs (m : Module) (g : Nat) (x : Gang) : (m.setGang g x).cx.ctxs = m.cx.ctxs := rfl
@[simp] theorem Module.setGang_cx_crews (m : Module) (g : Nat) (x : Gang) : (m.setGang g x).cx.crews = m.cx.crews := rfl
@[simp] theorem Module.setGang_cx_gangNext (m : Module) (g : Nat) (x : Gang) : (m.setGang g x).cx.gangNext = m.cx.gangNext := rfl
@[simp] theorem Module.setGang_cx_suspect (m : Module) (g : Nat) (x : Gang) : (m.setGang g x).cx.suspect = m.cx.suspect := rfl
@[simp] theorem Module.setGang_cx_fused (m : Module) (g : Nat) (x : Gang) : (m.setGang g x).cx.fused = m.cx.fused := rfl
@[simp] theorem Module.setGang_cx_passed (m : Module) (g : Nat) (x : Gang) : (m.setGang g x).cx.passed = m.cx.passed := rfl

@[simp] theorem Module.poke_mm_poison (m : Module) (pa : Nat) (bs : List Byte) : (m.poke pa bs).mm.poison = m.mm.poison := rfl
@[simp] theorem Module.poke_mm_pool (m : Module) (pa : Nat) (bs : List Byte) : (m.poke pa bs).mm.pool = m.mm.pool := rfl
@[simp] theorem Module.poke_mm_poolPoison (m : Module) (pa : Nat) (bs : List Byte) : (m.poke pa bs).mm.poolPoison = m.mm.poolPoison := rfl
@[simp] theorem Module.poke_mm_poolDown (m : Module) (pa : Nat) (bs : List Byte) : (m.poke pa bs).mm.poolDown = m.mm.poolDown := rfl
@[simp] theorem Module.poke_mm_hostMem (m : Module) (pa : Nat) (bs : List Byte) : (m.poke pa bs).mm.hostMem = m.mm.hostMem := rfl
@[simp] theorem Module.poke_mm_hostHold (m : Module) (pa : Nat) (bs : List Byte) : (m.poke pa bs).mm.hostHold = m.mm.hostHold := rfl
@[simp] theorem Module.poke_mm_hostDown (m : Module) (pa : Nat) (bs : List Byte) : (m.poke pa bs).mm.hostDown = m.mm.hostDown := rfl
@[simp] theorem Module.poke_mm_hostOut (m : Module) (pa : Nat) (bs : List Byte) : (m.poke pa bs).mm.hostOut = m.mm.hostOut := rfl
@[simp] theorem Module.poke_mm_snoops (m : Module) (pa : Nat) (bs : List Byte) : (m.poke pa bs).mm.snoops = m.mm.snoops := rfl
@[simp] theorem Module.poke_mm_registrant (m : Module) (pa : Nat) (bs : List Byte) : (m.poke pa bs).mm.registrant = m.mm.registrant := rfl
@[simp] theorem Module.poke_mm_sheaf (m : Module) (pa : Nat) (bs : List Byte) : (m.poke pa bs).mm.sheaf = m.mm.sheaf := rfl
@[simp] theorem Module.poke_mm_late (m : Module) (pa : Nat) (bs : List Byte) : (m.poke pa bs).mm.late = m.mm.late := rfl

@[simp] theorem Module.addPoison_mm_mem (m : Module) (h : Nat) : (m.addPoison h).mm.mem = m.mm.mem := rfl
@[simp] theorem Module.addPoison_mm_pool (m : Module) (h : Nat) : (m.addPoison h).mm.pool = m.mm.pool := rfl
@[simp] theorem Module.addPoison_mm_poolPoison (m : Module) (h : Nat) : (m.addPoison h).mm.poolPoison = m.mm.poolPoison := rfl
@[simp] theorem Module.addPoison_mm_poolDown (m : Module) (h : Nat) : (m.addPoison h).mm.poolDown = m.mm.poolDown := rfl
@[simp] theorem Module.addPoison_mm_hostMem (m : Module) (h : Nat) : (m.addPoison h).mm.hostMem = m.mm.hostMem := rfl
@[simp] theorem Module.addPoison_mm_hostHold (m : Module) (h : Nat) : (m.addPoison h).mm.hostHold = m.mm.hostHold := rfl
@[simp] theorem Module.addPoison_mm_hostDown (m : Module) (h : Nat) : (m.addPoison h).mm.hostDown = m.mm.hostDown := rfl
@[simp] theorem Module.addPoison_mm_hostOut (m : Module) (h : Nat) : (m.addPoison h).mm.hostOut = m.mm.hostOut := rfl
@[simp] theorem Module.addPoison_mm_snoops (m : Module) (h : Nat) : (m.addPoison h).mm.snoops = m.mm.snoops := rfl
@[simp] theorem Module.addPoison_mm_registrant (m : Module) (h : Nat) : (m.addPoison h).mm.registrant = m.mm.registrant := rfl
@[simp] theorem Module.addPoison_mm_sheaf (m : Module) (h : Nat) : (m.addPoison h).mm.sheaf = m.mm.sheaf := rfl
@[simp] theorem Module.addPoison_mm_late (m : Module) (h : Nat) : (m.addPoison h).mm.late = m.mm.late := rfl

@[simp] theorem Module.clearPoison_mm_mem (m : Module) (pa n : Nat) : (m.clearPoison pa n).mm.mem = m.mm.mem := rfl
@[simp] theorem Module.clearPoison_mm_pool (m : Module) (pa n : Nat) : (m.clearPoison pa n).mm.pool = m.mm.pool := rfl
@[simp] theorem Module.clearPoison_mm_poolPoison (m : Module) (pa n : Nat) : (m.clearPoison pa n).mm.poolPoison = m.mm.poolPoison := rfl
@[simp] theorem Module.clearPoison_mm_poolDown (m : Module) (pa n : Nat) : (m.clearPoison pa n).mm.poolDown = m.mm.poolDown := rfl
@[simp] theorem Module.clearPoison_mm_hostMem (m : Module) (pa n : Nat) : (m.clearPoison pa n).mm.hostMem = m.mm.hostMem := rfl
@[simp] theorem Module.clearPoison_mm_hostHold (m : Module) (pa n : Nat) : (m.clearPoison pa n).mm.hostHold = m.mm.hostHold := rfl
@[simp] theorem Module.clearPoison_mm_hostDown (m : Module) (pa n : Nat) : (m.clearPoison pa n).mm.hostDown = m.mm.hostDown := rfl
@[simp] theorem Module.clearPoison_mm_hostOut (m : Module) (pa n : Nat) : (m.clearPoison pa n).mm.hostOut = m.mm.hostOut := rfl
@[simp] theorem Module.clearPoison_mm_snoops (m : Module) (pa n : Nat) : (m.clearPoison pa n).mm.snoops = m.mm.snoops := rfl
@[simp] theorem Module.clearPoison_mm_registrant (m : Module) (pa n : Nat) : (m.clearPoison pa n).mm.registrant = m.mm.registrant := rfl
@[simp] theorem Module.clearPoison_mm_sheaf (m : Module) (pa n : Nat) : (m.clearPoison pa n).mm.sheaf = m.mm.sheaf := rfl
@[simp] theorem Module.clearPoison_mm_late (m : Module) (pa n : Nat) : (m.clearPoison pa n).mm.late = m.mm.late := rfl

@[simp] theorem Module.modQueue_fe_cmdNext (m : Module) (q : Nat) (f : Queue → Queue) : (m.modQueue q f).fe.cmdNext = m.fe.cmdNext := rfl
@[simp] theorem Module.modQueue_fe_evcnt (m : Module) (q : Nat) (f : Queue → Queue) : (m.modQueue q f).fe.evcnt = m.fe.evcnt := rfl
@[simp] theorem Module.modQueue_fe_nrcfg (m : Module) (q : Nat) (f : Queue → Queue) : (m.modQueue q f).fe.nrcfg = m.fe.nrcfg := rfl
@[simp] theorem Module.modQueue_fe_nrptr (m : Module) (q : Nat) (f : Queue → Queue) : (m.modQueue q f).fe.nrptr = m.fe.nrptr := rfl
@[simp] theorem Module.modQueue_fe_dropped (m : Module) (q : Nat) (f : Queue → Queue) : (m.modQueue q f).fe.dropped = m.fe.dropped := rfl
@[simp] theorem Module.modQueue_fe_hvec (m : Module) (q : Nat) (f : Queue → Queue) : (m.modQueue q f).fe.hvec = m.fe.hvec := rfl
@[simp] theorem Module.modQueue_fe_readOut (m : Module) (q : Nat) (f : Queue → Queue) : (m.modQueue q f).fe.readOut = m.fe.readOut := rfl

@[simp] theorem Module.modStation_fb_devid (m : Module) (n : Nat) (f : Station → Station) : (m.modStation n f).fb.devid = m.fb.devid := rfl
@[simp] theorem Module.modStation_fb_devfrlim (m : Module) (n : Nat) (f : Station → Station) : (m.modStation n f).fb.devfrlim = m.fb.devfrlim := rfl
@[simp] theorem Module.modStation_fb_impasid (m : Module) (n : Nat) (f : Station → Station) : (m.modStation n f).fb.impasid = m.fb.impasid := rfl
@[simp] theorem Module.modStation_fb_imports (m : Module) (n : Nat) (f : Station → Station) : (m.modStation n f).fb.imports = m.fb.imports := rfl
@[simp] theorem Module.modStation_fb_impstat (m : Module) (n : Nat) (f : Station → Station) : (m.modStation n f).fb.impstat = m.fb.impstat := rfl
@[simp] theorem Module.modStation_fb_mcstage (m : Module) (n : Nat) (f : Station → Station) : (m.modStation n f).fb.mcstage = m.fb.mcstage := rfl
@[simp] theorem Module.modStation_fb_mcmap (m : Module) (n : Nat) (f : Station → Station) : (m.modStation n f).fb.mcmap = m.fb.mcmap := rfl
@[simp] theorem Module.modStation_fb_mcctl (m : Module) (n : Nat) (f : Station → Station) : (m.modStation n f).fb.mcctl = m.fb.mcctl := rfl
@[simp] theorem Module.modStation_fb_mccmd (m : Module) (n : Nat) (f : Station → Station) : (m.modStation n f).fb.mccmd = m.fb.mccmd := rfl
@[simp] theorem Module.modStation_fb_mcbusy (m : Module) (n : Nat) (f : Station → Station) : (m.modStation n f).fb.mcbusy = m.fb.mcbusy := rfl
@[simp] theorem Module.modStation_fb_colspill (m : Module) (n : Nat) (f : Station → Station) : (m.modStation n f).fb.colspill = m.fb.colspill := rfl
@[simp] theorem Module.modStation_fb_spilled (m : Module) (n : Nat) (f : Station → Station) : (m.modStation n f).fb.spilled = m.fb.spilled := rfl
@[simp] theorem Module.modStation_fb_chunks (m : Module) (n : Nat) (f : Station → Station) : (m.modStation n f).fb.chunks = m.fb.chunks := rfl
@[simp] theorem Module.modStation_fb_heldChunks (m : Module) (n : Nat) (f : Station → Station) : (m.modStation n f).fb.heldChunks = m.fb.heldChunks := rfl
@[simp] theorem Module.modStation_fb_outbox (m : Module) (n : Nat) (f : Station → Station) : (m.modStation n f).fb.outbox = m.fb.outbox := rfl
@[simp] theorem Module.modStation_fb_pending (m : Module) (n : Nat) (f : Station → Station) : (m.modStation n f).fb.pending = m.fb.pending := rfl
@[simp] theorem Module.modStation_fb_parked (m : Module) (n : Nat) (f : Station → Station) : (m.modStation n f).fb.parked = m.fb.parked := rfl
@[simp] theorem Module.modStation_fb_reqNext (m : Module) (n : Nat) (f : Station → Station) : (m.modStation n f).fb.reqNext = m.fb.reqNext := rfl
@[simp] theorem Module.modStation_fb_ethUp (m : Module) (n : Nat) (f : Station → Station) : (m.modStation n f).fb.ethUp = m.fb.ethUp := rfl
@[simp] theorem Module.modStation_fb_rdma (m : Module) (n : Nat) (f : Station → Station) : (m.modStation n f).fb.rdma = m.fb.rdma := rfl
@[simp] theorem Module.modStation_fb_rdmaOut (m : Module) (n : Nat) (f : Station → Station) : (m.modStation n f).fb.rdmaOut = m.fb.rdmaOut := rfl
@[simp] theorem Module.modStation_fb_rdmaHeld (m : Module) (n : Nat) (f : Station → Station) : (m.modStation n f).fb.rdmaHeld = m.fb.rdmaHeld := rfl
@[simp] theorem Module.pass_clk_free (m : Module) (n : Nat) : (m.pass n).clk.free = m.clk.free := rfl
@[simp] theorem Module.pass_clk_draws (m : Module) (n : Nat) : (m.pass n).clk.draws = m.clk.draws := rfl
@[simp] theorem Module.pass_clk_salt (m : Module) (n : Nat) : (m.pass n).clk.salt = m.clk.salt := rfl

/-! ## Reading a part after an update -/

theorem Module.ctx_setCtx (m : Module) (c j : Nat) (t : Thread) : (m.setCtx c t).ctx j = if j = c then t else m.ctx j := Tab.get_set ..
@[simp] theorem Module.ctx_setCtx_self (m : Module) (c : Nat) (t : Thread) : (m.setCtx c t).ctx c = t := Tab.get_set_self ..
theorem Module.ctx_setCtx_ne (m : Module) {c j : Nat} (t : Thread) (h : j ≠ c) : (m.setCtx c t).ctx j = m.ctx j := Tab.get_set_ne _ _ _ h
theorem Module.ctx_modCtx (m : Module) (c j : Nat) (f : Thread → Thread) : (m.modCtx c f).ctx j = if j = c then f (m.ctx c) else m.ctx j :=
  Tab.get_set ..
@[simp] theorem Module.ctx_modCtx_self (m : Module) (c : Nat) (f : Thread → Thread) : (m.modCtx c f).ctx c = f (m.ctx c) := Tab.get_set_self ..
theorem Module.ctx_modCtx_ne (m : Module) {c j : Nat} (f : Thread → Thread) (h : j ≠ c) : (m.modCtx c f).ctx j = m.ctx j :=
  Tab.get_set_ne _ _ _ h
@[simp] theorem Module.th_modTh (m : Module) (f : Thread → Thread) : (m.modTh f).th = f m.th := Tab.get_set_self ..
theorem Module.ctx_modTh_ne (m : Module) {j : Nat} (f : Thread → Thread) (h : j ≠ m.focus) : (m.modTh f).ctx j = m.ctx j := Tab.get_set_ne _ _ _ h
theorem Module.core_modCore (m : Module) (k j : Nat) (f : Core → Core) : (m.modCore k f).core j = if j = k then f (m.core k) else m.core j :=
  Tab.get_set ..
@[simp] theorem Module.core_modCore_self (m : Module) (k : Nat) (f : Core → Core) : (m.modCore k f).core k = f (m.core k) := Tab.get_set_self ..
theorem Module.crew_setCrew (m : Module) (h j : Nat) (c : Crew) : (m.setCrew h c).crew j = if j = h then c else m.crew j := Tab.get_set ..
@[simp] theorem Module.crew_setCrew_self (m : Module) (h : Nat) (c : Crew) : (m.setCrew h c).crew h = c := Tab.get_set_self ..
theorem Module.gang_setGang (m : Module) (g j : Nat) (x : Gang) : (m.setGang g x).gang j = if j = g then x else m.gang j := Tab.get_set ..
theorem Module.queue_modQueue (m : Module) (q j : Nat) (f : Queue → Queue) :
    (m.modQueue q f).queue j = if j = q then f (m.queue q) else m.queue j := by
  unfold Module.queue
  by_cases h : j = q
  · subst h; rw [if_pos rfl]; exact Tab.get_set_self ..
  · rw [if_neg h]; exact Tab.get_set_other _ _ _ _ h
@[simp] theorem Module.queue_modQueue_self (m : Module) (q : Nat) (f : Queue → Queue) : (m.modQueue q f).queue q = f (m.queue q) :=
  Tab.get_set_self ..
theorem Module.group_modGroup (m : Module) (g j : Nat) (f : Group → Group) :
    (m.modGroup g f).group j = if j = g then f (m.group g) else m.group j := Tab.get_set ..
@[simp] theorem Module.group_modGroup_self (m : Module) (g : Nat) (f : Group → Group) : (m.modGroup g f).group g = f (m.group g) :=
  Tab.get_set_self ..
theorem Module.station_modStation (m : Module) (n j : Nat) (f : Station → Station) :
    (m.modStation n f).station j = if j = n then f (m.station n) else m.station j := Tab.get_set ..
@[simp] theorem Module.station_modStation_self (m : Module) (n : Nat) (f : Station → Station) :
    (m.modStation n f).station n = f (m.station n) := Tab.get_set_self ..
@[simp] theorem Module.pass_cycle (m : Module) (n : Nat) : (m.pass n).clk.cycle = m.clk.cycle + n := rfl

@[simp] theorem Module.core_setCtx (m : Module) (c : Nat) (t : Thread) (i : Nat) : (m.setCtx c t).core i = m.core i := rfl
@[simp] theorem Module.crew_setCtx (m : Module) (c : Nat) (t : Thread) (i : Nat) : (m.setCtx c t).crew i = m.crew i := rfl
@[simp] theorem Module.gang_setCtx (m : Module) (c : Nat) (t : Thread) (i : Nat) : (m.setCtx c t).gang i = m.gang i := rfl
@[simp] theorem Module.queue_setCtx (m : Module) (c : Nat) (t : Thread) (i : Nat) : (m.setCtx c t).queue i = m.queue i := rfl
@[simp] theorem Module.group_setCtx (m : Module) (c : Nat) (t : Thread) (i : Nat) : (m.setCtx c t).group i = m.group i := rfl
@[simp] theorem Module.station_setCtx (m : Module) (c : Nat) (t : Thread) (i : Nat) : (m.setCtx c t).station i = m.station i := rfl
@[simp] theorem Module.core_modCtx (m : Module) (c : Nat) (f : Thread → Thread) (i : Nat) : (m.modCtx c f).core i = m.core i := rfl
@[simp] theorem Module.crew_modCtx (m : Module) (c : Nat) (f : Thread → Thread) (i : Nat) : (m.modCtx c f).crew i = m.crew i := rfl
@[simp] theorem Module.gang_modCtx (m : Module) (c : Nat) (f : Thread → Thread) (i : Nat) : (m.modCtx c f).gang i = m.gang i := rfl
@[simp] theorem Module.queue_modCtx (m : Module) (c : Nat) (f : Thread → Thread) (i : Nat) : (m.modCtx c f).queue i = m.queue i := rfl
@[simp] theorem Module.group_modCtx (m : Module) (c : Nat) (f : Thread → Thread) (i : Nat) : (m.modCtx c f).group i = m.group i := rfl
@[simp] theorem Module.station_modCtx (m : Module) (c : Nat) (f : Thread → Thread) (i : Nat) : (m.modCtx c f).station i = m.station i := rfl
@[simp] theorem Module.core_modTh (m : Module) (f : Thread → Thread) (i : Nat) : (m.modTh f).core i = m.core i := rfl
@[simp] theorem Module.crew_modTh (m : Module) (f : Thread → Thread) (i : Nat) : (m.modTh f).crew i = m.crew i := rfl
@[simp] theorem Module.gang_modTh (m : Module) (f : Thread → Thread) (i : Nat) : (m.modTh f).gang i = m.gang i := rfl
@[simp] theorem Module.queue_modTh (m : Module) (f : Thread → Thread) (i : Nat) : (m.modTh f).queue i = m.queue i := rfl
@[simp] theorem Module.group_modTh (m : Module) (f : Thread → Thread) (i : Nat) : (m.modTh f).group i = m.group i := rfl
@[simp] theorem Module.station_modTh (m : Module) (f : Thread → Thread) (i : Nat) : (m.modTh f).station i = m.station i := rfl
@[simp] theorem Module.ctx_modCore (m : Module) (k : Nat) (f : Core → Core) (i : Nat) : (m.modCore k f).ctx i = m.ctx i := rfl
@[simp] theorem Module.crew_modCore (m : Module) (k : Nat) (f : Core → Core) (i : Nat) : (m.modCore k f).crew i = m.crew i := rfl
@[simp] theorem Module.gang_modCore (m : Module) (k : Nat) (f : Core → Core) (i : Nat) : (m.modCore k f).gang i = m.gang i := rfl
@[simp] theorem Module.queue_modCore (m : Module) (k : Nat) (f : Core → Core) (i : Nat) : (m.modCore k f).queue i = m.queue i := rfl
@[simp] theorem Module.group_modCore (m : Module) (k : Nat) (f : Core → Core) (i : Nat) : (m.modCore k f).group i = m.group i := rfl
@[simp] theorem Module.station_modCore (m : Module) (k : Nat) (f : Core → Core) (i : Nat) : (m.modCore k f).station i = m.station i := rfl
@[simp] theorem Module.th_modCore (m : Module) (k : Nat) (f : Core → Core) : (m.modCore k f).th = m.th := rfl
@[simp] theorem Module.ctx_setCrew (m : Module) (h : Nat) (c : Crew) (i : Nat) : (m.setCrew h c).ctx i = m.ctx i := rfl
@[simp] theorem Module.core_setCrew (m : Module) (h : Nat) (c : Crew) (i : Nat) : (m.setCrew h c).core i = m.core i := rfl
@[simp] theorem Module.gang_setCrew (m : Module) (h : Nat) (c : Crew) (i : Nat) : (m.setCrew h c).gang i = m.gang i := rfl
@[simp] theorem Module.queue_setCrew (m : Module) (h : Nat) (c : Crew) (i : Nat) : (m.setCrew h c).queue i = m.queue i := rfl
@[simp] theorem Module.group_setCrew (m : Module) (h : Nat) (c : Crew) (i : Nat) : (m.setCrew h c).group i = m.group i := rfl
@[simp] theorem Module.station_setCrew (m : Module) (h : Nat) (c : Crew) (i : Nat) : (m.setCrew h c).station i = m.station i := rfl
@[simp] theorem Module.th_setCrew (m : Module) (h : Nat) (c : Crew) : (m.setCrew h c).th = m.th := rfl
@[simp] theorem Module.ctx_setGang (m : Module) (g : Nat) (x : Gang) (i : Nat) : (m.setGang g x).ctx i = m.ctx i := rfl
@[simp] theorem Module.core_setGang (m : Module) (g : Nat) (x : Gang) (i : Nat) : (m.setGang g x).core i = m.core i := rfl
@[simp] theorem Module.crew_setGang (m : Module) (g : Nat) (x : Gang) (i : Nat) : (m.setGang g x).crew i = m.crew i := rfl
@[simp] theorem Module.queue_setGang (m : Module) (g : Nat) (x : Gang) (i : Nat) : (m.setGang g x).queue i = m.queue i := rfl
@[simp] theorem Module.group_setGang (m : Module) (g : Nat) (x : Gang) (i : Nat) : (m.setGang g x).group i = m.group i := rfl
@[simp] theorem Module.station_setGang (m : Module) (g : Nat) (x : Gang) (i : Nat) : (m.setGang g x).station i = m.station i := rfl
@[simp] theorem Module.th_setGang (m : Module) (g : Nat) (x : Gang) : (m.setGang g x).th = m.th := rfl
@[simp] theorem Module.ctx_modQueue (m : Module) (q : Nat) (f : Queue → Queue) (i : Nat) : (m.modQueue q f).ctx i = m.ctx i := rfl
@[simp] theorem Module.core_modQueue (m : Module) (q : Nat) (f : Queue → Queue) (i : Nat) : (m.modQueue q f).core i = m.core i := rfl
@[simp] theorem Module.crew_modQueue (m : Module) (q : Nat) (f : Queue → Queue) (i : Nat) : (m.modQueue q f).crew i = m.crew i := rfl
@[simp] theorem Module.gang_modQueue (m : Module) (q : Nat) (f : Queue → Queue) (i : Nat) : (m.modQueue q f).gang i = m.gang i := rfl
@[simp] theorem Module.group_modQueue (m : Module) (q : Nat) (f : Queue → Queue) (i : Nat) : (m.modQueue q f).group i = m.group i := rfl
@[simp] theorem Module.station_modQueue (m : Module) (q : Nat) (f : Queue → Queue) (i : Nat) : (m.modQueue q f).station i = m.station i := rfl
@[simp] theorem Module.th_modQueue (m : Module) (q : Nat) (f : Queue → Queue) : (m.modQueue q f).th = m.th := rfl
@[simp] theorem Module.ctx_modGroup (m : Module) (g : Nat) (f : Group → Group) (i : Nat) : (m.modGroup g f).ctx i = m.ctx i := rfl
@[simp] theorem Module.core_modGroup (m : Module) (g : Nat) (f : Group → Group) (i : Nat) : (m.modGroup g f).core i = m.core i := rfl
@[simp] theorem Module.crew_modGroup (m : Module) (g : Nat) (f : Group → Group) (i : Nat) : (m.modGroup g f).crew i = m.crew i := rfl
@[simp] theorem Module.gang_modGroup (m : Module) (g : Nat) (f : Group → Group) (i : Nat) : (m.modGroup g f).gang i = m.gang i := rfl
@[simp] theorem Module.queue_modGroup (m : Module) (g : Nat) (f : Group → Group) (i : Nat) : (m.modGroup g f).queue i = m.queue i := rfl
@[simp] theorem Module.station_modGroup (m : Module) (g : Nat) (f : Group → Group) (i : Nat) : (m.modGroup g f).station i = m.station i := rfl
@[simp] theorem Module.th_modGroup (m : Module) (g : Nat) (f : Group → Group) : (m.modGroup g f).th = m.th := rfl
@[simp] theorem Module.ctx_modStation (m : Module) (n : Nat) (f : Station → Station) (i : Nat) : (m.modStation n f).ctx i = m.ctx i := rfl
@[simp] theorem Module.core_modStation (m : Module) (n : Nat) (f : Station → Station) (i : Nat) : (m.modStation n f).core i = m.core i := rfl
@[simp] theorem Module.crew_modStation (m : Module) (n : Nat) (f : Station → Station) (i : Nat) : (m.modStation n f).crew i = m.crew i := rfl
@[simp] theorem Module.gang_modStation (m : Module) (n : Nat) (f : Station → Station) (i : Nat) : (m.modStation n f).gang i = m.gang i := rfl
@[simp] theorem Module.queue_modStation (m : Module) (n : Nat) (f : Station → Station) (i : Nat) : (m.modStation n f).queue i = m.queue i := rfl
@[simp] theorem Module.group_modStation (m : Module) (n : Nat) (f : Station → Station) (i : Nat) : (m.modStation n f).group i = m.group i := rfl
@[simp] theorem Module.th_modStation (m : Module) (n : Nat) (f : Station → Station) : (m.modStation n f).th = m.th := rfl
@[simp] theorem Module.ctx_pass (m : Module) (n : Nat) (i : Nat) : (m.pass n).ctx i = m.ctx i := rfl
@[simp] theorem Module.core_pass (m : Module) (n : Nat) (i : Nat) : (m.pass n).core i = m.core i := rfl
@[simp] theorem Module.crew_pass (m : Module) (n : Nat) (i : Nat) : (m.pass n).crew i = m.crew i := rfl
@[simp] theorem Module.gang_pass (m : Module) (n : Nat) (i : Nat) : (m.pass n).gang i = m.gang i := rfl
@[simp] theorem Module.queue_pass (m : Module) (n : Nat) (i : Nat) : (m.pass n).queue i = m.queue i := rfl
@[simp] theorem Module.group_pass (m : Module) (n : Nat) (i : Nat) : (m.pass n).group i = m.group i := rfl
@[simp] theorem Module.station_pass (m : Module) (n : Nat) (i : Nat) : (m.pass n).station i = m.station i := rfl
@[simp] theorem Module.th_pass (m : Module) (n : Nat) : (m.pass n).th = m.th := rfl
@[simp] theorem Module.ctx_poke (m : Module) (pa : Nat) (bs : List Byte) (i : Nat) : (m.poke pa bs).ctx i = m.ctx i := rfl
@[simp] theorem Module.core_poke (m : Module) (pa : Nat) (bs : List Byte) (i : Nat) : (m.poke pa bs).core i = m.core i := rfl
@[simp] theorem Module.crew_poke (m : Module) (pa : Nat) (bs : List Byte) (i : Nat) : (m.poke pa bs).crew i = m.crew i := rfl
@[simp] theorem Module.gang_poke (m : Module) (pa : Nat) (bs : List Byte) (i : Nat) : (m.poke pa bs).gang i = m.gang i := rfl
@[simp] theorem Module.queue_poke (m : Module) (pa : Nat) (bs : List Byte) (i : Nat) : (m.poke pa bs).queue i = m.queue i := rfl
@[simp] theorem Module.group_poke (m : Module) (pa : Nat) (bs : List Byte) (i : Nat) : (m.poke pa bs).group i = m.group i := rfl
@[simp] theorem Module.station_poke (m : Module) (pa : Nat) (bs : List Byte) (i : Nat) : (m.poke pa bs).station i = m.station i := rfl
@[simp] theorem Module.th_poke (m : Module) (pa : Nat) (bs : List Byte) : (m.poke pa bs).th = m.th := rfl
@[simp] theorem Module.ctx_addPoison (m : Module) (h : Nat) (i : Nat) : (m.addPoison h).ctx i = m.ctx i := rfl
@[simp] theorem Module.core_addPoison (m : Module) (h : Nat) (i : Nat) : (m.addPoison h).core i = m.core i := rfl
@[simp] theorem Module.crew_addPoison (m : Module) (h : Nat) (i : Nat) : (m.addPoison h).crew i = m.crew i := rfl
@[simp] theorem Module.gang_addPoison (m : Module) (h : Nat) (i : Nat) : (m.addPoison h).gang i = m.gang i := rfl
@[simp] theorem Module.queue_addPoison (m : Module) (h : Nat) (i : Nat) : (m.addPoison h).queue i = m.queue i := rfl
@[simp] theorem Module.group_addPoison (m : Module) (h : Nat) (i : Nat) : (m.addPoison h).group i = m.group i := rfl
@[simp] theorem Module.station_addPoison (m : Module) (h : Nat) (i : Nat) : (m.addPoison h).station i = m.station i := rfl
@[simp] theorem Module.th_addPoison (m : Module) (h : Nat) : (m.addPoison h).th = m.th := rfl
@[simp] theorem Module.ctx_clearPoison (m : Module) (pa n : Nat) (i : Nat) : (m.clearPoison pa n).ctx i = m.ctx i := rfl
@[simp] theorem Module.core_clearPoison (m : Module) (pa n : Nat) (i : Nat) : (m.clearPoison pa n).core i = m.core i := rfl
@[simp] theorem Module.crew_clearPoison (m : Module) (pa n : Nat) (i : Nat) : (m.clearPoison pa n).crew i = m.crew i := rfl
@[simp] theorem Module.gang_clearPoison (m : Module) (pa n : Nat) (i : Nat) : (m.clearPoison pa n).gang i = m.gang i := rfl
@[simp] theorem Module.queue_clearPoison (m : Module) (pa n : Nat) (i : Nat) : (m.clearPoison pa n).queue i = m.queue i := rfl
@[simp] theorem Module.group_clearPoison (m : Module) (pa n : Nat) (i : Nat) : (m.clearPoison pa n).group i = m.group i := rfl
@[simp] theorem Module.station_clearPoison (m : Module) (pa n : Nat) (i : Nat) : (m.clearPoison pa n).station i = m.station i := rfl
@[simp] theorem Module.th_clearPoison (m : Module) (pa n : Nat) : (m.clearPoison pa n).th = m.th := rfl

/-! ## Updates of a thread -/

@[simp] theorem Thread.modR_status (t : Thread) (f : Regs → Regs) : (t.modR f).status = t.status := rfl
@[simp] theorem Thread.modR_launch (t : Thread) (f : Regs → Regs) : (t.modR f).launch = t.launch := rfl
@[simp] theorem Thread.modR_queue (t : Thread) (f : Regs → Regs) : (t.modR f).queue = t.queue := rfl
@[simp] theorem Thread.modR_asid (t : Thread) (f : Regs → Regs) : (t.modR f).asid = t.asid := rfl
@[simp] theorem Thread.modR_pc (t : Thread) (f : Regs → Regs) : (t.modR f).pc = t.pc := rfl
@[simp] theorem Thread.modR_next (t : Thread) (f : Regs → Regs) : (t.modR f).next = t.next := rfl
@[simp] theorem Thread.modR_r (t : Thread) (f : Regs → Regs) : (t.modR f).r = f t.r := rfl
@[simp] theorem Thread.modR_u (t : Thread) (f : Regs → Regs) : (t.modR f).u = t.u := rfl
@[simp] theorem Thread.modR_csr (t : Thread) (f : Regs → Regs) : (t.modR f).csr = t.csr := rfl
@[simp] theorem Thread.modR_x (t : Thread) (f : Regs → Regs) : (t.modR f).x = t.x := rfl
@[simp] theorem Thread.modR_b (t : Thread) (f : Regs → Regs) : (t.modR f).b = t.b := rfl

@[simp] theorem Thread.modU_status (t : Thread) (f : Sequencer → Sequencer) : (t.modU f).status = t.status := rfl
@[simp] theorem Thread.modU_launch (t : Thread) (f : Sequencer → Sequencer) : (t.modU f).launch = t.launch := rfl
@[simp] theorem Thread.modU_queue (t : Thread) (f : Sequencer → Sequencer) : (t.modU f).queue = t.queue := rfl
@[simp] theorem Thread.modU_asid (t : Thread) (f : Sequencer → Sequencer) : (t.modU f).asid = t.asid := rfl
@[simp] theorem Thread.modU_pc (t : Thread) (f : Sequencer → Sequencer) : (t.modU f).pc = t.pc := rfl
@[simp] theorem Thread.modU_next (t : Thread) (f : Sequencer → Sequencer) : (t.modU f).next = t.next := rfl
@[simp] theorem Thread.modU_r (t : Thread) (f : Sequencer → Sequencer) : (t.modU f).r = t.r := rfl
@[simp] theorem Thread.modU_u (t : Thread) (f : Sequencer → Sequencer) : (t.modU f).u = f t.u := rfl
@[simp] theorem Thread.modU_csr (t : Thread) (f : Sequencer → Sequencer) : (t.modU f).csr = t.csr := rfl
@[simp] theorem Thread.modU_x (t : Thread) (f : Sequencer → Sequencer) : (t.modU f).x = t.x := rfl
@[simp] theorem Thread.modU_b (t : Thread) (f : Sequencer → Sequencer) : (t.modU f).b = t.b := rfl

@[simp] theorem Thread.modX_status (t : Thread) (f : Queues → Queues) : (t.modX f).status = t.status := rfl
@[simp] theorem Thread.modX_launch (t : Thread) (f : Queues → Queues) : (t.modX f).launch = t.launch := rfl
@[simp] theorem Thread.modX_queue (t : Thread) (f : Queues → Queues) : (t.modX f).queue = t.queue := rfl
@[simp] theorem Thread.modX_asid (t : Thread) (f : Queues → Queues) : (t.modX f).asid = t.asid := rfl
@[simp] theorem Thread.modX_pc (t : Thread) (f : Queues → Queues) : (t.modX f).pc = t.pc := rfl
@[simp] theorem Thread.modX_next (t : Thread) (f : Queues → Queues) : (t.modX f).next = t.next := rfl
@[simp] theorem Thread.modX_r (t : Thread) (f : Queues → Queues) : (t.modX f).r = t.r := rfl
@[simp] theorem Thread.modX_u (t : Thread) (f : Queues → Queues) : (t.modX f).u = t.u := rfl
@[simp] theorem Thread.modX_csr (t : Thread) (f : Queues → Queues) : (t.modX f).csr = t.csr := rfl
@[simp] theorem Thread.modX_x (t : Thread) (f : Queues → Queues) : (t.modX f).x = f t.x := rfl
@[simp] theorem Thread.modX_b (t : Thread) (f : Queues → Queues) : (t.modX f).b = t.b := rfl

@[simp] theorem Thread.modB_status (t : Thread) (f : RegionMaps → RegionMaps) : (t.modB f).status = t.status := rfl
@[simp] theorem Thread.modB_launch (t : Thread) (f : RegionMaps → RegionMaps) : (t.modB f).launch = t.launch := rfl
@[simp] theorem Thread.modB_queue (t : Thread) (f : RegionMaps → RegionMaps) : (t.modB f).queue = t.queue := rfl
@[simp] theorem Thread.modB_asid (t : Thread) (f : RegionMaps → RegionMaps) : (t.modB f).asid = t.asid := rfl
@[simp] theorem Thread.modB_pc (t : Thread) (f : RegionMaps → RegionMaps) : (t.modB f).pc = t.pc := rfl
@[simp] theorem Thread.modB_next (t : Thread) (f : RegionMaps → RegionMaps) : (t.modB f).next = t.next := rfl
@[simp] theorem Thread.modB_r (t : Thread) (f : RegionMaps → RegionMaps) : (t.modB f).r = t.r := rfl
@[simp] theorem Thread.modB_u (t : Thread) (f : RegionMaps → RegionMaps) : (t.modB f).u = t.u := rfl
@[simp] theorem Thread.modB_csr (t : Thread) (f : RegionMaps → RegionMaps) : (t.modB f).csr = t.csr := rfl
@[simp] theorem Thread.modB_x (t : Thread) (f : RegionMaps → RegionMaps) : (t.modB f).x = t.x := rfl
@[simp] theorem Thread.modB_b (t : Thread) (f : RegionMaps → RegionMaps) : (t.modB f).b = f t.b := rfl

@[simp] theorem Thread.modC_status (t : Thread) (f : Csrs → Csrs) : (t.modC f).status = t.status := rfl
@[simp] theorem Thread.modC_launch (t : Thread) (f : Csrs → Csrs) : (t.modC f).launch = t.launch := rfl
@[simp] theorem Thread.modC_queue (t : Thread) (f : Csrs → Csrs) : (t.modC f).queue = t.queue := rfl
@[simp] theorem Thread.modC_asid (t : Thread) (f : Csrs → Csrs) : (t.modC f).asid = t.asid := rfl
@[simp] theorem Thread.modC_pc (t : Thread) (f : Csrs → Csrs) : (t.modC f).pc = t.pc := rfl
@[simp] theorem Thread.modC_next (t : Thread) (f : Csrs → Csrs) : (t.modC f).next = t.next := rfl
@[simp] theorem Thread.modC_r (t : Thread) (f : Csrs → Csrs) : (t.modC f).r = t.r := rfl
@[simp] theorem Thread.modC_u (t : Thread) (f : Csrs → Csrs) : (t.modC f).u = t.u := rfl
@[simp] theorem Thread.modC_csr (t : Thread) (f : Csrs → Csrs) : (t.modC f).csr = f t.csr := rfl
@[simp] theorem Thread.modC_x (t : Thread) (f : Csrs → Csrs) : (t.modC f).x = t.x := rfl
@[simp] theorem Thread.modC_b (t : Thread) (f : Csrs → Csrs) : (t.modC f).b = t.b := rfl

@[simp] theorem Thread.wrS_status (t : Thread) (n : Nat) (v : Word64) : (t.wrS n v).status = t.status := by unfold Thread.wrS; split <;> rfl
@[simp] theorem Thread.wrS_launch (t : Thread) (n : Nat) (v : Word64) : (t.wrS n v).launch = t.launch := by unfold Thread.wrS; split <;> rfl
@[simp] theorem Thread.wrS_queue (t : Thread) (n : Nat) (v : Word64) : (t.wrS n v).queue = t.queue := by unfold Thread.wrS; split <;> rfl
@[simp] theorem Thread.wrS_asid (t : Thread) (n : Nat) (v : Word64) : (t.wrS n v).asid = t.asid := by unfold Thread.wrS; split <;> rfl
@[simp] theorem Thread.wrS_pc (t : Thread) (n : Nat) (v : Word64) : (t.wrS n v).pc = t.pc := by unfold Thread.wrS; split <;> rfl
@[simp] theorem Thread.wrS_next (t : Thread) (n : Nat) (v : Word64) : (t.wrS n v).next = t.next := by unfold Thread.wrS; split <;> rfl
@[simp] theorem Thread.wrS_u (t : Thread) (n : Nat) (v : Word64) : (t.wrS n v).u = t.u := by unfold Thread.wrS; split <;> rfl
@[simp] theorem Thread.wrS_csr (t : Thread) (n : Nat) (v : Word64) : (t.wrS n v).csr = t.csr := by unfold Thread.wrS; split <;> rfl
@[simp] theorem Thread.wrS_x (t : Thread) (n : Nat) (v : Word64) : (t.wrS n v).x = t.x := by unfold Thread.wrS; split <;> rfl
@[simp] theorem Thread.wrS_b (t : Thread) (n : Nat) (v : Word64) : (t.wrS n v).b = t.b := by unfold Thread.wrS; split <;> rfl
@[simp] theorem Thread.wrP_status (t : Thread) (n : Nat) (v : PWord) : (t.wrP n v).status = t.status := by unfold Thread.wrP; split <;> rfl
@[simp] theorem Thread.wrP_launch (t : Thread) (n : Nat) (v : PWord) : (t.wrP n v).launch = t.launch := by unfold Thread.wrP; split <;> rfl
@[simp] theorem Thread.wrP_queue (t : Thread) (n : Nat) (v : PWord) : (t.wrP n v).queue = t.queue := by unfold Thread.wrP; split <;> rfl
@[simp] theorem Thread.wrP_asid (t : Thread) (n : Nat) (v : PWord) : (t.wrP n v).asid = t.asid := by unfold Thread.wrP; split <;> rfl
@[simp] theorem Thread.wrP_pc (t : Thread) (n : Nat) (v : PWord) : (t.wrP n v).pc = t.pc := by unfold Thread.wrP; split <;> rfl
@[simp] theorem Thread.wrP_next (t : Thread) (n : Nat) (v : PWord) : (t.wrP n v).next = t.next := by unfold Thread.wrP; split <;> rfl
@[simp] theorem Thread.wrP_u (t : Thread) (n : Nat) (v : PWord) : (t.wrP n v).u = t.u := by unfold Thread.wrP; split <;> rfl
@[simp] theorem Thread.wrP_csr (t : Thread) (n : Nat) (v : PWord) : (t.wrP n v).csr = t.csr := by unfold Thread.wrP; split <;> rfl
@[simp] theorem Thread.wrP_x (t : Thread) (n : Nat) (v : PWord) : (t.wrP n v).x = t.x := by unfold Thread.wrP; split <;> rfl
@[simp] theorem Thread.wrP_b (t : Thread) (n : Nat) (v : PWord) : (t.wrP n v).b = t.b := by unfold Thread.wrP; split <;> rfl
@[simp] theorem Thread.wrV_status (t : Thread) (n : Nat) (v : VWord) : (t.wrV n v).status = t.status := rfl
@[simp] theorem Thread.wrV_launch (t : Thread) (n : Nat) (v : VWord) : (t.wrV n v).launch = t.launch := rfl
@[simp] theorem Thread.wrV_queue (t : Thread) (n : Nat) (v : VWord) : (t.wrV n v).queue = t.queue := rfl
@[simp] theorem Thread.wrV_asid (t : Thread) (n : Nat) (v : VWord) : (t.wrV n v).asid = t.asid := rfl
@[simp] theorem Thread.wrV_pc (t : Thread) (n : Nat) (v : VWord) : (t.wrV n v).pc = t.pc := rfl
@[simp] theorem Thread.wrV_next (t : Thread) (n : Nat) (v : VWord) : (t.wrV n v).next = t.next := rfl
@[simp] theorem Thread.wrV_u (t : Thread) (n : Nat) (v : VWord) : (t.wrV n v).u = t.u := rfl
@[simp] theorem Thread.wrV_csr (t : Thread) (n : Nat) (v : VWord) : (t.wrV n v).csr = t.csr := rfl
@[simp] theorem Thread.wrV_x (t : Thread) (n : Nat) (v : VWord) : (t.wrV n v).x = t.x := rfl
@[simp] theorem Thread.wrV_b (t : Thread) (n : Nat) (v : VWord) : (t.wrV n v).b = t.b := rfl
@[simp] theorem Thread.wrQ_status (t : Thread) (n : Nat) (v : Tab Byte) : (t.wrQ n v).status = t.status := rfl
@[simp] theorem Thread.wrQ_launch (t : Thread) (n : Nat) (v : Tab Byte) : (t.wrQ n v).launch = t.launch := rfl
@[simp] theorem Thread.wrQ_queue (t : Thread) (n : Nat) (v : Tab Byte) : (t.wrQ n v).queue = t.queue := rfl
@[simp] theorem Thread.wrQ_asid (t : Thread) (n : Nat) (v : Tab Byte) : (t.wrQ n v).asid = t.asid := rfl
@[simp] theorem Thread.wrQ_pc (t : Thread) (n : Nat) (v : Tab Byte) : (t.wrQ n v).pc = t.pc := rfl
@[simp] theorem Thread.wrQ_next (t : Thread) (n : Nat) (v : Tab Byte) : (t.wrQ n v).next = t.next := rfl
@[simp] theorem Thread.wrQ_u (t : Thread) (n : Nat) (v : Tab Byte) : (t.wrQ n v).u = t.u := rfl
@[simp] theorem Thread.wrQ_csr (t : Thread) (n : Nat) (v : Tab Byte) : (t.wrQ n v).csr = t.csr := rfl
@[simp] theorem Thread.wrQ_x (t : Thread) (n : Nat) (v : Tab Byte) : (t.wrQ n v).x = t.x := rfl
@[simp] theorem Thread.wrQ_b (t : Thread) (n : Nat) (v : Tab Byte) : (t.wrQ n v).b = t.b := rfl
@[simp] theorem Thread.wrE_status (t : Thread) (n : Nat) (v : Word32) : (t.wrE n v).status = t.status := rfl
@[simp] theorem Thread.wrE_launch (t : Thread) (n : Nat) (v : Word32) : (t.wrE n v).launch = t.launch := rfl
@[simp] theorem Thread.wrE_queue (t : Thread) (n : Nat) (v : Word32) : (t.wrE n v).queue = t.queue := rfl
@[simp] theorem Thread.wrE_asid (t : Thread) (n : Nat) (v : Word32) : (t.wrE n v).asid = t.asid := rfl
@[simp] theorem Thread.wrE_pc (t : Thread) (n : Nat) (v : Word32) : (t.wrE n v).pc = t.pc := rfl
@[simp] theorem Thread.wrE_next (t : Thread) (n : Nat) (v : Word32) : (t.wrE n v).next = t.next := rfl
@[simp] theorem Thread.wrE_u (t : Thread) (n : Nat) (v : Word32) : (t.wrE n v).u = t.u := rfl
@[simp] theorem Thread.wrE_csr (t : Thread) (n : Nat) (v : Word32) : (t.wrE n v).csr = t.csr := rfl
@[simp] theorem Thread.wrE_x (t : Thread) (n : Nat) (v : Word32) : (t.wrE n v).x = t.x := rfl
@[simp] theorem Thread.wrE_b (t : Thread) (n : Nat) (v : Word32) : (t.wrE n v).b = t.b := rfl
@[simp] theorem Thread.setTile_status (t : Thread) (n : Nat) (v : Tab Word32) : (t.setTile n v).status = t.status := rfl
@[simp] theorem Thread.setTile_launch (t : Thread) (n : Nat) (v : Tab Word32) : (t.setTile n v).launch = t.launch := rfl
@[simp] theorem Thread.setTile_queue (t : Thread) (n : Nat) (v : Tab Word32) : (t.setTile n v).queue = t.queue := rfl
@[simp] theorem Thread.setTile_asid (t : Thread) (n : Nat) (v : Tab Word32) : (t.setTile n v).asid = t.asid := rfl
@[simp] theorem Thread.setTile_pc (t : Thread) (n : Nat) (v : Tab Word32) : (t.setTile n v).pc = t.pc := rfl
@[simp] theorem Thread.setTile_next (t : Thread) (n : Nat) (v : Tab Word32) : (t.setTile n v).next = t.next := rfl
@[simp] theorem Thread.setTile_u (t : Thread) (n : Nat) (v : Tab Word32) : (t.setTile n v).u = t.u := rfl
@[simp] theorem Thread.setTile_csr (t : Thread) (n : Nat) (v : Tab Word32) : (t.setTile n v).csr = t.csr := rfl
@[simp] theorem Thread.setTile_x (t : Thread) (n : Nat) (v : Tab Word32) : (t.setTile n v).x = t.x := rfl
@[simp] theorem Thread.setTile_b (t : Thread) (n : Nat) (v : Tab Word32) : (t.setTile n v).b = t.b := rfl
@[simp] theorem Thread.setRing_status (t : Thread) (n : Nat) (v : Ring) : (t.setRing n v).status = t.status := rfl
@[simp] theorem Thread.setRing_launch (t : Thread) (n : Nat) (v : Ring) : (t.setRing n v).launch = t.launch := rfl
@[simp] theorem Thread.setRing_queue (t : Thread) (n : Nat) (v : Ring) : (t.setRing n v).queue = t.queue := rfl
@[simp] theorem Thread.setRing_asid (t : Thread) (n : Nat) (v : Ring) : (t.setRing n v).asid = t.asid := rfl
@[simp] theorem Thread.setRing_pc (t : Thread) (n : Nat) (v : Ring) : (t.setRing n v).pc = t.pc := rfl
@[simp] theorem Thread.setRing_next (t : Thread) (n : Nat) (v : Ring) : (t.setRing n v).next = t.next := rfl
@[simp] theorem Thread.setRing_u (t : Thread) (n : Nat) (v : Ring) : (t.setRing n v).u = t.u := rfl
@[simp] theorem Thread.setRing_csr (t : Thread) (n : Nat) (v : Ring) : (t.setRing n v).csr = t.csr := rfl
@[simp] theorem Thread.setRing_x (t : Thread) (n : Nat) (v : Ring) : (t.setRing n v).x = t.x := rfl
@[simp] theorem Thread.setRing_b (t : Thread) (n : Nat) (v : Ring) : (t.setRing n v).b = t.b := rfl
@[simp] theorem Thread.addPend_status (t : Thread) (n : Nat) : (t.addPend n).status = t.status := by unfold Thread.addPend; split <;> rfl
@[simp] theorem Thread.addPend_launch (t : Thread) (n : Nat) : (t.addPend n).launch = t.launch := by unfold Thread.addPend; split <;> rfl
@[simp] theorem Thread.addPend_queue (t : Thread) (n : Nat) : (t.addPend n).queue = t.queue := by unfold Thread.addPend; split <;> rfl
@[simp] theorem Thread.addPend_asid (t : Thread) (n : Nat) : (t.addPend n).asid = t.asid := by unfold Thread.addPend; split <;> rfl
@[simp] theorem Thread.addPend_pc (t : Thread) (n : Nat) : (t.addPend n).pc = t.pc := by unfold Thread.addPend; split <;> rfl
@[simp] theorem Thread.addPend_next (t : Thread) (n : Nat) : (t.addPend n).next = t.next := by unfold Thread.addPend; split <;> rfl
@[simp] theorem Thread.addPend_r (t : Thread) (n : Nat) : (t.addPend n).r = t.r := by unfold Thread.addPend; split <;> rfl
@[simp] theorem Thread.addPend_csr (t : Thread) (n : Nat) : (t.addPend n).csr = t.csr := by unfold Thread.addPend; split <;> rfl
@[simp] theorem Thread.addPend_x (t : Thread) (n : Nat) : (t.addPend n).x = t.x := by unfold Thread.addPend; split <;> rfl
@[simp] theorem Thread.addPend_b (t : Thread) (n : Nat) : (t.addPend n).b = t.b := by unfold Thread.addPend; split <;> rfl

@[simp] theorem Thread.wrS_r_v (t : Thread) (n : Nat) (v : Word64) : (t.wrS n v).r.v = t.r.v := by unfold Thread.wrS; split <;> rfl
@[simp] theorem Thread.wrS_r_p (t : Thread) (n : Nat) (v : Word64) : (t.wrS n v).r.p = t.r.p := by unfold Thread.wrS; split <;> rfl
@[simp] theorem Thread.wrS_r_q (t : Thread) (n : Nat) (v : Word64) : (t.wrS n v).r.q = t.r.q := by unfold Thread.wrS; split <;> rfl
@[simp] theorem Thread.wrS_r_e (t : Thread) (n : Nat) (v : Word64) : (t.wrS n v).r.e = t.r.e := by unfold Thread.wrS; split <;> rfl
@[simp] theorem Thread.wrS_r_tiles (t : Thread) (n : Nat) (v : Word64) : (t.wrS n v).r.tiles = t.r.tiles := by unfold Thread.wrS; split <;> rfl
@[simp] theorem Thread.wrS_r_rings (t : Thread) (n : Nat) (v : Word64) : (t.wrS n v).r.rings = t.r.rings := by unfold Thread.wrS; split <;> rfl
@[simp] theorem Thread.wrS_r_sp (t : Thread) (n : Nat) (v : Word64) : (t.wrS n v).r.sp = t.r.sp := by unfold Thread.wrS; split <;> rfl
@[simp] theorem Thread.wrS_r_c0 (t : Thread) (n : Nat) (v : Word64) : (t.wrS n v).r.c0 = t.r.c0 := by unfold Thread.wrS; split <;> rfl
@[simp] theorem Thread.wrP_r_s (t : Thread) (n : Nat) (v : PWord) : (t.wrP n v).r.s = t.r.s := by unfold Thread.wrP; split <;> rfl
@[simp] theorem Thread.wrP_r_v (t : Thread) (n : Nat) (v : PWord) : (t.wrP n v).r.v = t.r.v := by unfold Thread.wrP; split <;> rfl
@[simp] theorem Thread.wrP_r_q (t : Thread) (n : Nat) (v : PWord) : (t.wrP n v).r.q = t.r.q := by unfold Thread.wrP; split <;> rfl
@[simp] theorem Thread.wrP_r_e (t : Thread) (n : Nat) (v : PWord) : (t.wrP n v).r.e = t.r.e := by unfold Thread.wrP; split <;> rfl
@[simp] theorem Thread.wrP_r_tiles (t : Thread) (n : Nat) (v : PWord) : (t.wrP n v).r.tiles = t.r.tiles := by unfold Thread.wrP; split <;> rfl
@[simp] theorem Thread.wrP_r_rings (t : Thread) (n : Nat) (v : PWord) : (t.wrP n v).r.rings = t.r.rings := by unfold Thread.wrP; split <;> rfl
@[simp] theorem Thread.wrP_r_sp (t : Thread) (n : Nat) (v : PWord) : (t.wrP n v).r.sp = t.r.sp := by unfold Thread.wrP; split <;> rfl
@[simp] theorem Thread.wrP_r_c0 (t : Thread) (n : Nat) (v : PWord) : (t.wrP n v).r.c0 = t.r.c0 := by unfold Thread.wrP; split <;> rfl
@[simp] theorem Thread.wrV_r_s (t : Thread) (n : Nat) (v : VWord) : (t.wrV n v).r.s = t.r.s := rfl
@[simp] theorem Thread.wrV_r_p (t : Thread) (n : Nat) (v : VWord) : (t.wrV n v).r.p = t.r.p := rfl
@[simp] theorem Thread.wrV_r_q (t : Thread) (n : Nat) (v : VWord) : (t.wrV n v).r.q = t.r.q := rfl
@[simp] theorem Thread.wrV_r_e (t : Thread) (n : Nat) (v : VWord) : (t.wrV n v).r.e = t.r.e := rfl
@[simp] theorem Thread.wrV_r_tiles (t : Thread) (n : Nat) (v : VWord) : (t.wrV n v).r.tiles = t.r.tiles := rfl
@[simp] theorem Thread.wrV_r_rings (t : Thread) (n : Nat) (v : VWord) : (t.wrV n v).r.rings = t.r.rings := rfl
@[simp] theorem Thread.wrV_r_sp (t : Thread) (n : Nat) (v : VWord) : (t.wrV n v).r.sp = t.r.sp := rfl
@[simp] theorem Thread.wrV_r_c0 (t : Thread) (n : Nat) (v : VWord) : (t.wrV n v).r.c0 = t.r.c0 := rfl
@[simp] theorem Thread.wrQ_r_s (t : Thread) (n : Nat) (v : Tab Byte) : (t.wrQ n v).r.s = t.r.s := rfl
@[simp] theorem Thread.wrQ_r_v (t : Thread) (n : Nat) (v : Tab Byte) : (t.wrQ n v).r.v = t.r.v := rfl
@[simp] theorem Thread.wrQ_r_p (t : Thread) (n : Nat) (v : Tab Byte) : (t.wrQ n v).r.p = t.r.p := rfl
@[simp] theorem Thread.wrQ_r_e (t : Thread) (n : Nat) (v : Tab Byte) : (t.wrQ n v).r.e = t.r.e := rfl
@[simp] theorem Thread.wrQ_r_tiles (t : Thread) (n : Nat) (v : Tab Byte) : (t.wrQ n v).r.tiles = t.r.tiles := rfl
@[simp] theorem Thread.wrQ_r_rings (t : Thread) (n : Nat) (v : Tab Byte) : (t.wrQ n v).r.rings = t.r.rings := rfl
@[simp] theorem Thread.wrQ_r_sp (t : Thread) (n : Nat) (v : Tab Byte) : (t.wrQ n v).r.sp = t.r.sp := rfl
@[simp] theorem Thread.wrQ_r_c0 (t : Thread) (n : Nat) (v : Tab Byte) : (t.wrQ n v).r.c0 = t.r.c0 := rfl
@[simp] theorem Thread.wrE_r_s (t : Thread) (n : Nat) (v : Word32) : (t.wrE n v).r.s = t.r.s := rfl
@[simp] theorem Thread.wrE_r_v (t : Thread) (n : Nat) (v : Word32) : (t.wrE n v).r.v = t.r.v := rfl
@[simp] theorem Thread.wrE_r_p (t : Thread) (n : Nat) (v : Word32) : (t.wrE n v).r.p = t.r.p := rfl
@[simp] theorem Thread.wrE_r_q (t : Thread) (n : Nat) (v : Word32) : (t.wrE n v).r.q = t.r.q := rfl
@[simp] theorem Thread.wrE_r_tiles (t : Thread) (n : Nat) (v : Word32) : (t.wrE n v).r.tiles = t.r.tiles := rfl
@[simp] theorem Thread.wrE_r_rings (t : Thread) (n : Nat) (v : Word32) : (t.wrE n v).r.rings = t.r.rings := rfl
@[simp] theorem Thread.wrE_r_sp (t : Thread) (n : Nat) (v : Word32) : (t.wrE n v).r.sp = t.r.sp := rfl
@[simp] theorem Thread.wrE_r_c0 (t : Thread) (n : Nat) (v : Word32) : (t.wrE n v).r.c0 = t.r.c0 := rfl
@[simp] theorem Thread.setTile_r_s (t : Thread) (n : Nat) (v : Tab Word32) : (t.setTile n v).r.s = t.r.s := rfl
@[simp] theorem Thread.setTile_r_v (t : Thread) (n : Nat) (v : Tab Word32) : (t.setTile n v).r.v = t.r.v := rfl
@[simp] theorem Thread.setTile_r_p (t : Thread) (n : Nat) (v : Tab Word32) : (t.setTile n v).r.p = t.r.p := rfl
@[simp] theorem Thread.setTile_r_q (t : Thread) (n : Nat) (v : Tab Word32) : (t.setTile n v).r.q = t.r.q := rfl
@[simp] theorem Thread.setTile_r_e (t : Thread) (n : Nat) (v : Tab Word32) : (t.setTile n v).r.e = t.r.e := rfl
@[simp] theorem Thread.setTile_r_rings (t : Thread) (n : Nat) (v : Tab Word32) : (t.setTile n v).r.rings = t.r.rings := rfl
@[simp] theorem Thread.setTile_r_sp (t : Thread) (n : Nat) (v : Tab Word32) : (t.setTile n v).r.sp = t.r.sp := rfl
@[simp] theorem Thread.setTile_r_c0 (t : Thread) (n : Nat) (v : Tab Word32) : (t.setTile n v).r.c0 = t.r.c0 := rfl
@[simp] theorem Thread.setRing_r_s (t : Thread) (n : Nat) (v : Ring) : (t.setRing n v).r.s = t.r.s := rfl
@[simp] theorem Thread.setRing_r_v (t : Thread) (n : Nat) (v : Ring) : (t.setRing n v).r.v = t.r.v := rfl
@[simp] theorem Thread.setRing_r_p (t : Thread) (n : Nat) (v : Ring) : (t.setRing n v).r.p = t.r.p := rfl
@[simp] theorem Thread.setRing_r_q (t : Thread) (n : Nat) (v : Ring) : (t.setRing n v).r.q = t.r.q := rfl
@[simp] theorem Thread.setRing_r_e (t : Thread) (n : Nat) (v : Ring) : (t.setRing n v).r.e = t.r.e := rfl
@[simp] theorem Thread.setRing_r_tiles (t : Thread) (n : Nat) (v : Ring) : (t.setRing n v).r.tiles = t.r.tiles := rfl
@[simp] theorem Thread.setRing_r_sp (t : Thread) (n : Nat) (v : Ring) : (t.setRing n v).r.sp = t.r.sp := rfl
@[simp] theorem Thread.setRing_r_c0 (t : Thread) (n : Nat) (v : Ring) : (t.setRing n v).r.c0 = t.r.c0 := rfl

/-! ## Reading a register after a write -/

theorem Thread.rdS_wrS (t : Thread) (n k : Nat) (v : Word64) : (t.wrS n v).rdS k = if k = n ∧ n ≠ 0 then v else t.rdS k := by
  unfold Thread.wrS Thread.rdS
  by_cases hn : n = 0
  · simp [hn]
  · by_cases hk : k = n
    · subst hk; simp [hn, Thread.modR]
    · simp [hn, hk, Thread.modR, Tab.get_set_ne _ _ _ hk]
@[simp] theorem Thread.rdS_zero (t : Thread) : t.rdS 0 = 0 := rfl
theorem Thread.rdP_wrP (t : Thread) (n k : Nat) (v : PWord) : (t.wrP n v).rdP k = if k = n ∧ n ≠ 0 then v else t.rdP k := by
  unfold Thread.wrP Thread.rdP
  by_cases hn : n = 0
  · simp [hn]
  · by_cases hk : k = n
    · subst hk; simp [hn, Thread.modR]
    · simp [hn, hk, Thread.modR, Tab.get_set_ne _ _ _ hk]
@[simp] theorem Thread.rdP_zero (t : Thread) : t.rdP 0 = BitVec.allOnes 128 := rfl
theorem Thread.rdV_wrV (t : Thread) (n k : Nat) (v : VWord) : (t.wrV n v).rdV k = if k = n then v else t.rdV k := Tab.get_set ..
theorem Thread.rdQ_wrQ (t : Thread) (n k : Nat) (v : Tab Byte) : (t.wrQ n v).rdQ k = if k = n then v else t.rdQ k := Tab.get_set ..
theorem Thread.rdE_wrE (t : Thread) (n k : Nat) (v : Word32) : (t.wrE n v).rdE k = if k = n then v else t.rdE k := Tab.get_set ..
theorem Thread.tile_setTile (t : Thread) (n k : Nat) (v : Tab Word32) : (t.setTile n v).tile k = if k = n then v else t.tile k := Tab.get_set ..
theorem Thread.ring_setRing (t : Thread) (n k : Nat) (v : Ring) : (t.setRing n v).ring k = if k = n then v else t.ring k := Tab.get_set ..

@[simp] theorem Thread.rdV_wrS (t : Thread) (n : Nat) (v : Word64) (k : Nat) : (t.wrS n v).rdV k = t.rdV k := by unfold Thread.rdV; simp only [Thread.wrS_r_v]
@[simp] theorem Thread.rdP_wrS (t : Thread) (n : Nat) (v : Word64) (k : Nat) : (t.wrS n v).rdP k = t.rdP k := by unfold Thread.rdP; simp only [Thread.wrS_r_p]
@[simp] theorem Thread.rdQ_wrS (t : Thread) (n : Nat) (v : Word64) (k : Nat) : (t.wrS n v).rdQ k = t.rdQ k := by unfold Thread.rdQ; simp only [Thread.wrS_r_q]
@[simp] theorem Thread.rdE_wrS (t : Thread) (n : Nat) (v : Word64) (k : Nat) : (t.wrS n v).rdE k = t.rdE k := by unfold Thread.rdE; simp only [Thread.wrS_r_e]
@[simp] theorem Thread.tile_wrS (t : Thread) (n : Nat) (v : Word64) (k : Nat) : (t.wrS n v).tile k = t.tile k := by unfold Thread.tile; simp only [Thread.wrS_r_tiles]
@[simp] theorem Thread.ring_wrS (t : Thread) (n : Nat) (v : Word64) (k : Nat) : (t.wrS n v).ring k = t.ring k := by unfold Thread.ring; simp only [Thread.wrS_r_rings]
@[simp] theorem Thread.rdS_wrV (t : Thread) (n : Nat) (v : VWord) (k : Nat) : (t.wrV n v).rdS k = t.rdS k := by unfold Thread.rdS; simp only [Thread.wrV_r_s]
@[simp] theorem Thread.rdP_wrV (t : Thread) (n : Nat) (v : VWord) (k : Nat) : (t.wrV n v).rdP k = t.rdP k := by unfold Thread.rdP; simp only [Thread.wrV_r_p]
@[simp] theorem Thread.rdQ_wrV (t : Thread) (n : Nat) (v : VWord) (k : Nat) : (t.wrV n v).rdQ k = t.rdQ k := by unfold Thread.rdQ; simp only [Thread.wrV_r_q]
@[simp] theorem Thread.rdE_wrV (t : Thread) (n : Nat) (v : VWord) (k : Nat) : (t.wrV n v).rdE k = t.rdE k := by unfold Thread.rdE; simp only [Thread.wrV_r_e]
@[simp] theorem Thread.tile_wrV (t : Thread) (n : Nat) (v : VWord) (k : Nat) : (t.wrV n v).tile k = t.tile k := by unfold Thread.tile; simp only [Thread.wrV_r_tiles]
@[simp] theorem Thread.ring_wrV (t : Thread) (n : Nat) (v : VWord) (k : Nat) : (t.wrV n v).ring k = t.ring k := by unfold Thread.ring; simp only [Thread.wrV_r_rings]
@[simp] theorem Thread.rdS_wrP (t : Thread) (n : Nat) (v : PWord) (k : Nat) : (t.wrP n v).rdS k = t.rdS k := by unfold Thread.rdS; simp only [Thread.wrP_r_s]
@[simp] theorem Thread.rdV_wrP (t : Thread) (n : Nat) (v : PWord) (k : Nat) : (t.wrP n v).rdV k = t.rdV k := by unfold Thread.rdV; simp only [Thread.wrP_r_v]
@[simp] theorem Thread.rdQ_wrP (t : Thread) (n : Nat) (v : PWord) (k : Nat) : (t.wrP n v).rdQ k = t.rdQ k := by unfold Thread.rdQ; simp only [Thread.wrP_r_q]
@[simp] theorem Thread.rdE_wrP (t : Thread) (n : Nat) (v : PWord) (k : Nat) : (t.wrP n v).rdE k = t.rdE k := by unfold Thread.rdE; simp only [Thread.wrP_r_e]
@[simp] theorem Thread.tile_wrP (t : Thread) (n : Nat) (v : PWord) (k : Nat) : (t.wrP n v).tile k = t.tile k := by unfold Thread.tile; simp only [Thread.wrP_r_tiles]
@[simp] theorem Thread.ring_wrP (t : Thread) (n : Nat) (v : PWord) (k : Nat) : (t.wrP n v).ring k = t.ring k := by unfold Thread.ring; simp only [Thread.wrP_r_rings]
@[simp] theorem Thread.rdS_wrQ (t : Thread) (n : Nat) (v : Tab Byte) (k : Nat) : (t.wrQ n v).rdS k = t.rdS k := by unfold Thread.rdS; simp only [Thread.wrQ_r_s]
@[simp] theorem Thread.rdV_wrQ (t : Thread) (n : Nat) (v : Tab Byte) (k : Nat) : (t.wrQ n v).rdV k = t.rdV k := by unfold Thread.rdV; simp only [Thread.wrQ_r_v]
@[simp] theorem Thread.rdP_wrQ (t : Thread) (n : Nat) (v : Tab Byte) (k : Nat) : (t.wrQ n v).rdP k = t.rdP k := by unfold Thread.rdP; simp only [Thread.wrQ_r_p]
@[simp] theorem Thread.rdE_wrQ (t : Thread) (n : Nat) (v : Tab Byte) (k : Nat) : (t.wrQ n v).rdE k = t.rdE k := by unfold Thread.rdE; simp only [Thread.wrQ_r_e]
@[simp] theorem Thread.tile_wrQ (t : Thread) (n : Nat) (v : Tab Byte) (k : Nat) : (t.wrQ n v).tile k = t.tile k := by unfold Thread.tile; simp only [Thread.wrQ_r_tiles]
@[simp] theorem Thread.ring_wrQ (t : Thread) (n : Nat) (v : Tab Byte) (k : Nat) : (t.wrQ n v).ring k = t.ring k := by unfold Thread.ring; simp only [Thread.wrQ_r_rings]
@[simp] theorem Thread.rdS_wrE (t : Thread) (n : Nat) (v : Word32) (k : Nat) : (t.wrE n v).rdS k = t.rdS k := by unfold Thread.rdS; simp only [Thread.wrE_r_s]
@[simp] theorem Thread.rdV_wrE (t : Thread) (n : Nat) (v : Word32) (k : Nat) : (t.wrE n v).rdV k = t.rdV k := by unfold Thread.rdV; simp only [Thread.wrE_r_v]
@[simp] theorem Thread.rdP_wrE (t : Thread) (n : Nat) (v : Word32) (k : Nat) : (t.wrE n v).rdP k = t.rdP k := by unfold Thread.rdP; simp only [Thread.wrE_r_p]
@[simp] theorem Thread.rdQ_wrE (t : Thread) (n : Nat) (v : Word32) (k : Nat) : (t.wrE n v).rdQ k = t.rdQ k := by unfold Thread.rdQ; simp only [Thread.wrE_r_q]
@[simp] theorem Thread.tile_wrE (t : Thread) (n : Nat) (v : Word32) (k : Nat) : (t.wrE n v).tile k = t.tile k := by unfold Thread.tile; simp only [Thread.wrE_r_tiles]
@[simp] theorem Thread.ring_wrE (t : Thread) (n : Nat) (v : Word32) (k : Nat) : (t.wrE n v).ring k = t.ring k := by unfold Thread.ring; simp only [Thread.wrE_r_rings]
@[simp] theorem Thread.rdS_setTile (t : Thread) (n : Nat) (v : Tab Word32) (k : Nat) : (t.setTile n v).rdS k = t.rdS k := by unfold Thread.rdS; simp only [Thread.setTile_r_s]
@[simp] theorem Thread.rdV_setTile (t : Thread) (n : Nat) (v : Tab Word32) (k : Nat) : (t.setTile n v).rdV k = t.rdV k := by unfold Thread.rdV; simp only [Thread.setTile_r_v]
@[simp] theorem Thread.rdP_setTile (t : Thread) (n : Nat) (v : Tab Word32) (k : Nat) : (t.setTile n v).rdP k = t.rdP k := by unfold Thread.rdP; simp only [Thread.setTile_r_p]
@[simp] theorem Thread.rdQ_setTile (t : Thread) (n : Nat) (v : Tab Word32) (k : Nat) : (t.setTile n v).rdQ k = t.rdQ k := by unfold Thread.rdQ; simp only [Thread.setTile_r_q]
@[simp] theorem Thread.rdE_setTile (t : Thread) (n : Nat) (v : Tab Word32) (k : Nat) : (t.setTile n v).rdE k = t.rdE k := by unfold Thread.rdE; simp only [Thread.setTile_r_e]
@[simp] theorem Thread.ring_setTile (t : Thread) (n : Nat) (v : Tab Word32) (k : Nat) : (t.setTile n v).ring k = t.ring k := by unfold Thread.ring; simp only [Thread.setTile_r_rings]
@[simp] theorem Thread.rdS_setRing (t : Thread) (n : Nat) (v : Ring) (k : Nat) : (t.setRing n v).rdS k = t.rdS k := by unfold Thread.rdS; simp only [Thread.setRing_r_s]
@[simp] theorem Thread.rdV_setRing (t : Thread) (n : Nat) (v : Ring) (k : Nat) : (t.setRing n v).rdV k = t.rdV k := by unfold Thread.rdV; simp only [Thread.setRing_r_v]
@[simp] theorem Thread.rdP_setRing (t : Thread) (n : Nat) (v : Ring) (k : Nat) : (t.setRing n v).rdP k = t.rdP k := by unfold Thread.rdP; simp only [Thread.setRing_r_p]
@[simp] theorem Thread.rdQ_setRing (t : Thread) (n : Nat) (v : Ring) (k : Nat) : (t.setRing n v).rdQ k = t.rdQ k := by unfold Thread.rdQ; simp only [Thread.setRing_r_q]
@[simp] theorem Thread.rdE_setRing (t : Thread) (n : Nat) (v : Ring) (k : Nat) : (t.setRing n v).rdE k = t.rdE k := by unfold Thread.rdE; simp only [Thread.setRing_r_e]
@[simp] theorem Thread.tile_setRing (t : Thread) (n : Nat) (v : Ring) (k : Nat) : (t.setRing n v).tile k = t.tile k := by unfold Thread.tile; simp only [Thread.setRing_r_tiles]
@[simp] theorem Thread.rdS_modU (t : Thread) (f : Sequencer → Sequencer) (k : Nat) : (t.modU f).rdS k = t.rdS k := rfl
@[simp] theorem Thread.rdV_modU (t : Thread) (f : Sequencer → Sequencer) (k : Nat) : (t.modU f).rdV k = t.rdV k := rfl
@[simp] theorem Thread.rdP_modU (t : Thread) (f : Sequencer → Sequencer) (k : Nat) : (t.modU f).rdP k = t.rdP k := rfl
@[simp] theorem Thread.rdQ_modU (t : Thread) (f : Sequencer → Sequencer) (k : Nat) : (t.modU f).rdQ k = t.rdQ k := rfl
@[simp] theorem Thread.rdE_modU (t : Thread) (f : Sequencer → Sequencer) (k : Nat) : (t.modU f).rdE k = t.rdE k := rfl
@[simp] theorem Thread.tile_modU (t : Thread) (f : Sequencer → Sequencer) (k : Nat) : (t.modU f).tile k = t.tile k := rfl
@[simp] theorem Thread.ring_modU (t : Thread) (f : Sequencer → Sequencer) (k : Nat) : (t.modU f).ring k = t.ring k := rfl
@[simp] theorem Thread.rdS_modX (t : Thread) (f : Queues → Queues) (k : Nat) : (t.modX f).rdS k = t.rdS k := rfl
@[simp] theorem Thread.rdV_modX (t : Thread) (f : Queues → Queues) (k : Nat) : (t.modX f).rdV k = t.rdV k := rfl
@[simp] theorem Thread.rdP_modX (t : Thread) (f : Queues → Queues) (k : Nat) : (t.modX f).rdP k = t.rdP k := rfl
@[simp] theorem Thread.rdQ_modX (t : Thread) (f : Queues → Queues) (k : Nat) : (t.modX f).rdQ k = t.rdQ k := rfl
@[simp] theorem Thread.rdE_modX (t : Thread) (f : Queues → Queues) (k : Nat) : (t.modX f).rdE k = t.rdE k := rfl
@[simp] theorem Thread.tile_modX (t : Thread) (f : Queues → Queues) (k : Nat) : (t.modX f).tile k = t.tile k := rfl
@[simp] theorem Thread.ring_modX (t : Thread) (f : Queues → Queues) (k : Nat) : (t.modX f).ring k = t.ring k := rfl
@[simp] theorem Thread.rdS_modB (t : Thread) (f : RegionMaps → RegionMaps) (k : Nat) : (t.modB f).rdS k = t.rdS k := rfl
@[simp] theorem Thread.rdV_modB (t : Thread) (f : RegionMaps → RegionMaps) (k : Nat) : (t.modB f).rdV k = t.rdV k := rfl
@[simp] theorem Thread.rdP_modB (t : Thread) (f : RegionMaps → RegionMaps) (k : Nat) : (t.modB f).rdP k = t.rdP k := rfl
@[simp] theorem Thread.rdQ_modB (t : Thread) (f : RegionMaps → RegionMaps) (k : Nat) : (t.modB f).rdQ k = t.rdQ k := rfl
@[simp] theorem Thread.rdE_modB (t : Thread) (f : RegionMaps → RegionMaps) (k : Nat) : (t.modB f).rdE k = t.rdE k := rfl
@[simp] theorem Thread.tile_modB (t : Thread) (f : RegionMaps → RegionMaps) (k : Nat) : (t.modB f).tile k = t.tile k := rfl
@[simp] theorem Thread.ring_modB (t : Thread) (f : RegionMaps → RegionMaps) (k : Nat) : (t.modB f).ring k = t.ring k := rfl
@[simp] theorem Thread.rdS_modC (t : Thread) (f : Csrs → Csrs) (k : Nat) : (t.modC f).rdS k = t.rdS k := rfl
@[simp] theorem Thread.rdV_modC (t : Thread) (f : Csrs → Csrs) (k : Nat) : (t.modC f).rdV k = t.rdV k := rfl
@[simp] theorem Thread.rdP_modC (t : Thread) (f : Csrs → Csrs) (k : Nat) : (t.modC f).rdP k = t.rdP k := rfl
@[simp] theorem Thread.rdQ_modC (t : Thread) (f : Csrs → Csrs) (k : Nat) : (t.modC f).rdQ k = t.rdQ k := rfl
@[simp] theorem Thread.rdE_modC (t : Thread) (f : Csrs → Csrs) (k : Nat) : (t.modC f).rdE k = t.rdE k := rfl
@[simp] theorem Thread.tile_modC (t : Thread) (f : Csrs → Csrs) (k : Nat) : (t.modC f).tile k = t.tile k := rfl
@[simp] theorem Thread.ring_modC (t : Thread) (f : Csrs → Csrs) (k : Nat) : (t.modC f).ring k = t.ring k := rfl

/-! ## Updates of the state -/

@[simp] theorem State.on_now (s : State) (f : Module → Module) : (s.on f).now = f s.now := rfl
@[simp] theorem State.on_pre (s : State) (f : Module → Module) : (s.on f).pre = s.pre := rfl
@[simp] theorem State.upd_now (s : State) (f : Thread → Thread) : (s.upd f).now = s.now.modTh f := rfl
@[simp] theorem State.upd_pre (s : State) (f : Thread → Thread) : (s.upd f).pre = s.pre := rfl
theorem State.wrS_eq (s : State) (r : RegNo) (v : Word64) : s.wrS r v = s.upd fun t => t.wrS r.toNat v := rfl
theorem State.wrV_eq (s : State) (r : RegNo) (v : VWord) : s.wrV r v = s.upd fun t => t.wrV r.toNat v := rfl
theorem State.wrP_eq (s : State) (r : BitVec 4) (v : PWord) : s.wrP r v = s.upd fun t => t.wrP r.toNat v := rfl
theorem State.wrQ_eq (s : State) (r : BitVec 2) (v : Tab Byte) : s.wrQ r v = s.upd fun t => t.wrQ r.toNat v := rfl

end Sys2Proof.Machine
end

