-- ==== Sys2Proof/Laws/Frames.lean ====
section
/-!
SUPPORT. What the shared ways of writing a result do, once for all the operations that write one: the register written, and all else kept.
-/

set_option Elab.async false

namespace Sys2Proof.Machine

/-- A change of the thread in focus changes nothing else. -/
theorem State.upd_sameOutside (s : State) (f : Thread → Thread) : s.sameOutside (s.upd f) :=
  ⟨rfl, rfl, fun _ h => Module.ctx_modTh_ne _ _ h, fun _ => rfl, rfl⟩

theorem State.sameOutside_refl (s : State) : s.sameOutside s := ⟨rfl, rfl, fun _ _ => rfl, fun _ => rfl, rfl⟩

/-- A change of the thread in focus. -/
theorem State.upd_becomes (s : State) (f : Thread → Thread) : s.becomes f (s.upd f) := ⟨s.upd_sameOutside f, Module.th_modTh ..⟩

theorem Thread.keeps_refl (ws : List Reg) (t : Thread) : t.keeps ws t :=
  ⟨fun _ _ => rfl, fun _ _ => rfl, fun _ _ => rfl, fun _ _ => rfl, fun _ _ => rfl, rfl⟩

theorem State.keeps_refl (ws : List Reg) (s : State) : s.keeps ws s := ⟨s.sameOutside_refl, Thread.keeps_refl _ _⟩

theorem Thread.wrS_keeps (t : Thread) (n : Nat) (v : Word64) : t.keeps [.s n] (t.wrS n v) := by
  refine ⟨fun k h => ?_, fun k _ => by simp, fun k _ => by simp, fun k _ => by simp, fun k _ => by simp, ?_⟩
  · rw [Thread.rdS_wrS, if_neg]; rintro ⟨rfl, _⟩; simp at h
  · unfold Thread.wrS; split <;> rfl

theorem Thread.wrV_keeps (t : Thread) (n : Nat) (v : VWord) : t.keeps [.v n] (t.wrV n v) := by
  refine ⟨fun k _ => by simp, fun k h => ?_, fun k _ => by simp, fun k _ => by simp, fun k _ => by simp, rfl⟩
  rw [Thread.rdV_wrV, if_neg]; rintro rfl; simp at h

theorem Thread.wrP_keeps (t : Thread) (n : Nat) (v : PWord) : t.keeps [.p n] (t.wrP n v) := by
  refine ⟨fun k _ => by simp, fun k _ => by simp, fun k h => ?_, fun k _ => by simp, fun k _ => by simp, ?_⟩
  · rw [Thread.rdP_wrP, if_neg]; rintro ⟨rfl, _⟩; simp at h
  · unfold Thread.wrP; split <;> rfl

theorem Thread.wrQ_keeps (t : Thread) (n : Nat) (v : Tab Byte) : t.keeps [.q n] (t.wrQ n v) := by
  refine ⟨fun k _ => by simp, fun k _ => by simp, fun k _ => by simp, fun k h => ?_, fun k _ => by simp, rfl⟩
  rw [Thread.rdQ_wrQ, if_neg]; rintro rfl; simp at h

theorem State.upd_keeps (s : State) (f : Thread → Thread) (ws : List Reg) (h : s.now.th.keeps ws (f s.now.th)) : s.keeps ws (s.upd f) :=
  ⟨s.upd_sameOutside f, by rw [State.upd_now, Module.th_modTh]; exact h⟩

theorem regNo_zero (d : RegNo) : d.toNat = 0 ↔ d = 0 := ⟨fun h => BitVec.eq_of_toNat_eq (by simpa using h), fun h => by subst h; rfl⟩

/-- An operation that writes a scalar register. -/
theorem writesS_of {i : Instr} {s : State} {d : RegNo} {v : Word64} (h : exec i s = .next (s.wrS d v)) : WritesS i s d v := by
  refine ⟨_, h, ?_, s.upd_keeps _ _ (Thread.wrS_keeps ..)⟩
  rw [State.wrS_eq, State.upd_now, Module.th_modTh, Thread.rdS_wrS]
  by_cases hd : d = 0
  · subst hd; simp
  · have : d.toNat ≠ 0 := fun e => hd ((regNo_zero d).1 e)
    rw [if_neg hd, if_pos ⟨rfl, this⟩]

/-- An operation that writes a vector register. -/
theorem writesV_of {i : Instr} {s : State} {d : RegNo} {v : VWord} {P : VWord → Prop} (h : exec i s = .next (s.wrV d v)) (hv : P v) :
    WritesV i s d P := by
  refine ⟨_, h, ?_, s.upd_keeps _ _ (Thread.wrV_keeps ..)⟩
  rw [State.wrV_eq, State.upd_now, Module.th_modTh, Thread.rdV_wrV]; simpa using hv

/-- An operation that writes a predicate register. -/
theorem writesP_of {i : Instr} {s : State} {d : BitVec 4} {v : PWord} {P : PWord → Prop} (h : exec i s = .next (s.wrP d v)) (hv : P v) :
    WritesP i s d P := by
  refine ⟨_, h, ?_, s.upd_keeps _ _ (Thread.wrP_keeps ..)⟩
  rw [State.wrP_eq, State.upd_now, Module.th_modTh]
  by_cases hd : d = 0
  · rw [if_pos hd]; rfl
  · have : d.toNat ≠ 0 := fun e => hd (BitVec.eq_of_toNat_eq (by simpa using e))
    rw [if_neg hd, Thread.rdP_wrP, if_pos ⟨rfl, this⟩]; exact hv

/-- An operation that writes a sketch accumulator. -/
theorem writesQ_of {i : Instr} {s : State} {d : BitVec 2} {v : Tab Byte} (h : exec i s = .next (s.wrQ d v)) : WritesQ i s d v := by
  refine ⟨_, h, ?_, s.upd_keeps _ _ (Thread.wrQ_keeps ..)⟩
  rw [State.wrQ_eq, State.upd_now, Module.th_modTh, Thread.rdQ_wrQ]; simp

/-- An operation that changes the thread in focus alone. -/
theorem does_becomes {i : Instr} {s : State} {f : Thread → Thread} (h : exec i s = .next (s.upd f)) : Does i s (s.becomes f) :=
  ⟨_, h, s.upd_becomes f⟩

/-- An operation of the long class with a scalar result. -/
theorem lands_of {i : Instr} {s : State} {slot k : Nat} {d : RegNo} {v : Word64} (h : exec i s = .next (s.landS slot d v k)) (hd : d ≠ 0) :
    Lands i s [(.s d.toNat, v.setWidth 1024)] slot k := by
  refine ⟨_, h, ?_⟩
  unfold State.landS
  simp only [hd, if_false]
  exact s.upd_becomes _

end Sys2Proof.Machine
end

