-- ==== Sys2Proof/Laws/Memory.lean ====
section
/-!
SUPPORT. The operations that write memory: each keeps its canonical form, reads back what it wrote, and leaves every other byte as it was.
-/

set_option Elab.async false

namespace Sys2Proof.Machine

/-! ## The canonical form -/

theorem Memory.wf_of_mem {a b : Memory} (h : b.mem = a.mem) (hw : a.wf) : b.wf := by unfold Memory.wf; rw [h]; exact hw

theorem Module.poke_wf (m : Module) (pa : Nat) (bs : List Byte) (h : m.mm.wf) : (m.poke pa bs).mm.wf := Tab.wf_putBytes _ pa bs h

theorem Module.addPoison_wf (m : Module) (l : Nat) (h : m.mm.wf) : (m.addPoison l).mm.wf := h

theorem Module.clearPoison_wf (m : Module) (pa n : Nat) (h : m.mm.wf) : (m.clearPoison pa n).mm.wf := h

theorem Module.register_mem (m : Module) (l r : Nat) : (m.register l r).mm.mem = m.mm.mem := by
  unfold Module.register
  dsimp only
  split <;> rfl

theorem Module.register_wf (m : Module) (l r : Nat) (h : m.mm.wf) : (m.register l r).mm.wf := Memory.wf_of_mem (m.register_mem l r) h

theorem Module.l1Evict_wf (m : Module) (k l : Nat) (h : m.mm.wf) : (m.l1Evict k l).mm.wf := h

theorem Module.l1Flush_wf (m : Module) (k : Nat) (h : m.mm.wf) : (m.l1Flush k).mm.wf := h

theorem Module.askSnoop_wf (m : Module) (l : Nat) (h : m.mm.wf) : (m.askSnoop l).mm.wf := h

theorem Module.setHold_wf (m : Module) (l : Nat) (x : HostHold) (h : m.mm.wf) : (m.setHold l x).mm.wf := h

theorem Module.poolPut_wf (m : Module) (o : Nat) (bs : List Byte) (h : m.mm.wf) : (m.poolPut o bs).mm.wf := h

theorem Module.markUsed_wf (m m' : Module) (ptr : Nat) (u : Use) (h : m.mm.wf) (e : m.markUsed ptr u = .ok m') : m'.mm.wf := by
  unfold Module.markUsed at e
  split at e
  · cases e; exact h
  · split at e
    · cases e
    · cases e; exact Module.register_wf _ _ _ (m.poke_wf _ _ h)

theorem Module.recordPut_wf (m : Module) (c : CellAt) (loc : Nat) (bs : List Byte) (h : m.mm.wf) : (m.recordPut c loc bs).mm.wf := by
  unfold Module.recordPut
  split
  · exact m.poke_wf _ _ h
  · exact h

theorem Tab.wf_foldl_set (l : List (Nat × Byte)) (k : Nat → Nat) (t : Tab Byte) (h : Tab.wf 0 t = true) :
    Tab.wf 0 (l.foldl (fun t e => Tab.set 0 t (k e.1) e.2) t) = true := by
  induction l generalizing t with
  | nil => exact h
  | cons e l ih => exact ih _ (Tab.wf_set 0 t _ _ h)

theorem Module.copyFrame_wf (m : Module) (src n dst : Nat) (pool : Bool) (h : m.mm.wf) : (m.copyFrame src n dst pool).mm.wf := by
  unfold Module.copyFrame
  split
  · exact h
  · split
    · exact h
    · exact Tab.wf_foldl_set _ (fun a => dst + (a - src)) _ (Tab.wf_drop 0 _ _ h)

/-! ## What is read back, and what stays -/

theorem Module.peek_poke (m : Module) (pa : Nat) (bs : List Byte) : (m.poke pa bs).peek pa bs.length = bs := Tab.bytes_putBytes _ pa bs

theorem Module.byte_poke (m : Module) (p : Option Module) (pa i : Nat) (bs : List Byte) (h : i < bs.length) :
    State.byte ⟨m.poke pa bs, p⟩ (pa + i) = bs[i] := Tab.get_putBytes _ pa i bs h

theorem Module.byte_poke_ne (m : Module) (p : Option Module) (pa a : Nat) (bs : List Byte) (h : a < pa ∨ pa + bs.length ≤ a) :
    State.byte ⟨m.poke pa bs, p⟩ a = State.byte ⟨m, p⟩ a := Tab.get_putBytes_ne _ pa a bs h

/-! ## The states the interface makes -/

theorem State.reset_wf : State.reset.memoryWf := ⟨by decide, fun m h => by cases h⟩

theorem State.memoryWf_next {m : Module} (h : m.mm.wf) : State.memoryWf ⟨m, none⟩ := ⟨h, fun _ e => by cases e⟩

end Sys2Proof.Machine
end

