-- ==== Sys2Proof/Laws/Ops.lean ====
section
/-!
SUPPORT. What each shared operation can do, said once: taking a trap and returning from one, holding a bundle, landings, tokens, and the entry of
an operation into its queue.
-/

set_option Elab.async false

namespace Sys2Proof.Machine

/-! ## Faults of a bundle -/

theorem traps_of_fault {i : Instr} {s : State} {c : Cause} {d : Word64} (h : exec i s = .next (s.fault c d)) : Traps i s c d := h

theorem traps_of_faultSyl {i : Instr} {s : State} {c : Cause} (h : exec i s = .next (s.faultSyl c i)) :
    Traps i s c (BitVec.ofNat 64 (sylWord i)) := h

theorem traps_of_faultHdr {i : Instr} {s : State} {c : Cause} (h : exec i s = .next (s.faultHdr c)) :
    Traps i s c (s.back.th.u.ir.header.setWidth 64) := h

/-- A trap withdraws the bundle: the step that takes it answers no interrupted module. -/
theorem State.raise_pre (s : State) (τ : Trap) : (s.raise τ).pre = none := rfl

/-- Holding a bundle changes the thread in focus by `f` and lets a cycle pass. -/
theorem State.hold_spec (s : State) (f : Thread → Thread) :
    (s.hold f).pre = none ∧ (s.hold f).now.mm = s.back.mm ∧ (s.hold f).now.clk.cycle = s.back.clk.cycle + 1 ∧ (s.hold f).now.groups = s.back.groups :=
  ⟨rfl, rfl, rfl, rfl⟩

/-! ## Taking a trap -/

/-- A trap while one is held ends the launch (R481). -/
theorem Module.takeTrap_nested (m : Module) (cx : Nat) (τ : Trap) (h : (m.ctx cx).trapped = true) :
    m.takeTrap cx τ = m.endLaunch cx Cause.trapNested τ.cause (m.ctx cx).pc τ.datum := by
  unfold Module.takeTrap; simp [h]

/-- A trap without a handler ends the launch with its own cause (R481). -/
theorem Module.takeTrap_noHandler (m : Module) (cx : Nat) (τ : Trap) (h : (m.ctx cx).trapped = false) (hv : bit (m.ctx cx).csr.tvec.toNat 63 = false) :
    m.takeTrap cx τ = m.endLaunch cx τ.cause 0 (m.ctx cx).pc τ.datum := by
  unfold Module.takeTrap; simp [h, hv]

/-- A trap that is taken changes the thread alone, and saves and sets these registers of it (R481). -/
theorem Module.takeTrap_handler (m : Module) (cx : Nat) (τ : Trap) (h : (m.ctx cx).trapped = false) (hv : bit (m.ctx cx).csr.tvec.toNat 63 = true) :
    ∃ t, m.takeTrap cx τ = m.setCtx cx t ∧ t.csr.epc = (m.ctx cx).pc ∧ t.csr.cause = causeWord τ.cause τ.detail ∧ t.csr.edata = τ.datum ∧
      t.csr.estat = estatEnter (m.ctx cx).csr.estat τ.delivery.precise ∧ t.u = (m.ctx cx).u.enter (m.ctx cx).saveFrame ∧
      t.r.s = (m.ctx cx).r.s ∧ t.r.v = (m.ctx cx).r.v ∧ t.r.p = (m.ctx cx).r.p ∧ t.x = (m.ctx cx).x ∧ t.b = (m.ctx cx).b := by
  unfold Module.takeTrap
  simp only [h, hv, Bool.not_true, Bool.false_eq_true, if_false]
  exact ⟨_, rfl, rfl, rfl, rfl, rfl, rfl, rfl, rfl, rfl, rfl, rfl⟩

/-- Stopping a queue leaves every context as it was (R119). -/
theorem Module.stopQueue_ctx (m : Module) (q : Nat) (c : Cause) (x : Nat) : (m.stopQueue q c).ctx x = m.ctx x := rfl

/-! ## Results and queue entries -/

/-- Taking a landing entry adds it last and changes nothing else (R331). -/
theorem Thread.land_spec (t : Thread) (e : Landing) :
    (t.land e).u.land = t.u.land ++ [e] ∧ (t.land e).r = t.r ∧ (t.land e).csr = t.csr ∧ (t.land e).x = t.x ∧ (t.land e).b = t.b :=
  ⟨rfl, rfl, rfl, rfl, rfl⟩

theorem State.landS_becomes (s : State) (slot k : Nat) (r : RegNo) (v : Word64) :
    s.becomes (fun t => t.land ⟨if r = 0 then [] else [(.s r.toNat, v.setWidth 1024)], k, slot, none, none, false⟩) (s.landS slot r v k) :=
  s.upd_becomes _

/-- An entry goes to the end of its queue, and nothing else changes (R190). -/
theorem Thread.enterS_spec (t : Thread) (e : SEntry) :
    (t.enterS e).x.sq = t.x.sq ++ [e] ∧ (t.enterS e).x.c1q = t.x.c1q ∧ (t.enterS e).x.mq = t.x.mq ∧ (t.enterS e).r = t.r ∧ (t.enterS e).u = t.u ∧
      (t.enterS e).csr = t.csr := ⟨rfl, rfl, rfl, rfl, rfl, rfl⟩

theorem Thread.enterC1_spec (t : Thread) (e : C1Entry) :
    (t.enterC1 e).x.c1q = t.x.c1q ++ [e] ∧ (t.enterC1 e).x.sq = t.x.sq ∧ (t.enterC1 e).x.mq = t.x.mq ∧ (t.enterC1 e).r = t.r ∧ (t.enterC1 e).u = t.u ∧
      (t.enterC1 e).csr = t.csr := ⟨rfl, rfl, rfl, rfl, rfl, rfl⟩

theorem Thread.enterM_spec (t : Thread) (e : MEntry) :
    (t.enterM e).x.mq = t.x.mq ++ [e] ∧ (t.enterM e).x.sq = t.x.sq ∧ (t.enterM e).x.c1q = t.x.c1q ∧ (t.enterM e).r = t.r ∧ (t.enterM e).u = t.u ∧
      (t.enterM e).csr = t.csr := ⟨rfl, rfl, rfl, rfl, rfl, rfl⟩

/-- A token that is no s0 becomes pending; s0 leaves the operation untracked (R186, R188). -/
theorem Thread.token_pend (t : Thread) (n k : Nat) : k ∈ (t.token n).u.pend ↔ k ∈ t.u.pend ∨ (k = n ∧ n ≠ 0) := by
  unfold Thread.token Thread.addPend
  split
  · next h =>
    constructor
    · exact Or.inl
    · rintro (h1 | ⟨rfl, h1⟩)
      · exact h1
      · simp_all
  · next h =>
    by_cases hk : n ∈ t.u.pend
    · simp only [Thread.modU, List.contains_iff_mem, hk, if_true]
      exact ⟨Or.inl, fun e => e.elim id fun e => e.1 ▸ hk⟩
    · simp [Thread.modU, hk, h, or_comm]

/-- Untracked operations write no token (R188). -/
theorem Thread.tokenWrite_zero (t : Thread) (st n : Nat) (c : Cause) (d : BitVec 25) : t.tokenWrite 0 st n c d = t := rfl

/-- What an M operation does as it enters its queue: nothing outside the thread in focus changes (R408). -/
theorem State.mEnter_sameOutside (s : State) (re k : Bool) (i : Instr) (kind : MKind) (base addr : Word64) (token : Nat) (tile : Option Nat) (l : List Nat) :
    s.sameOutside (s.mEnter re k i kind base addr token tile l) :=
  ⟨rfl, rfl, fun _ h => Module.ctx_setCtx_ne s.now _ h, fun _ => rfl, rfl⟩

/-- A C0 store changes the thread in focus alone: its scratchpad, and the marks of its blocks (R439). -/
theorem State.c0Store_becomes (s : State) (o : Nat) (bs : List (Option Byte)) :
    s.becomes (fun t => (t.c0Put o bs).markDirty o bs.length) (s.c0Store o bs) := s.upd_becomes _

end Sys2Proof.Machine
end

