-- ==== Sys2Proof/Laws/PerInstr.lean ====
section
/-!
SUPPORT. A statement of every instruction as syntax: how long its encoding is. One lemma per constructor.
-/

set_option Elab.async false

namespace Sys2Proof.Laws

/-- The bundle that holds an operation alone is a whole number of 4-byte words, of at most 24 bytes; an event, and nothing else, has none (R304, R305). -/
def EncodedLength.Statement (i : Instr) : Prop :=
  (encode i).length % 4 = 0 ∧ (encode i).length ≤ 24 ∧ ((encode i).length = 0 ↔ Machine.isEvent i = true)

theorem leBytes_length (v n : Nat) : (Machine.leBytes v n).length = n := by
  induction n generalizing v with
  | zero => rfl
  | succ n ih => simp [Machine.leBytes, ih]

theorem encodedLength_syllable {y : Syl} {bs : List Byte} (h : bs = sylBundle y) :
    bs.length % 4 = 0 ∧ bs.length ≤ 24 ∧ bs.length ≠ 0 := by
  subst h
  simp only [sylBundle, List.length_append, leBytes_length]
  cases y.fam <;> cases y.ext <;> cases y.const <;> simp [sylBytes, leBytes_length, -List.length_eq_zero_iff]

theorem encodedLength_all (i : Instr) : EncodedLength.Statement i := by
  unfold EncodedLength.Statement encode Machine.isEvent
  split
  · simp [leBytes_length]
  · simp [leBytes_length]
  · split
    · next y h => have := encodedLength_syllable (y := y) rfl; simp [h, this]
    · next h => simp [h]

theorem EncodedLength.bootStep : ∀ x0, EncodedLength.Statement (.bootStep x0) := fun _ => encodedLength_all _
theorem EncodedLength.powerSample : ∀ x0 x1, EncodedLength.Statement (.powerSample x0 x1) := fun _ _ => encodedLength_all _
theorem EncodedLength.thermalSample : ∀ x0, EncodedLength.Statement (.thermalSample x0) := fun _ => encodedLength_all _
theorem EncodedLength.firmwareStage : ∀ x0, EncodedLength.Statement (.firmwareStage x0) := fun _ => encodedLength_all _
theorem EncodedLength.attestationRequest : ∀ x0, EncodedLength.Statement (.attestationRequest x0) := fun _ => encodedLength_all _
theorem EncodedLength.mailboxRequest : ∀ x0, EncodedLength.Statement (.mailboxRequest x0) := fun _ => encodedLength_all _
theorem EncodedLength.scrub : ∀ x0, EncodedLength.Statement (.scrub x0) := fun _ => encodedLength_all _
theorem EncodedLength.attest : ∀ x0, EncodedLength.Statement (.attest x0) := fun _ => encodedLength_all _
theorem EncodedLength.health : ∀ x0 x1 x2, EncodedLength.Statement (.health x0 x1 x2) := fun _ _ _ => encodedLength_all _
theorem EncodedLength.registerWrite : ∀ x0 x1 x2, EncodedLength.Statement (.registerWrite x0 x1 x2) := fun _ _ _ => encodedLength_all _
theorem EncodedLength.importEntryWrite : ∀ x0 x1 x2, EncodedLength.Statement (.importEntryWrite x0 x1 x2) := fun _ _ _ => encodedLength_all _
theorem EncodedLength.mcastSetv : ∀ x0, EncodedLength.Statement (.mcastSetv x0) := fun _ => encodedLength_all _
theorem EncodedLength.mcastClrv : ∀ x0, EncodedLength.Statement (.mcastClrv x0) := fun _ => encodedLength_all _
theorem EncodedLength.packetReceive : ∀ x0 x1 x2 x3, EncodedLength.Statement (.packetReceive x0 x1 x2 x3) := fun _ _ _ _ => encodedLength_all _
theorem EncodedLength.laneLoss : ∀ x0 x1, EncodedLength.Statement (.laneLoss x0 x1) := fun _ _ => encodedLength_all _
theorem EncodedLength.retrainComplete : ∀ x0, EncodedLength.Statement (.retrainComplete x0) := fun _ => encodedLength_all _
theorem EncodedLength.remoteRequest : ∀ x0 x1 x2 x3, EncodedLength.Statement (.remoteRequest x0 x1 x2 x3) := fun _ _ _ _ => encodedLength_all _
theorem EncodedLength.remoteTimeout : ∀ x0, EncodedLength.Statement (.remoteTimeout x0) := fun _ => encodedLength_all _
theorem EncodedLength.cellLoad : ∀ x0, EncodedLength.Statement (.cellLoad x0) := fun _ => encodedLength_all _
theorem EncodedLength.cellStore : ∀ x0, EncodedLength.Statement (.cellStore x0) := fun _ => encodedLength_all _
theorem EncodedLength.cellReconcile : ∀ x0, EncodedLength.Statement (.cellReconcile x0) := fun _ => encodedLength_all _
theorem EncodedLength.summaryMerge : ∀ x0, EncodedLength.Statement (.summaryMerge x0) := fun _ => encodedLength_all _
theorem EncodedLength.rescalingReduction : ∀ x0, EncodedLength.Statement (.rescalingReduction x0) := fun _ => encodedLength_all _
theorem EncodedLength.roundDelta : ∀ x0, EncodedLength.Statement (.roundDelta x0) := fun _ => encodedLength_all _
theorem EncodedLength.prepare : ∀ x0, EncodedLength.Statement (.prepare x0) := fun _ => encodedLength_all _
theorem EncodedLength.decide : ∀ x0, EncodedLength.Statement (.decide x0) := fun _ => encodedLength_all _
theorem EncodedLength.stateQuery : ∀ x0, EncodedLength.Statement (.stateQuery x0) := fun _ => encodedLength_all _
theorem EncodedLength.shareRequest : ∀ x0, EncodedLength.Statement (.shareRequest x0) := fun _ => encodedLength_all _
theorem EncodedLength.revoke : ∀ x0, EncodedLength.Statement (.revoke x0) := fun _ => encodedLength_all _
theorem EncodedLength.voteRequest : ∀ x0, EncodedLength.Statement (.voteRequest x0) := fun _ => encodedLength_all _
theorem EncodedLength.tunnelResponse : ∀ x0, EncodedLength.Statement (.tunnelResponse x0) := fun _ => encodedLength_all _
theorem EncodedLength.remotePostArrival : ∀ x0 x1 x2 x3, EncodedLength.Statement (.remotePostArrival x0 x1 x2 x3) := fun _ _ _ _ => encodedLength_all _
theorem EncodedLength.remoteReadDrop : ∀ x0, EncodedLength.Statement (.remoteReadDrop x0) := fun _ => encodedLength_all _
theorem EncodedLength.windowArrival : ∀ x0 x1 x2 x3, EncodedLength.Statement (.windowArrival x0 x1 x2 x3) := fun _ _ _ _ => encodedLength_all _
theorem EncodedLength.ringChunkArrival : ∀ x0 x1 x2 x3 x4 x5, EncodedLength.Statement (.ringChunkArrival x0 x1 x2 x3 x4 x5) := fun _ _ _ _ _ _ => encodedLength_all _
theorem EncodedLength.spillRefetch : ∀ x0 x1, EncodedLength.Statement (.spillRefetch x0 x1) := fun _ _ => encodedLength_all _
theorem EncodedLength.hostRequest : ∀ x0 x1, EncodedLength.Statement (.hostRequest x0 x1) := fun _ _ => encodedLength_all _
theorem EncodedLength.snoopComplete : ∀ x0 x1, EncodedLength.Statement (.snoopComplete x0 x1) := fun _ _ => encodedLength_all _
theorem EncodedLength.poolTimeout : ∀ x0 x1, EncodedLength.Statement (.poolTimeout x0 x1) := fun _ _ => encodedLength_all _
theorem EncodedLength.cqcfgWrite : ∀ x0 x1, EncodedLength.Statement (.cqcfgWrite x0 x1) := fun _ _ => encodedLength_all _
theorem EncodedLength.cqptrTailWrite : ∀ x0 x1, EncodedLength.Statement (.cqptrTailWrite x0 x1) := fun _ _ => encodedLength_all _
theorem EncodedLength.evcntWrite : ∀ x0 x1, EncodedLength.Statement (.evcntWrite x0 x1) := fun _ _ => encodedLength_all _
theorem EncodedLength.launch : ∀ x0 x1 x2, EncodedLength.Statement (.launch x0 x1 x2) := fun _ _ _ => encodedLength_all _
theorem EncodedLength.wait : ∀ x0 x1 x2 x3 x4 x5, EncodedLength.Statement (.wait x0 x1 x2 x3 x4 x5) := fun _ _ _ _ _ _ => encodedLength_all _
theorem EncodedLength.memoryCopy : ∀ x0 x1 x2 x3 x4, EncodedLength.Statement (.memoryCopy x0 x1 x2 x3 x4) := fun _ _ _ _ _ => encodedLength_all _
theorem EncodedLength.memoryFill : ∀ x0 x1 x2 x3 x4, EncodedLength.Statement (.memoryFill x0 x1 x2 x3 x4) := fun _ _ _ _ _ => encodedLength_all _
theorem EncodedLength.rdmaWrite : ∀ x0 x1 x2 x3 x4 x5 x6, EncodedLength.Statement (.rdmaWrite x0 x1 x2 x3 x4 x5 x6) := fun _ _ _ _ _ _ _ => encodedLength_all _
theorem EncodedLength.rdmaRead : ∀ x0 x1 x2 x3 x4 x5 x6, EncodedLength.Statement (.rdmaRead x0 x1 x2 x3 x4 x5 x6) := fun _ _ _ _ _ _ _ => encodedLength_all _
theorem EncodedLength.memoryComplete : ∀ x0 x1 x2 x3, EncodedLength.Statement (.memoryComplete x0 x1 x2 x3) := fun _ _ _ _ => encodedLength_all _
theorem EncodedLength.roundRopen : ∀ x0 x1 x2 x3, EncodedLength.Statement (.roundRopen x0 x1 x2 x3) := fun _ _ _ _ => encodedLength_all _
theorem EncodedLength.roundRprep : ∀ x0 x1 x2 x3, EncodedLength.Statement (.roundRprep x0 x1 x2 x3) := fun _ _ _ _ => encodedLength_all _
theorem EncodedLength.roundRcmt : ∀ x0 x1 x2 x3, EncodedLength.Statement (.roundRcmt x0 x1 x2 x3) := fun _ _ _ _ => encodedLength_all _
theorem EncodedLength.roundRrevoke : ∀ x0 x1 x2 x3, EncodedLength.Statement (.roundRrevoke x0 x1 x2 x3) := fun _ _ _ _ => encodedLength_all _
theorem EncodedLength.suspect : ∀ x0 x1 x2 x3, EncodedLength.Statement (.suspect x0 x1 x2 x3) := fun _ _ _ _ => encodedLength_all _
theorem EncodedLength.postAdd : ∀ x0 x1 x2 x3 x4, EncodedLength.Statement (.postAdd x0 x1 x2 x3 x4) := fun _ _ _ _ _ => encodedLength_all _
theorem EncodedLength.postMax : ∀ x0 x1 x2 x3 x4, EncodedLength.Statement (.postMax x0 x1 x2 x3 x4) := fun _ _ _ _ _ => encodedLength_all _
theorem EncodedLength.replayStart : ∀ x0 x1, EncodedLength.Statement (.replayStart x0 x1) := fun _ _ => encodedLength_all _
theorem EncodedLength.launchRestore : ∀ x0, EncodedLength.Statement (.launchRestore x0) := fun _ => encodedLength_all _
theorem EncodedLength.triggerComplete : ∀ x0, EncodedLength.Statement (.triggerComplete x0) := fun _ => encodedLength_all _
theorem EncodedLength.loadComplete : ∀ x0 x1, EncodedLength.Statement (.loadComplete x0 x1) := fun _ _ => encodedLength_all _
theorem EncodedLength.tokenWrite : ∀ x0 x1, EncodedLength.Statement (.tokenWrite x0 x1) := fun _ _ => encodedLength_all _
theorem EncodedLength.homeOperation : ∀ x0 x1, EncodedLength.Statement (.homeOperation x0 x1) := fun _ _ => encodedLength_all _
theorem EncodedLength.jobStart : ∀ x0 x1, EncodedLength.Statement (.jobStart x0 x1) := fun _ _ => encodedLength_all _
theorem EncodedLength.jobComplete : ∀ x0 x1, EncodedLength.Statement (.jobComplete x0 x1) := fun _ _ => encodedLength_all _
theorem EncodedLength.notify : ∀ x0, EncodedLength.Statement (.notify x0) := fun _ => encodedLength_all _
theorem EncodedLength.fend : ∀ x0 x1, EncodedLength.Statement (.fend x0 x1) := fun _ _ => encodedLength_all _
theorem EncodedLength.tableWalk : ∀ x0 x1 x2, EncodedLength.Statement (.tableWalk x0 x1 x2) := fun _ _ _ => encodedLength_all _
theorem EncodedLength.pfansRetry : ∀ x0, EncodedLength.Statement (.pfansRetry x0) := fun _ => encodedLength_all _
theorem EncodedLength.pfansNomap : ∀ x0, EncodedLength.Statement (.pfansNomap x0) := fun _ => encodedLength_all _
theorem EncodedLength.pfansDeny : ∀ x0, EncodedLength.Statement (.pfansDeny x0) := fun _ => encodedLength_all _
theorem EncodedLength.regionFillComplete : ∀ x0 x1, EncodedLength.Statement (.regionFillComplete x0 x1) := fun _ _ => encodedLength_all _
theorem EncodedLength.invalidate : ∀ x0, EncodedLength.Statement (.invalidate x0) := fun _ => encodedLength_all _
theorem EncodedLength.migrate : ∀ x0, EncodedLength.Statement (.migrate x0) := fun _ => encodedLength_all _
theorem EncodedLength.pin : ∀ x0, EncodedLength.Statement (.pin x0) := fun _ => encodedLength_all _
theorem EncodedLength.unpin : ∀ x0, EncodedLength.Statement (.unpin x0) := fun _ => encodedLength_all _
theorem EncodedLength.admitMember : ∀ x0 x1, EncodedLength.Statement (.admitMember x0 x1) := fun _ _ => encodedLength_all _
theorem EncodedLength.lineRepair : ∀ x0 x1 x2, EncodedLength.Statement (.lineRepair x0 x1 x2) := fun _ _ _ => encodedLength_all _
theorem EncodedLength.gregWrite : ∀ x0 x1 x2 x3, EncodedLength.Statement (.gregWrite x0 x1 x2 x3) := fun _ _ _ _ => encodedLength_all _
theorem EncodedLength.add : ∀ x0 x1 x2, EncodedLength.Statement (.add x0 x1 x2) := fun _ _ _ => encodedLength_all _
theorem EncodedLength.addi : ∀ x0 x1 x2, EncodedLength.Statement (.addi x0 x1 x2) := fun _ _ _ => encodedLength_all _
theorem EncodedLength.sub : ∀ x0 x1 x2, EncodedLength.Statement (.sub x0 x1 x2) := fun _ _ _ => encodedLength_all _
theorem EncodedLength.mul : ∀ x0 x1 x2, EncodedLength.Statement (.mul x0 x1 x2) := fun _ _ _ => encodedLength_all _
theorem EncodedLength.mulh : ∀ x0 x1 x2 x3, EncodedLength.Statement (.mulh x0 x1 x2 x3) := fun _ _ _ _ => encodedLength_all _
theorem EncodedLength.div : ∀ x0 x1 x2 x3, EncodedLength.Statement (.div x0 x1 x2 x3) := fun _ _ _ _ => encodedLength_all _
theorem EncodedLength.rem : ∀ x0 x1 x2 x3, EncodedLength.Statement (.rem x0 x1 x2 x3) := fun _ _ _ _ => encodedLength_all _
theorem EncodedLength.and : ∀ x0 x1 x2, EncodedLength.Statement (.and x0 x1 x2) := fun _ _ _ => encodedLength_all _
theorem EncodedLength.or : ∀ x0 x1 x2, EncodedLength.Statement (.or x0 x1 x2) := fun _ _ _ => encodedLength_all _
theorem EncodedLength.xor : ∀ x0 x1 x2, EncodedLength.Statement (.xor x0 x1 x2) := fun _ _ _ => encodedLength_all _
theorem EncodedLength.andn : ∀ x0 x1 x2, EncodedLength.Statement (.andn x0 x1 x2) := fun _ _ _ => encodedLength_all _
theorem EncodedLength.shlReg : ∀ x0 x1 x2, EncodedLength.Statement (.shlReg x0 x1 x2) := fun _ _ _ => encodedLength_all _
theorem EncodedLength.shlImm : ∀ x0 x1 x2, EncodedLength.Statement (.shlImm x0 x1 x2) := fun _ _ _ => encodedLength_all _
theorem EncodedLength.shrReg : ∀ x0 x1 x2, EncodedLength.Statement (.shrReg x0 x1 x2) := fun _ _ _ => encodedLength_all _
theorem EncodedLength.shrImm : ∀ x0 x1 x2, EncodedLength.Statement (.shrImm x0 x1 x2) := fun _ _ _ => encodedLength_all _
theorem EncodedLength.shaReg : ∀ x0 x1 x2, EncodedLength.Statement (.shaReg x0 x1 x2) := fun _ _ _ => encodedLength_all _
theorem EncodedLength.shaImm : ∀ x0 x1 x2, EncodedLength.Statement (.shaImm x0 x1 x2) := fun _ _ _ => encodedLength_all _
theorem EncodedLength.rotlReg : ∀ x0 x1 x2, EncodedLength.Statement (.rotlReg x0 x1 x2) := fun _ _ _ => encodedLength_all _
theorem EncodedLength.rotlImm : ∀ x0 x1 x2, EncodedLength.Statement (.rotlImm x0 x1 x2) := fun _ _ _ => encodedLength_all _
theorem EncodedLength.clz : ∀ x0 x1, EncodedLength.Statement (.clz x0 x1) := fun _ _ => encodedLength_all _
theorem EncodedLength.ctz : ∀ x0 x1, EncodedLength.Statement (.ctz x0 x1) := fun _ _ => encodedLength_all _
theorem EncodedLength.popc : ∀ x0 x1, EncodedLength.Statement (.popc x0 x1) := fun _ _ => encodedLength_all _
theorem EncodedLength.min : ∀ x0 x1 x2 x3, EncodedLength.Statement (.min x0 x1 x2 x3) := fun _ _ _ _ => encodedLength_all _
theorem EncodedLength.max : ∀ x0 x1 x2 x3, EncodedLength.Statement (.max x0 x1 x2 x3) := fun _ _ _ _ => encodedLength_all _
theorem EncodedLength.cmp : ∀ x0 x1 x2 x3, EncodedLength.Statement (.cmp x0 x1 x2 x3) := fun _ _ _ _ => encodedLength_all _
theorem EncodedLength.sel : ∀ x0 x1 x2 x3, EncodedLength.Statement (.sel x0 x1 x2 x3) := fun _ _ _ _ => encodedLength_all _
theorem EncodedLength.li : ∀ x0 x1, EncodedLength.Statement (.li x0 x1) := fun _ _ => encodedLength_all _
theorem EncodedLength.mov : ∀ x0 x1, EncodedLength.Statement (.mov x0 x1) := fun _ _ => encodedLength_all _
theorem EncodedLength.sext : ∀ x0 x1 x2, EncodedLength.Statement (.sext x0 x1 x2) := fun _ _ _ => encodedLength_all _
theorem EncodedLength.zext : ∀ x0 x1 x2, EncodedLength.Statement (.zext x0 x1 x2) := fun _ _ _ => encodedLength_all _
theorem EncodedLength.bfx : ∀ x0 x1 x2 x3, EncodedLength.Statement (.bfx x0 x1 x2 x3) := fun _ _ _ _ => encodedLength_all _
theorem EncodedLength.bfi : ∀ x0 x1 x2 x3, EncodedLength.Statement (.bfi x0 x1 x2 x3) := fun _ _ _ _ => encodedLength_all _
theorem EncodedLength.lea : ∀ x0 x1 x2 x3, EncodedLength.Statement (.lea x0 x1 x2 x3) := fun _ _ _ _ => encodedLength_all _
theorem EncodedLength.cvta : ∀ x0 x1 x2 x3, EncodedLength.Statement (.cvta x0 x1 x2 x3) := fun _ _ _ _ => encodedLength_all _
theorem EncodedLength.isap : ∀ x0 x1 x2, EncodedLength.Statement (.isap x0 x1 x2) := fun _ _ _ => encodedLength_all _
theorem EncodedLength.ld : ∀ x0 x1 x2 x3 x4, EncodedLength.Statement (.ld x0 x1 x2 x3 x4) := fun _ _ _ _ _ => encodedLength_all _
theorem EncodedLength.st : ∀ x0 x1 x2 x3, EncodedLength.Statement (.st x0 x1 x2 x3) := fun _ _ _ _ => encodedLength_all _
theorem EncodedLength.br : ∀ x0, EncodedLength.Statement (.br x0) := fun _ => encodedLength_all _
theorem EncodedLength.brcEq : ∀ x0 x1, EncodedLength.Statement (.brcEq x0 x1) := fun _ _ => encodedLength_all _
theorem EncodedLength.brcNe : ∀ x0 x1, EncodedLength.Statement (.brcNe x0 x1) := fun _ _ => encodedLength_all _
theorem EncodedLength.call : ∀ x0 x1, EncodedLength.Statement (.call x0 x1) := fun _ _ => encodedLength_all _
theorem EncodedLength.ret : ∀ x0, EncodedLength.Statement (.ret x0) := fun _ => encodedLength_all _
theorem EncodedLength.jr : ∀ x0, EncodedLength.Statement (.jr x0) := fun _ => encodedLength_all _
theorem EncodedLength.loopImm : ∀ x0 x1, EncodedLength.Statement (.loopImm x0 x1) := fun _ _ => encodedLength_all _
theorem EncodedLength.loopReg : ∀ x0 x1, EncodedLength.Statement (.loopReg x0 x1) := fun _ _ => encodedLength_all _
theorem EncodedLength.join : ∀ x0 x1, EncodedLength.Statement (.join x0 x1) := fun _ _ => encodedLength_all _
theorem EncodedLength.leave : ∀ x0, EncodedLength.Statement (.leave x0) := fun _ => encodedLength_all _
theorem EncodedLength.cbar : ∀ x0, EncodedLength.Statement (.cbar x0) := fun _ => encodedLength_all _
theorem EncodedLength.carr : ∀ x0 x1, EncodedLength.Statement (.carr x0 x1) := fun _ _ => encodedLength_all _
theorem EncodedLength.cwait : ∀ x0 x1, EncodedLength.Statement (.cwait x0 x1) := fun _ _ => encodedLength_all _
theorem EncodedLength.waitf : ∀ x0 x1 x2 x3, EncodedLength.Statement (.waitf x0 x1 x2 x3) := fun _ _ _ _ => encodedLength_all _
theorem EncodedLength.waitt : ∀ x0, EncodedLength.Statement (.waitt x0) := fun _ => encodedLength_all _
theorem EncodedLength.fence : ∀ x0 x1, EncodedLength.Statement (.fence x0 x1) := fun _ _ => encodedLength_all _
theorem EncodedLength.csrr : ∀ x0 x1, EncodedLength.Statement (.csrr x0 x1) := fun _ _ => encodedLength_all _
theorem EncodedLength.csrw : ∀ x0 x1, EncodedLength.Statement (.csrw x0 x1) := fun _ _ => encodedLength_all _
theorem EncodedLength.csrx : ∀ x0 x1 x2, EncodedLength.Statement (.csrx x0 x1 x2) := fun _ _ _ => encodedLength_all _
theorem EncodedLength.trap : ∀ x0, EncodedLength.Statement (.trap x0) := fun _ => encodedLength_all _
theorem EncodedLength.ovtld : ∀ x0 x1, EncodedLength.Statement (.ovtld x0 x1) := fun _ _ => encodedLength_all _
theorem EncodedLength.ropen : ∀ x0 x1 x2, EncodedLength.Statement (.ropen x0 x1 x2) := fun _ _ _ => encodedLength_all _
theorem EncodedLength.rprep : ∀ x0 x1, EncodedLength.Statement (.rprep x0 x1) := fun _ _ => encodedLength_all _
theorem EncodedLength.rcmt : ∀ x0 x1, EncodedLength.Statement (.rcmt x0 x1) := fun _ _ => encodedLength_all _
theorem EncodedLength.rstat : ∀ x0 x1 x2, EncodedLength.Statement (.rstat x0 x1 x2) := fun _ _ _ => encodedLength_all _
theorem EncodedLength.rrevoke : ∀ x0 x1 x2, EncodedLength.Statement (.rrevoke x0 x1 x2) := fun _ _ _ => encodedLength_all _
theorem EncodedLength.protr : ∀ x0 x1 x2 x3, EncodedLength.Statement (.protr x0 x1 x2 x3) := fun _ _ _ _ => encodedLength_all _
theorem EncodedLength.vadd : ∀ x0 x1 x2 x3 x4 x5, EncodedLength.Statement (.vadd x0 x1 x2 x3 x4 x5) := fun _ _ _ _ _ _ => encodedLength_all _
theorem EncodedLength.vsub : ∀ x0 x1 x2 x3 x4 x5, EncodedLength.Statement (.vsub x0 x1 x2 x3 x4 x5) := fun _ _ _ _ _ _ => encodedLength_all _
theorem EncodedLength.vmul : ∀ x0 x1 x2 x3 x4 x5, EncodedLength.Statement (.vmul x0 x1 x2 x3 x4 x5) := fun _ _ _ _ _ _ => encodedLength_all _
theorem EncodedLength.vfma : ∀ x0 x1 x2 x3 x4 x5 x6, EncodedLength.Statement (.vfma x0 x1 x2 x3 x4 x5 x6) := fun _ _ _ _ _ _ _ => encodedLength_all _
theorem EncodedLength.vfms : ∀ x0 x1 x2 x3 x4 x5 x6, EncodedLength.Statement (.vfms x0 x1 x2 x3 x4 x5 x6) := fun _ _ _ _ _ _ _ => encodedLength_all _
theorem EncodedLength.vmin : ∀ x0 x1 x2 x3 x4 x5, EncodedLength.Statement (.vmin x0 x1 x2 x3 x4 x5) := fun _ _ _ _ _ _ => encodedLength_all _
theorem EncodedLength.vmax : ∀ x0 x1 x2 x3 x4 x5, EncodedLength.Statement (.vmax x0 x1 x2 x3 x4 x5) := fun _ _ _ _ _ _ => encodedLength_all _
theorem EncodedLength.vabs : ∀ x0 x1 x2 x3 x4, EncodedLength.Statement (.vabs x0 x1 x2 x3 x4) := fun _ _ _ _ _ => encodedLength_all _
theorem EncodedLength.vneg : ∀ x0 x1 x2 x3 x4, EncodedLength.Statement (.vneg x0 x1 x2 x3 x4) := fun _ _ _ _ _ => encodedLength_all _
theorem EncodedLength.vrnd : ∀ x0 x1 x2 x3 x4 x5, EncodedLength.Statement (.vrnd x0 x1 x2 x3 x4 x5) := fun _ _ _ _ _ _ => encodedLength_all _
theorem EncodedLength.vcmp : ∀ x0 x1 x2 x3 x4 x5 x6, EncodedLength.Statement (.vcmp x0 x1 x2 x3 x4 x5 x6) := fun _ _ _ _ _ _ _ => encodedLength_all _
theorem EncodedLength.vsel : ∀ x0 x1 x2 x3 x4 x5, EncodedLength.Statement (.vsel x0 x1 x2 x3 x4 x5) := fun _ _ _ _ _ _ => encodedLength_all _
theorem EncodedLength.pand : ∀ x0 x1 x2, EncodedLength.Statement (.pand x0 x1 x2) := fun _ _ _ => encodedLength_all _
theorem EncodedLength.por : ∀ x0 x1 x2, EncodedLength.Statement (.por x0 x1 x2) := fun _ _ _ => encodedLength_all _
theorem EncodedLength.pxor : ∀ x0 x1 x2, EncodedLength.Statement (.pxor x0 x1 x2) := fun _ _ _ => encodedLength_all _
theorem EncodedLength.pnot : ∀ x0 x1, EncodedLength.Statement (.pnot x0 x1) := fun _ _ => encodedLength_all _
theorem EncodedLength.pcnt : ∀ x0 x1, EncodedLength.Statement (.pcnt x0 x1) := fun _ _ => encodedLength_all _
theorem EncodedLength.viadd : ∀ x0 x1 x2 x3 x4 x5 x6, EncodedLength.Statement (.viadd x0 x1 x2 x3 x4 x5 x6) := fun _ _ _ _ _ _ _ => encodedLength_all _
theorem EncodedLength.visub : ∀ x0 x1 x2 x3 x4 x5 x6, EncodedLength.Statement (.visub x0 x1 x2 x3 x4 x5 x6) := fun _ _ _ _ _ _ _ => encodedLength_all _
theorem EncodedLength.vimul : ∀ x0 x1 x2 x3 x4 x5 x6, EncodedLength.Statement (.vimul x0 x1 x2 x3 x4 x5 x6) := fun _ _ _ _ _ _ _ => encodedLength_all _
theorem EncodedLength.vimad : ∀ x0 x1 x2 x3 x4 x5 x6 x7, EncodedLength.Statement (.vimad x0 x1 x2 x3 x4 x5 x6 x7) := fun _ _ _ _ _ _ _ _ => encodedLength_all _
theorem EncodedLength.vshl : ∀ x0 x1 x2 x3 x4 x5, EncodedLength.Statement (.vshl x0 x1 x2 x3 x4 x5) := fun _ _ _ _ _ _ => encodedLength_all _
theorem EncodedLength.vshr : ∀ x0 x1 x2 x3 x4 x5, EncodedLength.Statement (.vshr x0 x1 x2 x3 x4 x5) := fun _ _ _ _ _ _ => encodedLength_all _
theorem EncodedLength.vsha : ∀ x0 x1 x2 x3 x4 x5, EncodedLength.Statement (.vsha x0 x1 x2 x3 x4 x5) := fun _ _ _ _ _ _ => encodedLength_all _
theorem EncodedLength.vand : ∀ x0 x1 x2 x3 x4 x5, EncodedLength.Statement (.vand x0 x1 x2 x3 x4 x5) := fun _ _ _ _ _ _ => encodedLength_all _
theorem EncodedLength.vor : ∀ x0 x1 x2 x3 x4 x5, EncodedLength.Statement (.vor x0 x1 x2 x3 x4 x5) := fun _ _ _ _ _ _ => encodedLength_all _
theorem EncodedLength.vxor : ∀ x0 x1 x2 x3 x4 x5, EncodedLength.Statement (.vxor x0 x1 x2 x3 x4 x5) := fun _ _ _ _ _ _ => encodedLength_all _
theorem EncodedLength.vimin : ∀ x0 x1 x2 x3 x4 x5, EncodedLength.Statement (.vimin x0 x1 x2 x3 x4 x5) := fun _ _ _ _ _ _ => encodedLength_all _
theorem EncodedLength.vimax : ∀ x0 x1 x2 x3 x4 x5, EncodedLength.Statement (.vimax x0 x1 x2 x3 x4 x5) := fun _ _ _ _ _ _ => encodedLength_all _
theorem EncodedLength.vexp2 : ∀ x0 x1 x2 x3 x4, EncodedLength.Statement (.vexp2 x0 x1 x2 x3 x4) := fun _ _ _ _ _ => encodedLength_all _
theorem EncodedLength.vlog2 : ∀ x0 x1 x2 x3 x4, EncodedLength.Statement (.vlog2 x0 x1 x2 x3 x4) := fun _ _ _ _ _ => encodedLength_all _
theorem EncodedLength.vrcp : ∀ x0 x1 x2 x3 x4, EncodedLength.Statement (.vrcp x0 x1 x2 x3 x4) := fun _ _ _ _ _ => encodedLength_all _
theorem EncodedLength.vrsq : ∀ x0 x1 x2 x3 x4, EncodedLength.Statement (.vrsq x0 x1 x2 x3 x4) := fun _ _ _ _ _ => encodedLength_all _
theorem EncodedLength.vtanh : ∀ x0 x1 x2 x3 x4, EncodedLength.Statement (.vtanh x0 x1 x2 x3 x4) := fun _ _ _ _ _ => encodedLength_all _
theorem EncodedLength.vcvt : ∀ x0 x1 x2 x3 x4 x5 x6, EncodedLength.Statement (.vcvt x0 x1 x2 x3 x4 x5 x6) := fun _ _ _ _ _ _ _ => encodedLength_all _
theorem EncodedLength.vpacksx : ∀ x0 x1 x2 x3 x4 x5 x6 x7, EncodedLength.Statement (.vpacksx x0 x1 x2 x3 x4 x5 x6 x7) := fun _ _ _ _ _ _ _ _ => encodedLength_all _
theorem EncodedLength.vunpk : ∀ x0 x1 x2 x3 x4, EncodedLength.Statement (.vunpk x0 x1 x2 x3 x4) := fun _ _ _ _ _ => encodedLength_all _
theorem EncodedLength.vperm : ∀ x0 x1 x2 x3 x4, EncodedLength.Statement (.vperm x0 x1 x2 x3 x4) := fun _ _ _ _ _ => encodedLength_all _
theorem EncodedLength.vbcast : ∀ x0 x1 x2 x3 x4, EncodedLength.Statement (.vbcast x0 x1 x2 x3 x4) := fun _ _ _ _ _ => encodedLength_all _
theorem EncodedLength.vmovsExtract : ∀ x0 x1 x2 x3 x4, EncodedLength.Statement (.vmovsExtract x0 x1 x2 x3 x4) := fun _ _ _ _ _ => encodedLength_all _
theorem EncodedLength.vmovsInsert : ∀ x0 x1 x2 x3 x4, EncodedLength.Statement (.vmovsInsert x0 x1 x2 x3 x4) := fun _ _ _ _ _ => encodedLength_all _
theorem EncodedLength.vmovv : ∀ x0 x1 x2 x3, EncodedLength.Statement (.vmovv x0 x1 x2 x3) := fun _ _ _ _ => encodedLength_all _
theorem EncodedLength.viota : ∀ x0 x1 x2 x3 x4, EncodedLength.Statement (.viota x0 x1 x2 x3 x4) := fun _ _ _ _ _ => encodedLength_all _
theorem EncodedLength.vreds : ∀ x0 x1 x2 x3 x4 x5, EncodedLength.Statement (.vreds x0 x1 x2 x3 x4 x5) := fun _ _ _ _ _ _ => encodedLength_all _
theorem EncodedLength.skqin : ∀ x0 x1 x2 x3 x4, EncodedLength.Statement (.skqin x0 x1 x2 x3 x4) := fun _ _ _ _ _ => encodedLength_all _
theorem EncodedLength.skhin : ∀ x0 x1 x2 x3 x4, EncodedLength.Statement (.skhin x0 x1 x2 x3 x4) := fun _ _ _ _ _ => encodedLength_all _
theorem EncodedLength.skdin : ∀ x0 x1 x2 x3 x4, EncodedLength.Statement (.skdin x0 x1 x2 x3 x4) := fun _ _ _ _ _ => encodedLength_all _
theorem EncodedLength.skmrg : ∀ x0 x1, EncodedLength.Statement (.skmrg x0 x1) := fun _ _ => encodedLength_all _
theorem EncodedLength.skqry : ∀ x0 x1 x2, EncodedLength.Statement (.skqry x0 x1 x2) := fun _ _ _ => encodedLength_all _
theorem EncodedLength.skrnk : ∀ x0 x1 x2, EncodedLength.Statement (.skrnk x0 x1 x2) := fun _ _ _ => encodedLength_all _
theorem EncodedLength.skest : ∀ x0 x1 x2 x3, EncodedLength.Statement (.skest x0 x1 x2 x3) := fun _ _ _ _ => encodedLength_all _
theorem EncodedLength.sktop : ∀ x0 x1 x2 x3, EncodedLength.Statement (.sktop x0 x1 x2 x3) := fun _ _ _ _ => encodedLength_all _
theorem EncodedLength.skclr : ∀ x0 x1, EncodedLength.Statement (.skclr x0 x1) := fun _ _ => encodedLength_all _
theorem EncodedLength.mma : ∀ x0 x1 x2 x3 x4 x5 x6, EncodedLength.Statement (.mma x0 x1 x2 x3 x4 x5 x6) := fun _ _ _ _ _ _ _ => encodedLength_all _
theorem EncodedLength.mmag : ∀ x0 x1 x2 x3 x4 x5 x6 x7, EncodedLength.Statement (.mmag x0 x1 x2 x3 x4 x5 x6 x7) := fun _ _ _ _ _ _ _ _ => encodedLength_all _
theorem EncodedLength.mzero : ∀ x0, EncodedLength.Statement (.mzero x0) := fun _ => encodedLength_all _
theorem EncodedLength.mdrainScratchpad : ∀ x0 x1 x2 x3 x4 x5 x6 x7 x8, EncodedLength.Statement (.mdrainScratchpad x0 x1 x2 x3 x4 x5 x6 x7 x8) := fun _ _ _ _ _ _ _ _ _ => encodedLength_all _
theorem EncodedLength.mdrainGeneric : ∀ x0 x1 x2 x3 x4 x5 x6 x7 x8, EncodedLength.Statement (.mdrainGeneric x0 x1 x2 x3 x4 x5 x6 x7 x8) := fun _ _ _ _ _ _ _ _ _ => encodedLength_all _
theorem EncodedLength.mldaccScratchpad : ∀ x0 x1 x2 x3, EncodedLength.Statement (.mldaccScratchpad x0 x1 x2 x3) := fun _ _ _ _ => encodedLength_all _
theorem EncodedLength.mldaccGeneric : ∀ x0 x1 x2 x3, EncodedLength.Statement (.mldaccGeneric x0 x1 x2 x3) := fun _ _ _ _ => encodedLength_all _
theorem EncodedLength.mrcfg : ∀ x0 x1 x2, EncodedLength.Statement (.mrcfg x0 x1 x2) := fun _ _ _ => encodedLength_all _
theorem EncodedLength.mrpush : ∀ x0 x1, EncodedLength.Statement (.mrpush x0 x1) := fun _ _ => encodedLength_all _
theorem EncodedLength.mrpop : ∀ x0, EncodedLength.Statement (.mrpop x0) := fun _ => encodedLength_all _
theorem EncodedLength.mkat : ∀ x0, EncodedLength.Statement (.mkat x0) := fun _ => encodedLength_all _
theorem EncodedLength.mkcmp : ∀ x0 x1, EncodedLength.Statement (.mkcmp x0 x1) := fun _ _ => encodedLength_all _
theorem EncodedLength.mwait : ∀ x0, EncodedLength.Statement (.mwait x0) := fun _ => encodedLength_all _
theorem EncodedLength.spld : ∀ x0 x1 x2 x3 x4, EncodedLength.Statement (.spld x0 x1 x2 x3 x4) := fun _ _ _ _ _ => encodedLength_all _
theorem EncodedLength.spst : ∀ x0 x1 x2 x3 x4, EncodedLength.Statement (.spst x0 x1 x2 x3 x4) := fun _ _ _ _ _ => encodedLength_all _
theorem EncodedLength.splds : ∀ x0 x1 x2 x3, EncodedLength.Statement (.splds x0 x1 x2 x3) := fun _ _ _ _ => encodedLength_all _
theorem EncodedLength.spldp : ∀ x0 x1 x2 x3 x4 x5, EncodedLength.Statement (.spldp x0 x1 x2 x3 x4 x5) := fun _ _ _ _ _ _ => encodedLength_all _
theorem EncodedLength.spstp : ∀ x0 x1 x2 x3 x4 x5, EncodedLength.Statement (.spstp x0 x1 x2 x3 x4 x5) := fun _ _ _ _ _ _ => encodedLength_all _
theorem EncodedLength.skld : ∀ x0 x1 x2, EncodedLength.Statement (.skld x0 x1 x2) := fun _ _ _ => encodedLength_all _
theorem EncodedLength.skst : ∀ x0 x1 x2, EncodedLength.Statement (.skst x0 x1 x2) := fun _ _ _ => encodedLength_all _
theorem EncodedLength.spfill : ∀ x0 x1 x2, EncodedLength.Statement (.spfill x0 x1 x2) := fun _ _ _ => encodedLength_all _
theorem EncodedLength.spmap : ∀ x0 x1 x2, EncodedLength.Statement (.spmap x0 x1 x2) := fun _ _ _ => encodedLength_all _
theorem EncodedLength.spsyncOne : ∀ x0, EncodedLength.Statement (.spsyncOne x0) := fun _ => encodedLength_all _
theorem EncodedLength.spadd : ∀ x0 x1 x2 x3 x4 x5, EncodedLength.Statement (.spadd x0 x1 x2 x3 x4 x5) := fun _ _ _ _ _ _ => encodedLength_all _
theorem EncodedLength.cpy : ∀ x0 x1 x2, EncodedLength.Statement (.cpy x0 x1 x2) := fun _ _ _ => encodedLength_all _
theorem EncodedLength.cpyr : ∀ x0 x1 x2 x3, EncodedLength.Statement (.cpyr x0 x1 x2 x3) := fun _ _ _ _ => encodedLength_all _
theorem EncodedLength.gath : ∀ x0 x1 x2, EncodedLength.Statement (.gath x0 x1 x2) := fun _ _ _ => encodedLength_all _
theorem EncodedLength.scat : ∀ x0 x1 x2, EncodedLength.Statement (.scat x0 x1 x2) := fun _ _ _ => encodedLength_all _
theorem EncodedLength.rld : ∀ x0 x1 x2 x3 x4 x5 x6, EncodedLength.Statement (.rld x0 x1 x2 x3 x4 x5 x6) := fun _ _ _ _ _ _ _ => encodedLength_all _
theorem EncodedLength.rst : ∀ x0 x1 x2 x3 x4 x5, EncodedLength.Statement (.rst x0 x1 x2 x3 x4 x5) := fun _ _ _ _ _ _ => encodedLength_all _
theorem EncodedLength.rldt : ∀ x0 x1 x2 x3 x4, EncodedLength.Statement (.rldt x0 x1 x2 x3 x4) := fun _ _ _ _ _ => encodedLength_all _
theorem EncodedLength.amo : ∀ x0 x1 x2 x3 x4 x5 x6 x7 x8, EncodedLength.Statement (.amo x0 x1 x2 x3 x4 x5 x6 x7 x8) := fun _ _ _ _ _ _ _ _ _ => encodedLength_all _
theorem EncodedLength.amoRsc : ∀ x0 x1 x2 x3 x4 x5 x6, EncodedLength.Statement (.amoRsc x0 x1 x2 x3 x4 x5 x6) := fun _ _ _ _ _ _ _ => encodedLength_all _
theorem EncodedLength.skamo : ∀ x0 x1 x2 x3 x4, EncodedLength.Statement (.skamo x0 x1 x2 x3 x4) := fun _ _ _ _ _ => encodedLength_all _
theorem EncodedLength.cld : ∀ x0 x1 x2 x3 x4, EncodedLength.Statement (.cld x0 x1 x2 x3 x4) := fun _ _ _ _ _ => encodedLength_all _
theorem EncodedLength.cst : ∀ x0 x1 x2 x3 x4 x5, EncodedLength.Statement (.cst x0 x1 x2 x3 x4 x5) := fun _ _ _ _ _ _ => encodedLength_all _
theorem EncodedLength.crcn : ∀ x0 x1 x2 x3 x4 x5, EncodedLength.Statement (.crcn x0 x1 x2 x3 x4 x5) := fun _ _ _ _ _ _ => encodedLength_all _
theorem EncodedLength.mcast : ∀ x0 x1 x2 x3, EncodedLength.Statement (.mcast x0 x1 x2 x3) := fun _ _ _ _ => encodedLength_all _
theorem EncodedLength.coll : ∀ x0 x1, EncodedLength.Statement (.coll x0 x1) := fun _ _ => encodedLength_all _
theorem EncodedLength.pfetch : ∀ x0 x1 x2, EncodedLength.Statement (.pfetch x0 x1 x2) := fun _ _ _ => encodedLength_all _
theorem EncodedLength.pureRepeat : ∀ x0 x1, EncodedLength.Statement (.pureRepeat x0 x1) := fun _ _ => encodedLength_all _
theorem EncodedLength.brk : ∀ x0, EncodedLength.Statement (.brk x0) := fun _ => encodedLength_all _
theorem EncodedLength.timedLoadDataArrival : ∀ x0 x1, EncodedLength.Statement (.timedLoadDataArrival x0 x1) := fun _ _ => encodedLength_all _
theorem EncodedLength.knownAnswerSweepComplete : ∀ x0 x1, EncodedLength.Statement (.knownAnswerSweepComplete x0 x1) := fun _ _ => encodedLength_all _
theorem EncodedLength.nrptrHeadWrite : ∀ x0, EncodedLength.Statement (.nrptrHeadWrite x0) := fun _ => encodedLength_all _
theorem EncodedLength.pageFaultRingHeadWrite : ∀ x0 x1, EncodedLength.Statement (.pageFaultRingHeadWrite x0 x1) := fun _ _ => encodedLength_all _
theorem EncodedLength.rdmaRequestArrival : ∀ x0 x1, EncodedLength.Statement (.rdmaRequestArrival x0 x1) := fun _ _ => encodedLength_all _
theorem EncodedLength.colspillWrite : ∀ x0, EncodedLength.Statement (.colspillWrite x0) := fun _ => encodedLength_all _
theorem EncodedLength.powerOn : EncodedLength.Statement .powerOn := encodedLength_all _
theorem EncodedLength.coldResetRequest : EncodedLength.Statement .coldResetRequest := encodedLength_all _
theorem EncodedLength.warmReset : EncodedLength.Statement .warmReset := encodedLength_all _
theorem EncodedLength.powerFaultClear : EncodedLength.Statement .powerFaultClear := encodedLength_all _
theorem EncodedLength.powerUpRequest : EncodedLength.Statement .powerUpRequest := encodedLength_all _
theorem EncodedLength.shutdownHoldExpiry : EncodedLength.Statement .shutdownHoldExpiry := encodedLength_all _
theorem EncodedLength.telemetryRead : EncodedLength.Statement .telemetryRead := encodedLength_all _
theorem EncodedLength.eventLogRead : EncodedLength.Statement .eventLogRead := encodedLength_all _
theorem EncodedLength.releaseRequest : EncodedLength.Statement .releaseRequest := encodedLength_all _
theorem EncodedLength.assign : EncodedLength.Statement .assign := encodedLength_all _
theorem EncodedLength.release : EncodedLength.Statement .release := encodedLength_all _
theorem EncodedLength.tenancyBoundOverrun : EncodedLength.Statement .tenancyBoundOverrun := encodedLength_all _
theorem EncodedLength.mccmdComplete : EncodedLength.Statement .mccmdComplete := encodedLength_all _
theorem EncodedLength.biTimeout : EncodedLength.Statement .biTimeout := encodedLength_all _
theorem EncodedLength.hostLinkDown : EncodedLength.Statement .hostLinkDown := encodedLength_all _
theorem EncodedLength.poolLinkDown : EncodedLength.Statement .poolLinkDown := encodedLength_all _
theorem EncodedLength.queueStop : EncodedLength.Statement .queueStop := encodedLength_all _
theorem EncodedLength.queueResume : EncodedLength.Statement .queueResume := encodedLength_all _
theorem EncodedLength.queueDiscard : EncodedLength.Statement .queueDiscard := encodedLength_all _
theorem EncodedLength.commandTake : EncodedLength.Statement .commandTake := encodedLength_all _
theorem EncodedLength.waitSatisfied : EncodedLength.Statement .waitSatisfied := encodedLength_all _
theorem EncodedLength.replayDone : EncodedLength.Statement .replayDone := encodedLength_all _
theorem EncodedLength.launchPlace : EncodedLength.Statement .launchPlace := encodedLength_all _
theorem EncodedLength.contextSave : EncodedLength.Statement .contextSave := encodedLength_all _
theorem EncodedLength.shadowPlace : EncodedLength.Statement .shadowPlace := encodedLength_all _
theorem EncodedLength.bankSwitch : EncodedLength.Statement .bankSwitch := encodedLength_all _
theorem EncodedLength.bankExchangeComplete : EncodedLength.Statement .bankExchangeComplete := encodedLength_all _
theorem EncodedLength.threadEnd : EncodedLength.Statement .threadEnd := encodedLength_all _
theorem EncodedLength.emptyIssue : EncodedLength.Statement .emptyIssue := encodedLength_all _
theorem EncodedLength.landing : EncodedLength.Statement .landing := encodedLength_all _
theorem EncodedLength.c1RequestStart : EncodedLength.Statement .c1RequestStart := encodedLength_all _
theorem EncodedLength.mExecute : EncodedLength.Statement .mExecute := encodedLength_all _
theorem EncodedLength.mRetire : EncodedLength.Statement .mRetire := encodedLength_all _
theorem EncodedLength.sliceEnter : EncodedLength.Statement .sliceEnter := encodedLength_all _
theorem EncodedLength.sliceRetire : EncodedLength.Statement .sliceRetire := encodedLength_all _
theorem EncodedLength.katPatternDone : EncodedLength.Statement .katPatternDone := encodedLength_all _
theorem EncodedLength.trapEntry : EncodedLength.Statement .trapEntry := encodedLength_all _
theorem EncodedLength.interrupt : EncodedLength.Statement .interrupt := encodedLength_all _
theorem EncodedLength.stepTrap : EncodedLength.Statement .stepTrap := encodedLength_all _
theorem EncodedLength.waitStall : EncodedLength.Statement .waitStall := encodedLength_all _
theorem EncodedLength.regionWriteback : EncodedLength.Statement .regionWriteback := encodedLength_all _
theorem EncodedLength.invalidateComplete : EncodedLength.Statement .invalidateComplete := encodedLength_all _
theorem EncodedLength.migrationComplete : EncodedLength.Statement .migrationComplete := encodedLength_all _
theorem EncodedLength.pinComplete : EncodedLength.Statement .pinComplete := encodedLength_all _
theorem EncodedLength.create : EncodedLength.Statement .create := encodedLength_all _
theorem EncodedLength.createTimeout : EncodedLength.Statement .createTimeout := encodedLength_all _
theorem EncodedLength.dissolve : EncodedLength.Statement .dissolve := encodedLength_all _
theorem EncodedLength.admitTimeout : EncodedLength.Statement .admitTimeout := encodedLength_all _
theorem EncodedLength.heartbeat : EncodedLength.Statement .heartbeat := encodedLength_all _
theorem EncodedLength.voteTimeout : EncodedLength.Statement .voteTimeout := encodedLength_all _
theorem EncodedLength.rcmtTimeout : EncodedLength.Statement .rcmtTimeout := encodedLength_all _
theorem EncodedLength.roundAnswer : EncodedLength.Statement .roundAnswer := encodedLength_all _
theorem EncodedLength.nop : EncodedLength.Statement .nop := encodedLength_all _
theorem EncodedLength.lexit : EncodedLength.Statement .lexit := encodedLength_all _
theorem EncodedLength.trig : EncodedLength.Statement .trig := encodedLength_all _
theorem EncodedLength.yield : EncodedLength.Statement .yield := encodedLength_all _
theorem EncodedLength.halt : EncodedLength.Statement .halt := encodedLength_all _
theorem EncodedLength.eret : EncodedLength.Statement .eret := encodedLength_all _
theorem EncodedLength.ovtldRst : EncodedLength.Statement .ovtldRst := encodedLength_all _
theorem EncodedLength.spsyncAll : EncodedLength.Statement .spsyncAll := encodedLength_all _
theorem EncodedLength.qfence : EncodedLength.Statement .qfence := encodedLength_all _
theorem EncodedLength.vin48Falling : EncodedLength.Statement .vin48Falling := encodedLength_all _

end Sys2Proof.Laws
end

