-- ==== Sys2Proof/Tests/Slice0.lean ====
section
/-!
SUPPORT. Tests of single instructions against words and values that the spec gives, ill-formed terms that WellFormed refuses, and for each statement
with hypotheses a state and operands that meet them.
-/

set_option Elab.async false

namespace Sys2Proof.Tests

open Sys2Proof Sys2Proof.Machine

/-! ## Decoding: words of the spec's tables of worked encodings (chapters 13 to 17) -/

theorem test_decode_addi : decodeSyl .s 0x041C7FFF 0 0 = .ok (.addi 7 7 (.short (-1))) := rfl
theorem test_decode_cmp : decodeSyl .s 0x2A0C1082 0 0 = .ok (.cmp .lt 3 1 2) := rfl
theorem test_decode_shl : decodeSyl .s 0x180C4160 0 0 = .ok (.shlImm 3 4 5) := rfl
theorem test_decode_ld : decodeSyl .s 0x5024AC02 0 0 = .ok (.ld true 2 9 10 (.short 2)) := rfl
theorem test_decode_brc : decodeSyl .s 0x6211FFF8 0 0 = .ok (.brcNe 4 (.short (-8))) := rfl
theorem test_decode_loop : decodeSyl .s 0x6A003064 0 0 = .ok (.loopImm 3 (.short 100)) := rfl
theorem test_decode_join : decodeSyl .s 0x70302000 0 0 = .ok (.join 12 2) := rfl
theorem test_decode_waitf : decodeSyl .s 0x800061D8 0 0 = .ok (.waitf .eq true 6 7) := rfl
theorem test_decode_fence : decodeSyl .s 0x8400001A 0 0 = .ok (.fence .rel .device) := rfl
theorem test_decode_vfma : decodeSyl .v 0x0E28108330000000 0 0 = .ok (.vfma .w1024 .f32 10 1 2 3 3) := rfl
theorem test_decode_vcvt : decodeSyl .v 0xA214400001020000 0 0 = .ok (.vcvt .w1024 (.floatFloat .bf16 .f32) .rne true 5 4 0) := rfl
theorem test_decode_vpacksx : decodeSyl .v 0xA61440000D000000 0 0 = .ok (.vpacksx .w1024 .sx3 .f32 .rne false 5 4 0) := rfl
theorem test_decode_skqin : decodeSyl .v 0xD204800020000000 0 0 = .ok (.skqin .w1024 .f32 1 8 2) := rfl
theorem test_decode_skest : decodeSyl .v 0xEA10218500000000 0 0 = .ok (.skest 4 5 2 6) := rfl
theorem test_decode_mma : decodeSyl .m 0x09022200000017C0 0 0 = .ok (.mma false 2 0 1 .bf16 .bf16 95) := rfl
theorem test_decode_mma_sticky : decodeSyl .m 0x0C27B2000000FFC0 0 0 = .ok (.mma true 0 2 3 .sx3 .mx4 1023) := rfl
theorem test_decode_mmag : decodeSyl .m 0x108266A000000FC0 0 0 = .ok (.mmag false 1 0 1 .e4m3 .e4m3 63 20) := rfl
theorem test_decode_mdrain : decodeSyl .m 0x2100205108AD0001 0 0 = .ok (.mdrainGeneric false 2 10 8 .bf16 4 5 true 6) := rfl
theorem test_decode_mkat : decodeSyl .m 0x4800000000000005 0 0 = .ok (.mkat 5) := rfl
theorem test_decode_mwait : decodeSyl .m 0x5800000000000100 0 0 = .ok (.mwait 4) := rfl
theorem test_decode_spld : decodeSyl .c0 0x0810B000 0 0 = .ok (.spld false 3 1 2 0) := rfl
theorem test_decode_spst : decodeSyl .c0 0x1050C001 0 0 = .ok (.spst false 0 5 3 1) := rfl
theorem test_decode_splds : decodeSyl .c0 0x18310002 0 0 = .ok (.splds false 3 4 2) := rfl
theorem test_decode_spadd : decodeSyl .c0 0x5C21B400 0 0 = .ok (.spadd true .f32 3 2 6 0) := rfl
theorem test_decode_spmap : decodeSyl .c0 0x48A2C002 0 0 = .ok (.spmap 2 10 11) := rfl
theorem test_decode_cpy : decodeSyl .c1 0x0441400000000000 0 0 = .ok (.cpy false 8 10) := rfl
theorem test_decode_cpyr : decodeSyl .c1 0x0849600000014000 0 0 = .ok (.cpyr false 9 11 2) := rfl
theorem test_decode_rldt : decodeSyl .c1 0x2800600066000000 0 0 = .ok (.rldt false 3 3 12 0) := rfl
theorem test_decode_amo : decodeSyl .c1 0x403082803E000008 0 0 = .ok (.amo false .add true 6 4 5 0 7 8) := rfl
theorem test_decode_cst : decodeSyl .c1 0x54C2AB2EA0000000 0 0 = .ok (.cst 24 21 22 23 20 0) := rfl
theorem test_decode_mcast : decodeSyl .c1 0x6030828000000003 0 0 = .ok (.mcast 3 6 4 5) := rfl
theorem test_decode_coll : decodeSyl .c1 0x6469800000000000 0 0 = .ok (.coll 13 12) := rfl
theorem test_decode_qfence : decodeSyl .c1 0x7400000000000000 0 0 = .ok .qfence := rfl
theorem test_decode_csrr : decodeSyl .s 0x90140818 0 0 = .ok (.csrr 5 0x818) := rfl
theorem test_decode_csrx : decodeSyl .s 0x941C881A 0 0 = .ok (.csrx 7 0x81A 8) := rfl
theorem test_decode_trap : decodeSyl .s 0x96000011 0 0 = .ok (.trap 17) := rfl
theorem test_decode_eret : decodeSyl .s 0x98000000 0 0 = .ok .eret := rfl
theorem test_decode_ovtld : decodeSyl .s 0x9A004140 0 0 = .ok (.ovtld 4 5) := rfl
theorem test_decode_ropen : decodeSyl .s 0xA00CA2C0 0 0 = .ok (.ropen 3 10 11) := rfl
theorem test_decode_protr : decodeSyl .s 0xAA10A305 0 0 = .ok (.protr 4 10 12 5) := rfl
/-- R308, R310: a pure repeat bundle, and a reserved kind refused (R306). -/
theorem test_decode_repeat : decodeTableWord 32 0x10000800 = some (.pureRepeat 1 false) := by decide
theorem test_decode_brk : decodeTableWord 32 0x30000000 = some (.brk 0) := by decide
theorem test_decode_reserved_header : decodeTableWord 32 0x40000000 = none := by decide

/-! ## Ill-formed terms: one for each check of WellFormed, which the check refuses -/

theorem test_ill_formed_stations : wellFormed (.laneLoss 36 0) = false ∧ wellFormed (.laneLoss 0 4) = false ∧ wellFormed (.retrainComplete 36) = false ∧
    wellFormed (.packetReceive 36 0 true (.completion 0 0 0 [] false)) = false := by decide

theorem test_ill_formed_sources : wellFormed (.remoteRequest ⟨1024, true⟩ 0 0 (.read 1)) = false ∧ wellFormed (.remotePostArrival 1024 0 false 0) = false ∧
    wellFormed (.remoteReadDrop 1024) = false ∧ wellFormed (.windowArrival 1024 0 0 []) = false ∧ wellFormed (.ringChunkArrival 1024 0 0 0 0 []) = false ∧
    wellFormed (.ringChunkArrival 0 0 1024 0 0 []) = false ∧ wellFormed (.spillRefetch 1024 0) = false ∧ wellFormed (.spillRefetch 0 8) = false := by decide

theorem test_ill_formed_ports : wellFormed (.hostRequest (2 ^ 40) .evict) = false ∧ wellFormed (.snoopComplete (2 ^ 40) none) = false ∧
    wellFormed (.thermalSample [1, 2, 3, 4, 5]) = false := by decide

theorem test_ill_formed_contexts : wellFormed (.poolTimeout 2048 0) = false ∧ wellFormed (.loadComplete 2048 0) = false ∧ wellFormed (.tokenWrite 2048 0) = false ∧
    wellFormed (.homeOperation 2048 0) = false ∧ wellFormed (.jobStart 2048 0) = false ∧ wellFormed (.jobComplete 2048 0) = false ∧ wellFormed (.fend 2048 0) = false ∧
    wellFormed (.timedLoadDataArrival 2048 0) = false ∧ wellFormed (.regionFillComplete 2048 0) = false ∧ wellFormed (.regionFillComplete 0 256) = false := by decide

theorem test_ill_formed_clusters : wellFormed (.replayStart 128 0) = false ∧ wellFormed (.knownAnswerSweepComplete 128 true) = false ∧
    wellFormed (.tableWalk 4 0 0) = false ∧ wellFormed (.tableWalk 0 0 (2 ^ 52)) = false ∧ wellFormed (.pageFaultRingHeadWrite 4 0) = false := by decide

theorem test_ill_formed_scalar : wellFormed (.bfx 1 2 60 4) = false ∧ wellFormed (.bfi 1 2 63 1) = false ∧ wellFormed (.cvta 1 2 3 0) = false ∧
    wellFormed (.isap 1 2 5) = false ∧ wellFormed (.call 0 (.short 0)) = false ∧ wellFormed (.loopReg 0 0) = false := by decide

theorem test_ill_formed_predicates : wellFormed (.vcmp .w256 (.flt .f32) .eq 0 1 2 0) = false ∧ wellFormed (.vcmp .w256 (.int .i32) .uo 1 1 2 0) = false ∧
    wellFormed (.vcmp .w256 (.int .i32) .ord 1 1 2 0) = false ∧ wellFormed (.pand 0 1 2) = false ∧ wellFormed (.por 0 1 2) = false ∧
    wellFormed (.pxor 0 1 2) = false ∧ wellFormed (.pnot 0 1) = false := by decide

theorem test_ill_formed_vector : wellFormed (.vcvt .w256 (.floatFloat .sx8 .f32) .rne false 1 2 0) = false ∧
    wellFormed (.vpacksx .w256 .f32 .f32 .rne false 1 2 0) = false ∧ wellFormed (.vpacksx .w256 .sx3 .f32 .rne false 1 2 0) = false ∧
    wellFormed (.vunpk .w1024 .f32 .bf16 1 2) = false ∧ wellFormed (.vmovsExtract .w256 .i32 1 2 8) = false ∧ wellFormed (.vmovsInsert .w256 .i32 1 2 8) = false ∧
    wellFormed (.vreds .w256 (.flt .f32) .xor 1 2 0) = false ∧ wellFormed (.skest 4 4 0 1) = false ∧ wellFormed (.sktop 4 4 0 1) = false := by decide

theorem test_ill_formed_matrix : wellFormed (.mma false 0 1 1 .bf16 .bf16 95) = false ∧ wellFormed (.mma false 0 0 1 .f32 .bf16 95) = false ∧
    wellFormed (.mma false 0 0 1 .bf16 .f32 95) = false ∧ wellFormed (.mma false 0 0 1 .sx3 .bf16 94) = false ∧
    wellFormed (.mmag false 0 1 1 .bf16 .bf16 95 2) = false ∧ wellFormed (.mdrainScratchpad false 0 1 2 .bf16 0 1 true 3) = false ∧
    wellFormed (.mdrainGeneric false 0 1 2 .bf16 0 1 false 2) = false := by decide

theorem test_ill_formed_memory : wellFormed (.spldp false 0 1 2 0 0) = false ∧ wellFormed (.spstp false 0 1 2 0 0) = false ∧
    wellFormed (.rld false false 0 5 1 5 0) = false ∧ wellFormed (.amo false .add true 5 1 2 0 5 0) = false ∧ wellFormed (.amo false .add true 5 1 2 3 6 0) = false ∧
    wellFormed (.amo false .fadd true 5 1 2 0 6 0) = false ∧ wellFormed (.amoRsc false 5 1 2 3 5 0) = false ∧ wellFormed (.cld 5 1 2 5 0) = false ∧
    wellFormed (.cst 5 1 2 3 5 0) = false ∧ wellFormed (.crcn 0 5 1 2 5 0) = false := by decide

/-! ## Single steps, with values worked out from the rules -/

/-- What holds of the next state, or nothing where the instruction stops. -/
def after {α : Type} (i : Instr) (s : State) (f : State → α) : Option α :=
  match exec i s with
  | .next t => some (f t)
  | .fault _ => none
  | .refused _ => none

/-- The machine after reset with scalar registers of the thread in focus set. -/
def rs (l : List (Nat × Word64)) : State := State.reset.upd fun t => l.foldl (fun t e => t.wrS e.1 e.2) t

/-- The machine after reset with vector registers of the thread in focus set. -/
def rv (l : List (Nat × VWord)) : State := State.reset.upd fun t => l.foldl (fun t e => t.wrV e.1 e.2) t

/-- The machine after reset with the thread in focus changed. -/
def rt (f : Thread → Thread) : State := State.reset.upd f

/-- The machine after reset with the module changed. -/
def rm (f : Module → Module) : State := State.reset.on f

/-- R348: a sum is taken modulo 2^64. -/
theorem test_add_wraps : after (.add 3 1 2) (rs [(1, 0xFFFFFFFFFFFFFFFF), (2, 2)]) (fun t => t.now.th.rdS 3) = some 1 := by decide +kernel
theorem test_add_s0 : after (.add 0 1 2) (rs [(1, 7), (2, 2)]) (fun t => t.now.th.rdS 0) = some 0 := by decide +kernel
theorem test_sub_order : after (.sub 3 1 2) (rs [(1, 1), (2, 2)]) (fun t => t.now.th.rdS 3) = some 0xFFFFFFFFFFFFFFFF := by decide +kernel
theorem test_mulh_signed : after (.mulh false 3 1 2) (rs [(1, 0xFFFFFFFFFFFFFFFF), (2, 1)]) (fun t => t.now.th.rdS 3) = some 0xFFFFFFFFFFFFFFFF := by decide +kernel
theorem test_mulh_natural : after (.mulh true 3 1 2) (rs [(1, 0xFFFFFFFFFFFFFFFF), (2, 1)]) (fun t => t.now.th.rdS 3) = some 0 := by decide +kernel
/-- R349: division by 0 gives all ones, and lands. -/
theorem test_div_by_zero : after (.div false 3 1 2) (rs [(1, 5)]) (fun t => t.now.th.u.land.map fun e => (e.rem, e.writes)) =
    some [(24, [(.s 3, 0xFFFFFFFFFFFFFFFF)])] := by decide +kernel
theorem test_rem_truncates : after (.rem false 3 1 2) (rs [(1, 0xFFFFFFFFFFFFFFF9), (2, 2)]) (fun t => t.now.th.u.land.map fun e => e.writes) =
    some [[(.s 3, 0xFFFFFFFFFFFFFFFF)]] := by decide +kernel
/-- R350: a count of 64 or more. -/
theorem test_shl_full : after (.shlReg 3 1 2) (rs [(1, 5), (2, 64)]) (fun t => t.now.th.rdS 3) = some 0 := by decide +kernel
theorem test_sha_full : after (.shaReg 3 1 2) (rs [(1, 0x8000000000000000), (2, 200)]) (fun t => t.now.th.rdS 3) = some 0xFFFFFFFFFFFFFFFF := by decide +kernel
theorem test_clz_zero : after (.clz 3 1) (rs []) (fun t => t.now.th.rdS 3) = some 64 := by decide +kernel
theorem test_ctz_zero : after (.ctz 3 1) (rs []) (fun t => t.now.th.rdS 3) = some 64 := by decide +kernel
theorem test_cmp_signed : after (.cmp .lt 3 1 2) (rs [(1, 0xFFFFFFFFFFFFFFFF)]) (fun t => t.now.th.rdS 3) = some 1 := by decide +kernel
theorem test_cmp_natural : after (.cmp .nlt 3 1 2) (rs [(1, 0xFFFFFFFFFFFFFFFF)]) (fun t => t.now.th.rdS 3) = some 0 := by decide +kernel
theorem test_sel_zero : after (.sel 3 1 2 4) (rs [(1, 8), (2, 9)]) (fun t => t.now.th.rdS 3) = some 9 := by decide +kernel
theorem test_li_sign : after (.li 3 (.short 0x800)) (rs []) (fun t => t.now.th.rdS 3) = some 0xFFFFFFFFFFFFF800 := by decide +kernel
theorem test_sext_byte : after (.sext .w8 3 1) (rs [(1, 0x180)]) (fun t => t.now.th.rdS 3) = some 0xFFFFFFFFFFFFFF80 := by decide +kernel
/-- R354: the length field holds the length less one. -/
theorem test_bfi_field : after (.bfi 3 1 8 3) (rs [(1, 0x5), (3, 0xFFFF)]) (fun t => t.now.th.rdS 3) = some 0xF5FF := by decide +kernel
theorem test_bfx_field : after (.bfx 3 1 4 7) (rs [(1, 0xABCD)]) (fun t => t.now.th.rdS 3) = some 0xBC := by decide +kernel
theorem test_lea_scale : after (.lea 3 1 2 3) (rs [(1, 1), (2, 2)]) (fun t => t.now.th.rdS 3) = some 17 := by decide +kernel
theorem test_cvta_unmapped : after (.cvta 3 1 0 0) (rs [(1, 4096)]) (fun t => t.now.th.rdS 3) = some 0xFFFFFFFFFFFFFFFF := by decide +kernel
theorem test_isap_pool : after (.isap 3 1 4) (rs [(1, 0x4000000000000000)]) (fun t => t.now.th.rdS 3) = some 1 := by decide +kernel
/-- R361: an offset counts words of 4 bytes from the bundle's own address. -/
theorem test_br_backwards : after (.br (.short (-2))) (rt fun t => { t with pc := 0x100 }) (fun t => t.now.th.next) = some (some 0xF8) := by decide +kernel
theorem test_jr_misaligned : after (.jr 1) (rs [(1, 2)]) (fun t => t.now.th.next) = some none := by decide +kernel
theorem test_st_enters : after (.st 2 5 1 (.short (-1))) (rs [(1, 0x40), (5, 7)]) (fun t => t.now.th.x.sq.map fun e => (e.kind, e.addr, e.width)) =
    some [(.store 7, 0x3C, 4)] := by decide +kernel
theorem test_fence_three_queues : after (.fence .full .die) (rs []) (fun t => (t.now.th.x.sq.length, t.now.th.x.c1q.length, t.now.th.x.mq.length)) =
    some (1, 1, 1) := by decide +kernel
theorem test_halt : after .halt (rs []) (fun t => t.now.th.status) = some .halting := by decide +kernel
/-- R365: JOIN of all ones creates a crew on the lowest free handle. -/
theorem test_join_creates : after (.join 3 1) (rs [(1, 0xFFFFFFFFFFFFFFFF), (3, 9)]) (fun t => (t.now.th.rdS 3, (t.now.crew 0).inForce)) = some (0, true) := by
  decide +kernel
/-- R473, R475: the reset value of WAITLIM; a number the table does not list. -/
theorem test_csrr_waitlim : after (.csrr 5 0x818) (rs []) (fun t => t.now.th.rdS 5) = some 0x01000000 := by decide +kernel
theorem test_csrw_reserved : after (.csrw 0x821 1) (rs [(1, 0xFFFFFFFFFFFFFFFF)]) (fun t => t.now.th.csrGet 0x821) = some 0x80000000000003FF := by decide +kernel
theorem test_trap_detail : after (.trap 17) (rs []) (fun t => t.now.th.u.held.map fun τ => (τ.cause, τ.detail)) = some [(Cause.trapCall, 17)] := by decide +kernel
/-- R481, R482: ERET at user level is PRIV_INSTR; without a handler the launch ends. -/
theorem test_eret_user : after .eret (rs []) (fun t => (t.now.th.status, (t.now.queue 0).cause)) = some (.stopped, Cause.privInstr) := by decide +kernel
theorem test_brk_handler : after (.brk 5) (rt fun t => { t with pc := 0x40, csr := { t.csr with tvec := 0x8000000000001000 } })
    (fun t => (t.now.th.pc, t.now.th.csr.epc, t.now.th.csr.cause, t.now.th.csr.estat)) = some (0x1000, 0x40, Cause.breakpoint.zeroExtend 64, 0x3A) := by decide +kernel

/-- R385: 1.0 + 2.0 = 3.0 in the active lane 0; lane 1 is not active and keeps its value. -/
theorem test_vadd : after (.vadd .w256 .f32 3 1 2 1) ((rv [(1, 0x3F800000), (2, 0x40000000), (3, 0x500000001)]).upd fun t => t.wrP 1 0xF)
    (fun t => t.now.th.rdV 3) = some 0x540400000 := by decide +kernel
theorem test_vmul_round : after (.vmul .w256 .bf16 3 1 1 0) (rv [(1, 0x3F81)]) (fun t => (t.now.th.rdV 3).toNat % 65536) = some 0x3F82 := by decide +kernel
/-- R390: saturation. -/
theorem test_viadd_sat : after (.viadd .w256 .i8 true 3 1 2 0) (rv [(1, 0x7F), (2, 1)]) (fun t => (t.now.th.rdV 3).toNat % 256) = some 0x7F := by decide +kernel
theorem test_viadd_wrap : after (.viadd .w256 .i8 false 3 1 2 0) (rv [(1, 0x7F), (2, 1)]) (fun t => (t.now.th.rdV 3).toNat % 256) = some 0x80 := by decide +kernel
/-- R391. -/
theorem test_vshl_full : after (.vshl .w256 .i8 3 1 2 0) (rv [(1, 0xFF), (2, 8)]) (fun t => t.now.th.rdV 3) = some 0 := by decide +kernel
/-- R389: -0 equals +0. -/
theorem test_vcmp_zero : after (.vcmp .w256 (.flt .f32) .eq 2 1 3 1) ((rv [(1, 0x80000000)]).upd fun t => t.wrP 1 0xF) (fun t => t.now.th.rdP 2) = some 0xF := by
  decide +kernel
theorem test_pnot_p0 : after (.pnot 2 0) (rs []) (fun t => t.now.th.rdP 2) = some 0 := by decide +kernel
theorem test_pcnt : after (.pcnt 3 0) (rs []) (fun t => t.now.th.rdS 3) = some 128 := by decide +kernel
theorem test_viota : after (.viota .w256 .n8 3 1 0) (rs [(1, 0xFE)]) (fun t => (t.now.th.rdV 3).toNat % 2 ^ 32) = some 0x0100FFFE := by decide +kernel
/-- R274: the block of the manual's example, 3.0, -1.0, 0.5, 0.25 and 0.375 in SX3. -/
theorem test_sx3_example : sxPack .sx3 0x202028252A252525 .rne
    ([0x40400000, 0xBF800000, 0, 0, 0x3F000000, 0x3E800000, 0x3EC00000].map (decodeFP fpF32) ++ List.replicate 25 (decodeFP fpF32 0)) =
    0x0000_08A0_2BFF_F880 := by decide +kernel
/-- The head of a record with nothing in it. -/
def head0 : SkHead := { ndc := false, sat := false, nans := 0, n := 0, seed := 0, cctr := 0, base := 0, drew := 0 }
/-- R296: after three insertions of two keys the key that came twice has COUNT 2 and COUNT − OVER 2. -/
theorem test_hhk_counts : ([5, 7, 5].foldl Hhk.insert ⟨head0, []⟩).estimate 5 = (2, 2) ∧ ([5, 7, 5].foldl Hhk.insert ⟨head0, []⟩).h.n = 3 := by decide +kernel

/-- R437: the four bytes stored read back; a misaligned offset is ADDR_ALIGN. -/
theorem test_spst : after (.spst false 0 5 1 1) (rs [(1, 0x1000000000000010), (5, 0x1_DDCCBBAA)]) (fun t => t.now.th.spBytes 0x14 4) =
    some [0xAA, 0xBB, 0xCC, 0xDD] := by decide +kernel
theorem test_spld_align : after (.spld false 0 5 1 0) (rs [(1, 0x1000000000000012)]) (fun t => (t.now.queue 0).cause) = some Cause.addrAlign := by decide +kernel
theorem test_mzero_busy : after (.mzero 2) (rs []) (fun t => (t.now.th.u.busy, t.now.th.x.mq.length)) = some ([2], 1) := by decide +kernel
theorem test_cpy_token : after (.cpy false 8 10) (rs [(10, 0x80)]) (fun t => (t.now.th.u.pend, t.now.th.x.c1q.map fun e => e.addr)) = some ([8], [0x80]) := by decide +kernel
/-- R487: without a group slot the status word says 7, refused, GROUP_CONFIG. -/
theorem test_ropen_no_slot : after (.ropen 3 10 11) (rs [(10, 1), (11, 1)]) (fun t => t.now.th.rdS 3) = some 0xF01C000000000000 := by decide +kernel

/-- R19: 110 degrees on a die shut the module down. -/
theorem test_thermal_shutdown : after (.thermalSample [25, 110, 25, 25, 25, 25]) (rm fun m => { m with silo := { m.silo with power := .up } })
    (fun t => t.now.silo.power) = some (.shutdown 0 false) := by decide +kernel
theorem test_boot_step : after (.bootStep ⟨true, []⟩) State.reset (fun t => t.now.silo.power) = some (.booting 2) := by decide +kernel
/-- R120: a counter never goes down by a write. -/
theorem test_evcnt_lower : after (.evcntWrite 5 3) (rm fun m => { m with fe := { m.fe with evcnt := [(5, 4)] } }) (fun t => Tab.get 0 t.now.fe.evcnt 5) = some 4 := by
  decide +kernel
theorem test_evcnt_higher : after (.evcntWrite 5 9) (rm fun m => { m with fe := { m.fe with evcnt := [(5, 4)] } }) (fun t => Tab.get 0 t.now.fe.evcnt 5) = some 9 := by
  decide +kernel
/-- R50, R51: a packet out of sequence is discarded; a lost lane retrains the station. -/
theorem test_packet_sequence : after (.packetReceive 3 1 true (.completion 0 0 0 [] false)) (rm fun m => { m with fb := { m.fb with devid := 0x8000000000000001 } })
    (fun t => (t.now.station 3).delivered) = some 0 := by decide +kernel
theorem test_lane_loss : after (.laneLoss 3 2) State.reset (fun t => ((t.now.station 3).failed, (t.now.station 3).retraining)) = some ([2], true) := by decide +kernel
theorem test_no_such_station : exec (.laneLoss 36 0) State.reset = .fault .noSuchUnit := rfl
/-- R215: the host owns a half-line it has read for ownership. -/
theorem test_host_own : after (.hostRequest 0x40 .readOwn) (rm fun m => { m with silo := { m.silo with hdmWindow := 0x10000 }, mm := { m.mm with hostDown := false } })
    (fun t => t.now.held 1) = some .M := by
  decide +kernel
/-- R131: a lease is given in READY alone. -/
theorem test_assign : after .assign (rm fun m => { m with silo := { m.silo with power := .up, tstate := .ready } }) (fun t => t.now.silo.tstate) = some .leased := by
  decide +kernel
/-- R470: what a fresh context fetches at once after withFetchWord. -/
theorem test_step_repeat : (match step (State.reset.withFetchWord 32 0x10000800) with
    | .next t => some (t.now.th.u.rep, t.now.clk.cycle)
    | .fault _ => none
    | .refused _ => none) = some (some 1, 1) := by decide +kernel

/-! ## The statements' hypotheses are met: for each statement states and operands, clause by clause -/

theorem hyp_ScalarShiftsMovesAndFields : (63 : BitVec 6).toNat + (0 : BitVec 6).toNat < 64 ∧ (0 : BitVec 6).toNat + (63 : BitVec 6).toNat < 64 := by decide

theorem hyp_DivisionLandings :
    (let s := rs [(1, 5)]; s.rdS 2 = 0) ∧ (let s := rs [(1, 5), (2, 1)]; s.rdS 2 ≠ 0 ∧ ((s.rdS 1).toInt ≠ -2 ^ 63 ∨ (s.rdS 2).toInt ≠ -1)) ∧
    (let s := rs [(1, 0x8000000000000000), (2, 0xFFFFFFFFFFFFFFFF)]; s.rdS 2 ≠ 0 ∧ (s.rdS 1).toInt = -2 ^ 63 ∧ (s.rdS 2).toInt = -1) := by decide +kernel

/-- A thread whose map 0 shows the two blocks at 0x10000 in the window at block 4. -/
def mapped (l : List (Nat × Word64)) : State :=
  (rs l).upd fun t => { t with b := { t.b with maps := [(0, (0x8000000000010000, 0x0000000200040000))] } }

theorem hyp_AddressConversion :
    (let s := mapped [(1, 0x11FFF)]; (s.src.th.mapOfVa (s.rdS 1).toNat).map (·.1) = some 0 ∧ (s.rdS 1).toNat < 2 ^ 52) ∧
    (let s := mapped [(1, 0x12000)]; s.src.th.mapOfVa (s.rdS 1).toNat = none) ∧ 2 ^ 52 ≤ ((rs [(1, 0x10000000000000)]).rdS 1).toNat ∧
    (let s := mapped [(1, 0x1000000000005FFF)]; (s.rdS 1).toNat = 2 ^ 60 + 0x5FFF ∧ (s.src.th.mapOfOffset 0x5FFF).map (·.1) = some 0) ∧
    (let s := mapped [(1, 0x1000000000006000)]; (s.rdS 1).toNat = 2 ^ 60 + 0x6000 ∧ s.src.th.mapOfOffset 0x6000 = none) ∧
    (let s := rs [(1, 0x10000000000FFFFF), (2, 7)]; (s.rdS 1).toNat = 2 ^ 60 + 0xFFFFF ∧ (s.rdS 2).toNat = 7) ∧
    (let s := rs [(1, 0x20000000000FFFFF)]; (s.rdS 1).toNat = 2 ^ 61 + coreOf s.src.focus % 8 * 2 ^ 20 + 0xFFFFF) ∧
    ((rs [(1, 0xFFFFFFFFFFFFF)]).rdS 1).toNat < 2 ^ 52 := by decide +kernel

theorem hyp_DecodeOfEncode : wellFormed (.add 1 2 3) = true ∧ isEvent (.add 1 2 3) = false ∧ wellFormed (.mkcmp 15 0xFFFFFFFFFFFFFFFF) = true ∧
    isEvent (.mkcmp 15 0xFFFFFFFFFFFFFFFF) = false := by decide +kernel

theorem hyp_DecodedIsWellFormed : ∃ b, decodeBundle (encode (.add 1 2 3)) = .ok b := ⟨_, rfl⟩

theorem hyp_UnlistedOpcodesRefused : fld (0x1D * 2 ^ 25) 25 7 = 0x1D ∧ fld (0x4F * 2 ^ 25) 25 7 = 0x4F ∧ 0x56 ≤ fld (0x56 * 2 ^ 25) 25 7 ∧
    fld (0x3F * 2 ^ 58) 58 6 = 0x3F ∧ fld 0 59 5 = 0 ∧ 0x0C ≤ fld (0x0C * 2 ^ 59) 59 5 ∧ 0x0C ≤ fld (0x0C * 2 ^ 27) 27 5 ∧ 0x1E ≤ fld (0x1E * 2 ^ 58) 58 6 := by
  decide +kernel

theorem hyp_StepKeepsMemoryForm : State.reset.now.mm.wf ∧ ∃ t, step State.reset = .next t := ⟨by decide, _, rfl⟩

theorem hyp_StepEndsBetweenBundles : ∃ t, step State.reset = .next t := ⟨_, rfl⟩

theorem hyp_BundleOperationsNeverStop : isEvent (.halt) = false := by decide

/-- The machine with a bundle where the focused context fetches: of ADD s3, s1, s2, or of ERET at user level, which traps. -/
def atWord (w : Nat) : Module := (State.reset.withFetchWord 64 w).now
/-- Whether the bundle there holds one operation that the checks pass, and its meaning answers a next state of which a test holds. -/
def runsOne (w : Nat) (f : State → Module → Bool) : Bool :=
  let m := atWord w
  let m1 := { m with turn := m.turn + 1 }
  match m1.fetch m.focus with
  | (.bundle b, m2) =>
    (match b.ops with
    | [o] =>
      let s := (m2.begin (BitVec.ofNat 32 b.header) (m2.th.after b)).upd Thread.advance
      let part : Part := ⟨o.slot, o.op, false⟩
      decide (m.agenda = [] ∧ m.trapDue = none ∧ m.turn < 32 ∧ (m.turn + 1) % 8 ≠ 0 ∧ m1.mayIssue m.focus = true ∧ m.th.u.crewWait = none ∧
        m.th.u.returning = false ∧ m.th.u.land = [] ∧ o.slot < 6 ∧ m2.th.u.rep = none ∧ m2.th.u.armM = none ∧ m2.th.u.armC0 = none ∧ m2.th.u.armC1 = none ∧
        runDependent m2.th.u.mask [part] [] = false ∧ part.stalls m2.th = false ∧ m2.th.room [part] = true ∧
        disagreements b (m2.core (coreOf m2.focus)).upsets = []) &&
      (match exec o.op s with
        | .next t => f t m2
        | .fault _ => false
        | .refused _ => false)
    | _ => false)
  | _ => false

theorem hyp_StepRunsDecodedOperation :
    runsOne 0x020C108008000000 (fun t _ => t.pre.isSome) = true ∧
    runsOne 0x9800000008000000 (fun t m2 => t.pre.isNone && decide (t.now.th.status ≠ m2.th.status)) = true ∧
    (match (atWord 0x020C108008000000).fetch 0 with | (.bundle _, _) => true | _ => false) = true ∧ ((atWord 0x020C108008000000).ctx 0).u.loops = [] := by
  decide +kernel

/-- A loop level of a body from 0x40 to 0x60 with n iterations left. -/
def level (n : Nat) : Loop := ⟨[0x40, 0x50], 0x60, n, []⟩
/-- The thread in focus with an open loop. -/
def looping (n : Nat) (l : List (Nat × Word64)) : State := (rs l).upd fun t => { t with pc := 0x50, u := { t.u with loops := [level n] } }

theorem hyp_Branches :
    (rs []).rdS 1 = 0 ∧ (rs [(1, 1)]).rdS 1 ≠ 0 ∧ ((rs [(1, 3)]).rdS 1).toNat % 4 ≠ 0 ∧ ((rs [(1, 4)]).rdS 1).toNat % 4 = 0 ∧ (rs []).src.th.u.loops = [] ∧
    (branchTarget (rs []).src.th.pc (.short 1)).toNat % 4 = 0 ∧ (looping 1 []).src.th.u.loops = [level 1] ∧
    (let x := branchTarget (looping 1 []).src.th.pc (.short (-4)); (level 1).first ≤ x.toNat ∧ x.toNat < (level 1).after) ∧
    (level 1).after ≤ (branchTarget (looping 1 []).src.th.pc (.short 4)).toNat ∧ (branchTarget (looping 1 []).src.th.pc (.short (-5))).toNat < (level 1).first ∧
    (let x := (looping 1 [(1, 0x5C)]).rdS 1; x.toNat % 4 = 0 ∧ (level 1).first ≤ x.toNat ∧ x.toNat < (level 1).after) ∧
    (level 1).after ≤ ((looping 1 [(1, 0x60)]).rdS 1).toNat := by decide +kernel

/-- The machine about to issue a LOOP whose body is the code at 0, inside the loops given. -/
def beforeBody (l : List Loop) (m : Module) : State :=
  let m1 := m.modTh fun t => { t with pc := 0x100, u := { t.u with loops := l, ir := { t.u.ir with after := m.th.pc } } }
  ⟨m1, some m1⟩
/-- What LOOP captures of a body of one bundle there. -/
def captureIs (s : State) (f : Except Stop (List Nat × Nat) → Bool) : Bool :=
  f (match s.now.capture s.now.focus 1 with
    | .ok (b, e, _, _) => .ok (b, e)
    | .error x => .error x)

theorem hyp_LoopLevels :
    let code := atWord 0x020C108008000000
    let a := code.th.pc.toNat
    let ok (n : Nat) : Except Stop (List Nat × Nat) → Bool := fun r => match r with | .ok (b, e) => decide (b.length = 1 ∧ b = [a] ∧ e ≤ n) | .error _ => false
    let out (n : Nat) : Except Stop (List Nat × Nat) → Bool := fun r => match r with | .ok (_, e) => decide (n < e) | .error _ => false
    (∀ l ∈ [[], [⟨[a + 8], a + 8, 1, []⟩]], let s := beforeBody l code
     captureIs s (ok (a + 8)) = true ∧ s.src.th.u.loops = l ∧ s.src.th.u.loops.length < 6 ∧ l.all (fun k => k.after == a + 8) = true) ∧
    (0 < immNatural (.short (1 : BitVec 12)) ∧ immNatural (.short (0 : BitVec 12)) = 0) ∧
    (let s := beforeBody (List.replicate 6 (level 1)) code; captureIs s (ok (a + 8)) = true ∧ s.pre ≠ none ∧ ¬s.src.th.u.loops.length < 6) ∧
    (let s := beforeBody [⟨[a + 4], a + 4, 1, []⟩] code; captureIs s (out (a + 4)) = true ∧ s.pre ≠ none ∧ s.src.th.u.loops = [⟨[a + 4], a + 4, 1, []⟩]) ∧
    captureIs (beforeBody [] (code.modTh fun t => { t with pc := 0x10000000000000 })) (fun r => match r with | .error (.fault _ _) => true | _ => false) = true ∧
    (let s := beforeBody [] (rs []).now
     captureIs s (fun r => match r with | .error x => x.pageAt.isSome | .ok _ => false) = true ∧ s.back.th.u.pf.cause = none) ∧
    (let s := beforeBody [] ((rs []).now.modTh fun t => { t with u := { t.u with pf := .nomap } })
     captureIs s (fun r => match r with | .error x => x.pageAt.isSome | .ok _ => false) = true ∧ s.back.th.u.pf.cause ≠ none) ∧
    (rs []).src.th.u.loops = [] ∧ (∀ k ks, ([] : List Loop) = k :: ks → k.after ≠ 0x60) ∧
    (looping 2 []).src.th.u.loops = [level 2] ∧ (level 2).after = 0x60 ∧ (level 2).after ≠ 0x50 ∧ 1 < (level 2).left ∧ (level 1).left ≤ 1 := by
  refine ⟨by decide +kernel, by decide, by decide +kernel, by decide +kernel, by decide +kernel, by decide +kernel, by decide +kernel, rfl,
    (fun k ks h => nomatch h), rfl, rfl, by decide, by decide, by decide⟩

/-- A thread whose register s1 is pending, with WAITLIM n. -/
def pending (n : Word64) : State := rt fun t => { t with u := { t.u with pend := [1] }, csr := { t.csr with waitlim := n }, status := .running }
/-- The same, having waited since cycle 0, at a cycle. -/
def waiting (n : Word64) (c : Nat) : State :=
  ((pending n).upd fun t => { t with u := { t.u with waitFrom := some (0, 0) } }).on fun m => { m with clk := { m.clk with cycle := c } }

/-- A launch of no threads beyond the one in focus. -/
def launch0 : Launch :=
  { id := 0, queue := 1, entry := 0, hdr := ⟨false, 0⟩, asid := 1, code := 0x1000, arg := 0, ctxbase := 0, nthr := 1, tpc := 1, fuse := false, samedie := false,
    prio := 0, nondet := false, shadowOk := false, tevt := none, crews := [0, 0, 0, 0], deps := [0, 0, 0, 0], lnum := 0, lrnd := 0, state := .running,
    asShadow := false, ready := some 0, placed := 0, ended := [], trigComplete := false }

/-- The machine with launches in its launch unit. -/
def launched (l : List Launch) : State := rm fun m => { m with lu := { m.lu with launches := l, next := 9 } }

theorem hyp_MarkersAndWaits :
    (rs []).now.th.u.trigged = false ∧ (rt fun t => { t with u := { t.u with trigged := true } }).now.th.u.trigged = true ∧
    (rs []).now.launchOf (rs []).now.th.launch = none ∧
    (let s := launched [{ launch0 with ctxbase := 0x10000 }]; (s.now.launchOf s.now.th.launch).map (·.ctxbase) = some 0x10000) ∧
    ((2 : RegNo).toNat ∉ (pending 5).now.th.u.pend ∧ (pending 5).now.th.u.armC1 = none) ∧
    (∀ s ∈ [pending 5, waiting 5 4], (1 : RegNo) ≠ 0 ∧ (1 : RegNo).toNat ∈ s.now.th.u.pend ∧ s.now.th.u.armC1 = none ∧ s.back.waitOver s.back.focus = false) ∧
    (let s := waiting 5 5; s.back.th.u.waitFrom = some (0, 0) ∧ 0 + s.back.th.waitLimit ≤ s.back.coreClock (coreOf s.back.focus)) ∧
    (rt fun t => { t with status := .halting }).now.th.status = .halting := by decide +kernel

/-- A WAITF on the flag at scratchpad offset 0x10, which holds 7, having waited since cycle 0. -/
def flagged (n : Nat) (v : Word64) : State :=
  ((rs [(1, 0x1000000000000010), (2, v)]).upd fun t => { (t.spPut 0x10 [7]) with u := { t.u with waitFrom := some (0, 0) } }).on
    fun m => { m with clk := { m.clk with cycle := n } }

theorem hyp_WaitForFlag :
    ((rs [(1, 2)]).rdS 1).toNat % 4 ≠ 0 ∧
    (∀ n ∈ [0, 0xFFFFFF, 0x1000000], ∀ v ∈ [7, 8], let s := flagged n (BitVec.ofNat 64 v)
     (s.rdS 1).toNat % 4 = 0 ∧ s.back.th.u.pf.cause = none ∧
      s.now.sAhead s.src.focus ⟨.load false 0, 4, s.rdS 1, .none, !s.src.th.system, none, 0⟩ (s.now.ctx s.src.focus).x.sq = true ∧
      (match s.now.place s.src.focus (!s.src.th.system) (s.rdS 1) 4 with | .ok (.own o) => o == 0x10 | _ => false) = true ∧
      (match s.now.readP s.src.focus (!s.src.th.system) false (.own 0x10) 4 with | .ok (bs, m) => decide (bs = [7, 0, 0, 0] ∧ m = s.now) | .error _ => false) = true ∧
      flagHolds .eq false (zext64 (leNat [7, 0, 0, 0]) 32) (s.rdS 2) = decide (v = 7) ∧ s.back.waitOver s.back.focus = decide (n = 0x1000000)) := by
  decide +kernel

/-- A crew of the thread in focus on handle 3. -/
def crewed (c : Crew) (l : List (Nat × Word64)) : State := (rs l).on fun m => m.setCrew 3 c
/-- The crew with thread 0 as its one member, at a phase. -/
def crew0 (x y : BitVec 32) : Crew := { Crew.free with inForce := true, members := [⟨0, y⟩], phase := x }

/-- A table with one value under every key from `a` on. -/
theorem get_filled {α : Type} (d v : α) (a n k : Nat) (h : a ≤ k) (hk : k < a + n) : Tab.get d ((range' a n).map fun h => (h, v)) k = v := by
  induction n generalizing a with
  | zero => omega
  | succ n ih =>
    simp only [range', List.map_cons, Tab.get]
    by_cases e : a = k
    · simp [e]
    · simp only [e, if_false]; exact ih (a + 1) (by omega) (by omega)

theorem firstWhere_none {α : Type} (p : α → Bool) (l : List α) (h : ∀ x ∈ l, p x = false) : firstWhere p l = none := by
  induction l with
  | nil => rfl
  | cons x l ih => simp [firstWhere, h x (by simp), ih fun y hy => h y (by simp [hy])]

theorem mem_range' (a n k : Nat) (h : k ∈ range' a n) : a ≤ k ∧ k < a + n := by
  induction n generalizing a with
  | zero => simp [range'] at h
  | succ n ih =>
    simp only [range', List.mem_cons] at h
    rcases h with h | h
    · omega
    · have := ih (a + 1) h; omega

/-- Every one of the 1,024 handles is in use. -/
theorem hyp_CrewOperations_exhausted :
    let s := (rs [(1, 0xFFFFFFFFFFFFFFFF)]).on fun m => { m with cx := { m.cx with crews := (range' 0 1024).map fun h => (h, crew0 0 0) } }
    s.rdS 1 = BitVec.allOnes 64 ∧ s.now.freeCrew = none := by
  refine ⟨by decide +kernel, firstWhere_none _ _ fun h hh => ?_⟩
  have e := get_filled Crew.free (crew0 0 0) 0 1024 h (mem_range' 0 1024 h hh).1 (mem_range' 0 1024 h hh).2
  have n : crew0 0 0 ≠ Crew.free := by decide
  simp only [decide_eq_false_iff_not]
  intro k
  exact n (e.symm.trans k)

theorem hyp_CrewOperations :
    (let s := rs [(1, 0xFFFFFFFFFFFFFFFF)]; s.rdS 1 = BitVec.allOnes 64 ∧ s.now.freeCrew = some 0) ∧
    (let s := crewed (crew0 0 0) [(1, 3)]
     s.rdS 1 ≠ BitVec.allOnes 64 ∧ s.now.crewOk s.now.focus (s.rdS 1) false = true ∧ (s.now.crew (s.rdS 1).toNat).member s.now.th.tidN ≠ none ∧
      s.back.th.u.crewFault = none ∧ s.now.crewOk s.now.focus (s.rdS 1) true = true) ∧
    (let s := crewed { crew0 0 0 with members := [] } [(1, 3)]
     s.now.crewOk s.now.focus (s.rdS 1) false = true ∧ (s.now.crew (s.rdS 1).toNat).member s.now.th.tidN = none ∧ s.now.crewOk s.now.focus (s.rdS 1) true = false) ∧
    (let s := rs [(1, 1024)]; s.rdS 1 ≠ BitVec.allOnes 64 ∧ s.now.crewOk s.now.focus (s.rdS 1) false = false) := by decide +kernel

theorem hyp_CrewOperations_arrivals :
    (let s := crewed (crew0 6 7) [(1, 3), (2, 5)]
     s.back.th.u.crewFault = none ∧ s.back.th.u.cwait = none ∧ s.now.crewOk s.now.focus (s.rdS 1) true = true ∧ (s.now.crew 3).ahead ((s.now.crew 3).nextOf 0) < 2 ∧
      (s.now.crew 3).done ((s.rdS 2).setWidth 32) = true) ∧
    (let s := crewed (crew0 6 7) [(1, 3), (2, 6)]; (s.now.crew 3).done ((s.rdS 2).setWidth 32) = false) := by decide +kernel

/-- The thread in focus at system level. -/
def system (f : Csrs → Csrs) : State := rt fun t => { t with status := .running, csr := f { t.csr with estat := 0x20 } }

theorem hyp_ControlRegisterAccess :
    csrRow 0x804 = none ∧ csrRow 0x889 = none ∧ (csrRow 0x800).map (csrAccess · false) = some .ro ∧ (csrRow 0x818).map (csrAccess · false) = some .rw ∧
    (csrRow 0x881).map (csrAccess · false) = some .none ∧ (csrRow 0x881).map (csrAccess · true) = some .rw ∧
    (0x880 ≤ (0x887 : BitVec 12).toNat ∧ (rs []).src.th.system = false ∧ (0x887 : BitVec 12).toNat ≤ 0x888) ∧
    (0x880 ≤ (0x881 : BitVec 12).toNat ∧ (0x881 : BitVec 12).toNat ≠ 0x880) ∧ (0x880 ≤ (0x889 : BitVec 12).toNat ∧ ¬(0x889 : BitVec 12).toNat ≤ 0x888) := by decide +kernel

theorem hyp_FendEndsLaunch : (system id).src.th.system = true ∧ ((system id).now.ctx 0).status ≠ .empty := by decide +kernel

theorem hyp_TakingATrap :
    (let t := (rt fun t => { t with csr := { t.csr with tvec := 0x8000000000000000 } }).now.ctx 0; t.trapped = false ∧ bit t.csr.tvec.toNat 63 = true) ∧
    (let t := (rs []).now.ctx 0; t.trapped = false ∧ bit t.csr.tvec.toNat 63 = false) ∧
    ((rt fun t => { t with csr := { t.csr with estat := 0x30 } }).now.ctx 0).trapped = true := by decide +kernel

theorem hyp_ReturnFromTrap :
    (rs []).src.th.system = false ∧ (let s := system fun c => { c with epc := 2 }; s.src.th.system = true ∧ s.src.th.csr.epc.toNat % 4 ≠ 0) ∧
    (let s := (system id).upd fun t => { t with u := { t.u with land := [⟨[], 3, 0, none, none, false⟩] } }
     s.src.th.system = true ∧ s.src.th.csr.epc.toNat % 4 = 0 ∧ s.now.th.u.land ≠ []) ∧
    (let s := (system id).upd fun t => { t with u := { t.u with frame := some t.saveFrame } }
     s.src.th.system = true ∧ s.src.th.csr.epc.toNat % 4 = 0 ∧ s.now.th.u.land = [] ∧ s.now.th.u.frame.isSome = true) ∧
    (∀ l ∈ [[], [(⟨[], 3, 0, none, none, false⟩ : Landing)]], let m := (rt fun t => { t with u := { t.u with returning := true, land := l } }).now
     m.th.u.returning = true ∧ m.th.u.land = l) := by
  decide +kernel

theorem hyp_TrapBreakRepeat : (rs []).now.th.u.rep = none ∧ (rt fun t => { t with u := { t.u with rep := some 1 } }).now.th.u.rep = some (0 + 1) := by decide +kernel

/-- A running thread at a boundary with causes held. -/
def boundary (l : List Trap) (f : Csrs → Csrs) : State := rt fun t => { t with status := .running, csr := f t.csr, u := { t.u with held := l, stepped := true } }

theorem hyp_BoundaryTraps :
    (let s := boundary [⟨Cause.trapCall, 1, 0, .A⟩] id; s.pre = none ∧ s.now.mayTrap s.now.focus = true ∧ s.now.th.heldA = some ⟨Cause.trapCall, 1, 0, .A⟩) ∧
    (let s := (boundary [] id).on fun m => m.modCore 0 fun k => { k with post := true }
     s.now.mayTrap s.now.focus = true ∧ s.now.th.heldA = none ∧ s.now.interruptDue s.now.focus = true) ∧
    (let s := boundary [] fun c => { c with estat := 0x81 }
     s.now.mayTrap s.now.focus = true ∧ s.now.th.heldA = none ∧ s.now.interruptDue s.now.focus = false ∧ s.now.th.stepDue = true) ∧
    (let s := boundary [⟨Cause.memPoison, 1, 0, .I⟩] id
     s.now.mayTrap s.now.focus = true ∧ s.now.th.heldA = none ∧ s.now.interruptDue s.now.focus = false ∧ s.now.th.stepDue = false ∧
      s.now.th.u.held.head? = some ⟨Cause.memPoison, 1, 0, .I⟩) := by decide +kernel

theorem hyp_FloatRounding :
    0x7F7FFFFF < 2 ^ ftyBits .f32 ∧ decodeFP fpF32 0x7F7FFFFF ≠ .nan ∧ decodeFP fpF32 0xFF800000 ≠ .nan ∧
    (2 * 1 < (2 * roundInt .rtz false 1 (-2) + 1) * 2 ^ 2) ∧ ((2 * roundInt .rtz false 3 (-2) + 1) * 2 ^ 2 < 2 * 3) ∧
    (2 * 2 = (2 * roundInt .rtz true 2 (-2) + 1) * 2 ^ 2) ∧ roundInt .rtz true 1 (-2) * 2 ^ 2 < 1 := by decide +kernel

theorem hyp_SelectionAndPredicates :
    decodeFP fpF32 0x7FC00000 = .nan ∧ decodeFP fpF32 0x3F800000 ≠ .nan ∧ (decodeFP fpF32 0).isZero = true ∧ (decodeFP fpF32 0x80000000).isZero = true := by decide +kernel

theorem hyp_SpecialFunctions : (1 : Nat) ≠ 0 ∧ ∀ f ∈ [fExp2, fLog2, fRcp, fRsq, fTanh], f = f := ⟨by decide, fun _ _ => rfl⟩

theorem hyp_Conversions :
    (∀ x ∈ cvtFmts (.floatFloat .bf16 .f32), (rs []).src.th.convOk x = true) ∧
    (∃ x ∈ cvtFmts (.floatFloat .bf16 .f32), (rt fun t => { t with csr := { t.csr with fmtcap := 0 } }).src.th.convOk x = false) ∧
    (fmtBits .f32 ∈ [8, 16, 32] ∧ fmtBits .e4m3 ∈ [8, 16, 32]) ∧ ((rs []).src.th.convOk .sx3 = true ∧ (rs []).src.th.convOk .f32 = true ∧ fmtBits .f32 ∈ [16, 32]) ∧
    (rt fun t => { t with csr := { t.csr with fmtcap := 0 } }).src.th.convOk .sx3 = false := by decide +kernel

theorem hyp_LaneMovesAndReductions :
    ((List.range (widBits .w256 / 32)).filter fun j => ((rt fun t => t.wrP 1 0).rdP 1).toNat.testBit (j * 32 / 8)) = [] ∧
    ((List.range (widBits .w256 / 32)).filter fun j => ((rt fun t => t.wrP 1 0x10000000).rdP 1).toNat.testBit (j * 32 / 8)) = [7] := by decide +kernel

/-- A thread whose accumulators q1, q2 and q3 hold an empty record of each kind: the two bytes of the signature and the kind. -/
def sketched : State :=
  rt fun t => ((t.wrQ 1 [(0, 0x53), (1, 0x4B), (2, BitVec.ofNat 8 (skCode .qsk))]).wrQ 2 [(0, 0x53), (1, 0x4B), (2, BitVec.ofNat 8 (skCode .hhk))]).wrQ 3
    [(0, 0x53), (1, 0x4B), (2, BitVec.ofNat 8 (skCode .dck))]

theorem hyp_SketchUpdates :
    (sketched.record 1).map SkRec.kind = some .qsk ∧ (sketched.record 2).map SkRec.kind = some .hhk ∧ (sketched.record 3).map SkRec.kind = some .dck ∧
    sketched.record 0 = none := by decide +kernel

theorem hyp_SketchUpdates_merge : ∃ x y r, sketched.record 2 = some x ∧ sketched.record 2 = some y ∧ skMerge x y = some r := ⟨_, _, _, rfl, rfl, rfl⟩

theorem hyp_SketchQueriesAndClear :
    (let r := [5, 7, 5].foldl Hhk.insert ⟨head0, []⟩
     (r.es[0]?.isSome = true) ∧ r.es.length ≤ 2 ∧ (∀ e ∈ r.es, e.1 ≠ 6) ∧ ∃ e ∈ r.es, r.es.find? (fun x => x.1 == 5) = some e) ∧
    (rs []).now.th.u.ir.skctlSet = false ∧ (rt fun t => { t with u := { t.u with ir := { t.u.ir with skctlSet := true } } }).now.th.u.ir.skctlSet = true := by
  decide +kernel

theorem hyp_HeavyHitterBounds : ([5, 7, 5].foldl Hhk.insert ⟨{ head0 with sat := false, n := 0 }, []⟩).h.sat = false := by decide +kernel

theorem hyp_DistinctCountRegisters : (⟨head0, List.replicate 2048 0⟩ : Dck).m.length = 2048 ∧ (⟨{ head0 with n := 2 ^ 64 - 1 }, []⟩ : Dck).h.n < 2 ^ 64 :=
  ⟨List.length_replicate .., by decide⟩

theorem hyp_MixAndFieldProduct : (0xFF : Nat) < 256 ∧ (0 : Nat) < 256 := by decide

theorem hyp_MatrixOperationsEnter :
    (rs []).src.th.matOk .bf16 .sx3 = true ∧ (rt fun t => { t with csr := { t.csr with fmtcap := 0 } }).src.th.matOk .bf16 .sx3 = false ∧
    ((rs []).src.th.x.mq = [] ∧ (rs []).src.gangsOf (rs []).src.focus = false) ∧ ((4 : BitVec 8) ≠ 0 ∧ ∀ b ∈ (rt fun t => t.setBusy 1).src.th.u.busy, (4 : BitVec 8).toNat.testBit b = false) ∧
    (2 ∈ (rt fun t => t.setBusy 2).src.th.u.busy ∧ (4 : BitVec 8).toNat.testBit 2 = true) := by decide +kernel

/-- Threads 0 and 1 of a launch on cores 0 and 1, both members of crew 3. -/
def pair (f : Module → Module) : State :=
  rm fun m => f ((((m.modCtx 0 fun t => { t with status := .running, x := { t.x with mq := [] } }).modCtx 2 fun t =>
    { t with status := .running, csr := { t.csr with tid := 1 } }).setCrew 3 { Crew.free with inForce := true, members := [⟨0, 0⟩, ⟨1, 1⟩], phase := 0 }).modTh fun t =>
      t.wrS 1 3)
/-- A gang of contexts 0 and 2. -/
def gang0 (fin : List (Nat × Option Cause)) : Gang :=
  { leader := 0, crew := 3, phase := 0, mt := 2, ga := 0, gb := 1, fa := .bf16, fb := .bf16, k := 32, members := [0, 2], entered := [], ran := [], finished := fin,
    gbRead := false }

theorem hyp_GangedProducts :
    (let m := (pair id).now
     m.clockHeld m.focus = false ∧ m.th.matOk .bf16 .bf16 = true ∧ m.crewOk m.focus ((pair id).rdS 1) true = true ∧ m.gangOf m.focus 3 = some [0, 2] ∧ m.focus ∈ [0, 2] ∧
      ∀ c ∈ [0, 2], c ≠ m.focus → 2 ∉ (m.ctx c).u.busy) ∧
    (let s := rs [(1, 3)]; s.src.th.matOk .bf16 .bf16 = true ∧ s.now.crewOk s.now.focus (s.rdS 1) true = false) ∧
    (let s := crewed (crew0 0 0) [(1, 3)]; s.now.crewOk s.now.focus (s.rdS 1) true = true ∧ s.now.gangOf s.now.focus 3 = none) ∧
    (let m := (pair fun m => { m with cx := { m.cx with gangs := [(0, gang0 [])] } }).now
     m.cx.gangs = [(0, gang0 [])] ∧ (gang0 []).members = [0, 2] ∧ 2 ≠ (gang0 []).leader ∧ 2 ∉ (gang0 []).entered ∧ (m.ctx 2).status = .running ∧
      (m.ctx 2).launch = (m.crew 3).launch ∧ (m.crew 3).member (m.ctx 2).tidN ≠ none ∧ (m.crew 3).arrivedAt (m.ctx 2).tidN 0 = true ∧ m.active (coreOf 2) = 2 ∧
      (m.core (coreOf 2)).exchange = false) := by decide +kernel

theorem hyp_GangedProducts_retire :
    let m := (pair fun m => { m with cx := { m.cx with gangs := [(0, { gang0 [] with ran := [(0, none)] })] } }).now
    m.slicePending m.focus = some (0, none) ∧ (m.gang 0).members.length ≠ (m.gang 0).finished.length + 1 := by decide +kernel

/-- A thread with rings 0 and 1 of one entry of 6 KiB each, both filled, and one operation in its M queue. -/
def engine (k : MKind) : State :=
  rt fun t =>
    let r (b : Nat) : Ring := { Ring.empty with cfg := BitVec.ofNat 64 (48 * 2 ^ 24 + b * 128), tail := 1, rsv := 1 }
    { ((t.setRing 0 (r 0)).setRing 1 (r 64)) with x := { t.x with mq := [t.mEntry k 0 0] } }

/-- The same with an operation that has waited since cycle 0 for a push into ring 0, which is remote and empty, WAITLIM 5, at a cycle. -/
def starved (k : MKind) (c : Nat) : State :=
  rm fun m => { (m.modTh fun t => { (t.setRing 0 { Ring.empty with cfg := 0x30000000, layout := 0x80 }) with
    csr := { t.csr with waitlim := 5 }, x := { t.x with mq := [{ t.mEntry k 0 0 with since := some 0 }] } }) with clk := { m.clk with cycle := c } }

theorem hyp_MatrixEngineSteps :
    (let m := (engine (.mzero 2)).now
     let e := m.th.mEntry (.mzero 2) 0 0
     m.th.x.mq = [e] ∧ m.mBlocked m.focus e = false ∧ e.pf = .none ∧ m.th.u.pf = .none ∧ m.banked m.focus = false ∧ m.th.x.mhalt = false ∧ e.remote = none ∧
       e.heldOn = [] ∧ (m.core (coreOf m.focus)).frozen = false) ∧
    (let m := (engine (.mrpop 1)).now
     let e := m.th.mEntry (.mrpop 1) 0 0
     m.th.x.mq = [e] ∧ m.mBlocked m.focus e = false ∧ m.th.ringTest 1 = .ready ∧ m.gangHolds m.focus [1] m.cx.gangNext = false) ∧
    (let k := MKind.mma 2 0 1 .bf16 .bf16 32
     let m := (engine k).now
     let ra := m.th.ring 0
     let rb := m.th.ring 1
     m.th.x.mq = [m.th.mEntry k 0 0] ∧ m.mBlocked m.focus (m.th.mEntry k 0 0) = false ∧ m.gangHolds m.focus [0, 1] m.cx.gangNext = false ∧ m.th.ringTest 0 = .ready ∧
      m.th.ringTest 1 = .ready ∧ ra.headBad = false ∧ rb.headBad = false ∧ ra.layoutBad .bf16 tileSide 32 = false ∧ rb.layoutBad .bf16 tileSide 32 = false ∧
      m.th.filledAt (ra.entry (ra.slot ra.head)) ra.esz = true ∧ m.th.filledAt (rb.entry (rb.slot rb.head)) rb.esz = true) ∧
    (rt fun t => { t with x := { t.x with retiring := [2, 3] } }).now.th.x.retiring = 2 :: [3] ∧
    (let m := (rm fun m => m.modCore 0 fun k => { k with kat := .running 5 }).now; (m.core (coreOf m.focus)).kat = .running 5) ∧
    (let m := (waiting 5 5).now
     m.stallDue m.focus = none ∧ m.mayIssue m.focus = true ∧ m.th.u.waitFrom = some (0, 0) ∧ 0 + m.th.waitLimit ≤ m.coreClock (coreOf m.focus)) ∧
    (let k := MKind.mma 2 0 1 .bf16 .bf16 32
     let m := (starved k 5).now
     let e := { m.th.mEntry k 0 0 with since := some 0 }
     (m.core (coreOf m.focus)).frozen = false ∧ m.th.x.mq = [e] ∧ m.mBlocked m.focus e = false ∧ m.th.ringTest 0 = .waitRemote ∧ e.since = some 0 ∧
       0 + m.th.waitLimit ≤ m.coreClock (coreOf m.focus)) ∧
    127 ∈ (rm fun m => { m with cx := { m.cx with suspect := [127] } }).now.cx.suspect := by decide +kernel

/-- A thread with a map whose blocks are filled. -/
def filled (l : List (Nat × Word64)) (bs : List Nat) : State := (mapped l).upd fun t => { t with b := { t.b with filled := bs } }

theorem hyp_ScratchpadLoads :
    (let s := filled [(1, 0x1000000000004FFC)] [4]
     let o := (((s.rdS 1).toNat + (0 : BitVec 12).toInt * (4 : Nat)) % (2 ^ 20 : Int)).toNat
     o % 4 = 0 ∧ s.src.th.unfilled o 4 = none) ∧
    (let s := rs [(1, 0x1000000000000000)]
     let o := (((s.rdS 1).toNat + (-1 : BitVec 12).toInt * (128 : Nat)) % (2 ^ 20 : Int)).toNat
     o = 0xFFF80 ∧ o % 128 = 0 ∧ s.src.th.unfilled o 128 = none ∧ (3 : BitVec 2) ≠ 0) ∧
    (let s := rs [(1, 0x1000000000000002)]; (((s.rdS 1).toNat + (0 : BitVec 12).toInt * (4 : Nat)) % (2 ^ 20 : Int)).toNat % 4 ≠ 0) ∧
    (let s := rs [(1, 0x10000000000FF000)]
     let o := (((s.rdS 1).toNat + (0 : BitVec 12).toInt * (64 : Nat)) % (2 ^ 20 : Int)).toNat
     o % 64 = 0 ∧ o + 4096 ≤ 2 ^ 20 ∧ s.src.th.unfilled o 4096 = none) ∧
    (let s := rs [(1, 0x10000000000FF000)]
     let o := (((s.rdS 1).toNat + (1 : BitVec 12).toInt * (64 : Nat)) % (2 ^ 20 : Int)).toNat
     o % 64 = 0 ∧ 2 ^ 20 < o + 4096) ∧
    (let s := rs [(1, 1)]; (((s.rdS 1).toNat + (0 : BitVec 12).toInt * (64 : Nat)) % (2 ^ 20 : Int)).toNat % 64 ≠ 0) := by decide +kernel

theorem hyp_ScratchpadStores :
    (let s := filled [(1, 0x1000000000004FFC)] [4]
     let o := (((s.rdS 1).toNat + (0 : BitVec 12).toInt * (c0Width 0 : Nat)) % (2 ^ 20 : Int)).toNat
     o % c0Width 0 = 0 ∧ s.src.th.unfilled o (c0Width 0) = none) ∧
    (let s := rs [(1, 2)]; (((s.rdS 1).toNat + (0 : BitVec 10).toInt * (c0Width 0 : Nat)) % (2 ^ 20 : Int)).toNat % c0Width 0 ≠ 0) ∧
    (let s := rs [(1, 0)]
     let o := (((s.rdS 1).toNat + (-64 : BitVec 12).toInt * (64 : Nat)) % (2 ^ 20 : Int)).toNat
     o = 0xFF000 ∧ o + 4096 ≤ 2 ^ 20 ∧ s.src.th.unfilled o 4096 = none) ∧
    (let s := rs [(1, 0)]; 2 ^ 20 < (((s.rdS 1).toNat + (-63 : BitVec 12).toInt * (64 : Nat)) % (2 ^ 20 : Int)).toNat + 4096) ∧
    (filled [] [4]).now.th.unfilled 0x4000 1 = none := by decide +kernel

theorem hyp_RegionMapOperations :
    (let s := mapped [(2, 0x8000000000010000), (3, 0x0000000200040000)]; mapValid (s.rdS 2, s.rdS 3) = true ∧ s.now.th.mapBad 1 (s.rdS 2, s.rdS 3) = true) ∧
    (let s := mapped [(2, 0x8000000000020000), (3, 0x0000000100FF0000)]
     mapValid (s.rdS 2, s.rdS 3) = true ∧ s.now.th.mapBad 1 (s.rdS 2, s.rdS 3) = false ∧ s.now.th.mapFault [1] = none ∧ s.now.th.b.dirty = [] ∧
      s.now.th.mapFault [0, 1, 2, 3, 4, 5, 6, 7] = none ∧ 0 < mapBlocks (s.rdS 2, s.rdS 3) ∧ mapSp (s.rdS 2, s.rdS 3) + mapBlocks (s.rdS 2, s.rdS 3) ≤ 256) := by
  decide +kernel

theorem hyp_RegionMapOperations_clean (s : State) : s.now.writeBlocks s.now.focus [] = (s.now, none) := rfl

theorem hyp_TransportOperationsEnter :
    bit (rs []).now.th.csr.jbind.toNat 63 = false ∧
    (let s := (crewed (crew0 0 0) []).upd fun t => { t with csr := { t.csr with jbind := 0x8000000000000003 } }
     bit s.now.th.csr.jbind.toNat 63 = true ∧ s.now.crewOk s.now.focus (BitVec.ofNat 64 (fld s.now.th.csr.jbind.toNat 0 10)) false = true) ∧
    (let s := rt fun t => { t with csr := { t.csr with jbind := 0x8000000000000003 } }
     bit s.now.th.csr.jbind.toNat 63 = true ∧ s.now.crewOk s.now.focus (BitVec.ofNat 64 (fld s.now.th.csr.jbind.toNat 0 10)) false = false) := by decide +kernel

/-- A leaf that maps the 64 KiB page of addresses 0 to 0xFFFF of address space 0 on a die to the first frame for every use at either level, written already, with
the latency class and scope bits given. -/
def page0 (die cls : Nat) : TlbEntry := ⟨die, 0, 0, 65536, BitVec.ofNat 64 (2 ^ 63 + 2 ^ 62 + 0xFC + cls * 2 ^ 52), 0, 0⟩
/-- The machine with that leaf in the translation unit of die 0. -/
def paged (cls : Nat) (f : Thread → Thread) : State := (rt f).on fun m => { m with tr := { m.tr with tlb := [page0 0 cls] } }

/-- Words put into HBM. -/
def words (l : List (Nat × Nat)) (m : Module) : Module := l.foldl (fun m e => m.poke e.1 (leBytes e.2 8)) m
/-- Translation tables of address space 0 with one leaf, for the 64 KiB page at 0 (R216, R217). -/
def tables (leaf : Nat) (m : Module) : Module :=
  words [(0x80000, 2 ^ 63 + 0x200000), (0x200000, 2 ^ 63 + 0x3000), (0x3000, 2 ^ 63 + 0x4000), (0x4000, 2 ^ 63 + 0x5000), (0x5000, leaf)]
    { m with tr := { m.tr with atbase := 0x80000 } }
/-- A leaf that permits every use, written already, with a frame. -/
def leafW (frame : Nat) : Nat := 2 ^ 63 + 2 ^ 62 + frame * 65536 + 0xFC

/-- A landing entry. -/
def one (n : Nat) (f : Option Trap) (l : Option (Nat × Nat × Word64 × Nat)) : List Landing := [⟨[(.s 3, 9)], n, 0, f, l, false⟩]
/-- Whether the timed load of address 0x40 finds a leaf of which a test holds, or a miss. -/
def findsIs (s : State) (f : Except Miss Phys → Bool) : Bool :=
  f (match Machine.translate s.now (dieOfCore 0) (some (clusterOf 0)) (s.now.ctx 0).asid 0x40 .read true with
    | .ok (ph, _) => .ok ph
    | .error x => .error x)
/-- What of a leaf lets a timed load read through it on die 0. -/
def timedHolds (ph : Phys) : Bool :=
  let cls := fld ph.leaf.w0 54 2
  (cls == 1 && homeDie ph.pa == 0 && fld ph.leaf.w0 52 2 == 1) || (cls == 2 && homeDie ph.pa == 0) || cls == 3

theorem hyp_TimedLoads :
    (aperture 0x1000000000000000 ≠ 0 ∧ aperture 0x12 = 0 ∧ (0x12 : Word64).toNat % 4 ≠ 0) ∧
    (aperture 0x10000000000000 = 0 ∧ (0x10000000000000 : Word64).toNat % 8 = 0 ∧ 2 ^ 52 ≤ (0x10000000000000 : Word64).toNat) ∧
    ((0xFFFFFFFFFFFF8 : Word64).toNat < 2 ^ 52 ∧ (0xFFFFFFFFFFFF8 : Word64).toNat % 8 = 0 ∧ (0x40 : Word64).toNat < 2 ^ 52 ∧ (0x40 : Word64).toNat % 8 = 0) ∧
    findsIs (rs []) (fun r => match r with | .error (.cause _) => true | _ => false) = true ∧
    findsIs ((rs []).on fun m => (tables (leafW 1) m).setHold (0x80000 / 64) .M) (fun r => match r with | .error (.snoop _) => true | _ => false) = true ∧
    (∀ c ∈ [0, 4, 12], ∀ dev ∈ [0, 1], let s := (paged c id).on fun m => { m with tr := { m.tr with tlb := [{ page0 0 c with w0 := (page0 0 c).w0 + BitVec.ofNat 64 (dev * 2 ^ 51) }] } }
     findsIs s (fun r => match r with | .ok ph => (timedHolds ph == decide (c = 12)) && (isDevReg ph.pa == decide (dev = 1)) | _ => false) = true) ∧
    (∀ c ∈ [5, 8], findsIs (paged c id) (fun r => match r with | .ok ph => timedHolds ph && !isDevReg ph.pa | _ => false) = true) ∧
    (let s := rt fun t => { t with u := { t.u with land := one 7 none (some (0x40, 4, 0x40, 0)) } }
     (s.now.ctx 0).u.land = one 7 none (some (0x40, 4, 0x40, 0)) ∧ s.now.timedWaits 0 0 = false ∧ s.now.held (0x40 / 64) ≠ .M ∧ 0x40 / 64 ∉ s.now.mm.poison ∧
       s.now.cellOf (0x40 / 64) = none ∧ 0x40 % 4 = 0) ∧
    (rs []).now.th.u.armC1 = none := by
  decide +kernel

/-- A bundle that issues with a landing entry. -/
def landing (l : List Landing) : State := let m := (rt fun t => { t with u := { t.u with land := l } }).now; ⟨m, some m⟩
/-- Before a DIV with all eight landing entries taken. -/
def emptyDue : State :=
  ⟨(atWord (leNat (encode (.div false 3 1 2)))).modTh fun t => { t with u := { t.u with land := (range' 1 8).map fun n => ⟨[(.s n, 9)], n + 1, 0, none, none, false⟩ } }, none⟩

theorem hyp_LandingsAndEmptyIssues :
    (∀ n ∈ [0, 1], (landing (one (n + 1) none none)).now.th.u.land = one (n + 1) none none ∧ (landing (one (n + 1) none none)).pre = some (landing (one (n + 1) none none)).now) ∧
    (let l : List Landing := [⟨[], 1, 5, some ⟨Cause.timedClass, 0, 0x40, .L⟩, none, false⟩]
     (landing l).now.th.u.land = l ∧ (landing l).pre = some (landing l).now ∧ Cause.timedClass ≠ Cause.tmrDiverge) ∧
    (landing (one 1 none (some (0x40, 4, 0x40, 0)))).now.th.u.land = one 1 none (some (0x40, 4, 0x40, 0)) ∧
    (let s := emptyDue
     s.pre = none ∧ (match s.now.fetch s.now.focus with
      | (.bundle b, m2) => decide (s.now.mayIssue s.now.focus = true ∧ s.now.th.u.returning = false ∧ (m2.th.advance).wantsEmpty b = true ∧
          (m2.th.u.land.all fun e => e.load.isNone && e.fault.isNone) = true ∧ m2.th.u.armM = none ∧ m2.th.u.armC0 = none ∧ m2.th.u.armC1 = none ∧
          m2.th.room [] = true)
      | _ => false) = true) ∧
    (∀ x ∈ (rs []).now.th.r.c0, x.age ≠ 0) := by decide +kernel

theorem hyp_ResetValues : (7 : Nat) < 8 ∧ (0 : Nat) < 8 := by decide

theorem hyp_ResetMemoryForm : State.reset.now.mm.wf := by decide

/-- An S-queue entry of user level, and a C1-queue entry with token 2. -/
def sE (k : SKind) (a : Word64) (w : Nat) : SEntry := ⟨k, w, a, .none, true, none, 0⟩
def cE (k : C1Kind) (a : Word64) (ph : C1Phase) : C1Entry := ⟨k, a, 2, true, ph, 0, none, [], [], [], false, none, .none, false, none, 0, 0, none, [], false⟩
/-- The machine with page 0 mapped and one entry in the S queue, or in the C1 queue. -/
def sQ (e : SEntry) : State := paged 0 fun t => { t with x := { t.x with sq := [e] } }
def cQ (e : C1Entry) : State := paged 0 fun t => { t with x := { t.x with c1q := [e] } }

/-- Whether a place is ready in the own scratchpad at an offset, or in global memory at an address. -/
def ownAt (m : Module) (a : Word64) (n o : Nat) : Bool :=
  match m.place 0 true a n, m.spReady 0 true true o n with
  | .ok p, .ok _ => p == .own o
  | _, _ => false
def globlAt (m : Module) (a : Word64) (n va : Nat) : Bool :=
  match m.place 0 true a n with
  | .ok p => p == .globl va
  | .error _ => false
/-- What `Module.readsAt` and `Module.plainAt` ask, but for the groups, with the leaf named. -/
def plainBy (m : Module) (a : Acc) (e : TlbEntry) (va n pa : Nat) : Bool :=
  m.leafHeld a.die a.cluster a.asid va == some e && (m.l1Line (m.l1Of a.core pa) pa).isNone && pa == leafPa e.w0.toNat e.size va && permits e.w0.toNat .read a.user && !bit e.w0.toNat 60 &&
    decide (0 < n ∧ va % 64 = pa % 64 ∧ pa % 64 + n ≤ 64) && !isDevReg pa && m.held (pa / 64) == .I && decide (pa / 64 ∉ m.mm.poison) &&
    permits e.w0.toNat .write a.user && bit e.w0.toNat 7 && !m.migrating a.asid va && (range' 0 8).all fun g => !(m.group g).valid

theorem plainAt_of_plainBy {m : Module} {a : Acc} {e : TlbEntry} {va n pa : Nat} (h : plainBy m a e va n pa = true) :
    m.readsAt a e va n pa ∧ m.plainAt a va n pa := by
  simp only [plainBy, Bool.and_eq_true, beq_iff_eq, decide_eq_true_eq, Bool.not_eq_true', Option.isNone_iff_eq_none] at h
  obtain ⟨⟨⟨⟨⟨⟨⟨⟨⟨⟨⟨⟨h1, h0⟩, h2⟩, h3⟩, h4⟩, h5⟩, h6⟩, h7⟩, h8⟩, h9⟩, h10⟩, h11⟩, h12⟩ := h
  have r : m.readsAt a e va n pa := ⟨h1, h2, h3, h4, h5.1, h5.2.1, h5.2.2, h6, by rw [h7]; decide, h8, fun _ x hx => by rw [h0] at hx; cases hx⟩
  refine ⟨r, e, r, h9, h10, h11, h7, fun g hg => ?_⟩
  have := List.all_eq_true.mp h12 g (by simp [range']; omega)
  simpa using this

/-- A descriptor of CPY that moves one element of 64 bytes from 0x40 to offset 0x100 of the own scratchpad. -/
def copyBytes : List Byte :=
  leBytes 0x40 8 ++ leBytes 0x1000000000000100 8 ++ leBytes 0x61 8 ++ leBytes 0 8 ++ leBytes 1 4 ++ (range' 0 92).map fun _ => 0

/-- The machine with region map 0 at page 0, its first block to be filled, or filled and dirty. -/
def regioned (f : RegionMaps → RegionMaps) : State :=
  paged 0 fun t => { t with csr := { t.csr with rmwbth := 0 }, b := f { t.b with maps := [(0, (0xC000000000000000, 0x0000000200040000))] } }

/-- What the statements ask of the entry at the head of the S queue, or of the C1 queue, of context 0. -/
def sHead (s : State) (e : SEntry) : Bool :=
  decide (s.now.clockHeld 0 = false ∧ (s.now.ctx 0).x.sq = [e] ∧ (s.now.ctx 0).pfStopped = false ∧ (s.now.ctx 0).sHeld e = false ∧ e.remote = none ∧ e.pf = .none)
def cHead (s : State) (j : C1Entry) : Bool :=
  decide (s.now.clockHeld 0 = false ∧ (s.now.ctx 0).x.c1q = [j] ∧ (s.now.ctx 0).pfStopped = false ∧ j.pf = .none ∧ j.armed = false ∧ j.ordered = false)

theorem hyp_ScalarAccessesComplete :
    (∀ k ∈ [SKind.load true 3, .store 9],
      (let s := sQ (sE k 0x10000000000FFFF8 8); sHead s (sE k 0x10000000000FFFF8 8) = true ∧ ownAt s.now 0x10000000000FFFF8 8 0xFFFF8 = true) ∧
      (let s := sQ (sE k 0x78 8)
       sHead s (sE k 0x78 8) = true ∧ globlAt s.now 0x78 8 0x78 = true ∧ plainBy s.now (s.now.acc 0 true false) (page0 0 0) 0x78 8 0x78 = true)) ∧
    (let s := regioned fun b => { b with fills := [4] }
     4 ∈ s.now.th.b.fills ∧ (s.now.th.mapOfOffset (4 * 4096)).map (·.1) = some 0 ∧
       (match s.now.readG (s.now.acc 0 (!s.now.th.system) false) 0 4096 with | .ok (bs, _) => bs.length == 4096 | .error _ => false) = true) ∧
    (let s := regioned fun b => { b with filled := [4], dirty := [4] }
     fld s.now.th.csr.rmwbth.toNat 0 9 < s.now.th.b.dirty.length ∧ s.now.th.oldestDirty = some 4 ∧
       (match s.now.writeBlock 0 4 with | .ok _ => true | .error _ => false) = true) := by decide +kernel

theorem hyp_TransportRequestsComplete :
    (∀ ph ∈ [C1Phase.queued, .started], let s := cQ (cE (.rst 8 9) 0x10000000000FFFF8 ph)
     cHead s (cE (.rst 8 9) 0x10000000000FFFF8 ph) = true ∧ (cE (.rst 8 9) 0x10000000000FFFF8 ph).token ≠ 0 ∧ ownAt s.now 0x10000000000FFFF8 8 0xFFFF8 = true ∧
       0 = s.now.focus) ∧
    (let s := cQ (cE .qfence 0 .queued); cHead s (cE .qfence 0 .queued) = true ∧ (s.now.ctx 0).x.sq = []) ∧
    (∀ k ∈ [C1Kind.rst 8 9, .rld true 8 3, .amo .add true 3 1 2], let s := cQ (cE k 0x78 .started)
     cHead s (cE k 0x78 .started) = true ∧ globlAt s.now 0x78 8 0x78 = true ∧ plainBy s.now (s.now.acc 0 true false) (page0 0 0) 0x78 8 0x78 = true ∧
       (0x78 : Word64).toNat < 2 ^ 52 ∧ (0x78 : Word64).toNat % 8 = 0 ∧ 3 ≠ (cE k 0x78 .started).token) := by decide +kernel

theorem hyp_JobsComplete :
    (let j := { cE .cpy 0x80 .queued with known := true }
     let s := cQ j
     cHead s j = true ∧ (s.now.ctx 0).x.failed = [] ∧ (([] : List C1Entry).filter C1Entry.running).length < 4) ∧
    (let j := cE .cpy 0x1000000000000000 .queued
     let s := cQ j
     cHead s j = true ∧ (match s.now.sourceBytes 0 j j.addr 128 64 with
     | .ok (bs, m1) => decide (j.kind.parse bs = none ∧ m1.ctx 0 = s.now.ctx 0)
     | .error _ => false) = true) ∧
    (let j := { cE .cpy 0x80 .started with known := true, desc := copyBytes }
     let s := cQ j
     cHead s j = true ∧ j.slot = none ∧ j.bound = none ∧ j.next = 0 ∧ j.count = 0 ∧ j.buf = none ∧ j.token ≠ 0 ∧ (match j.kind.parse j.desc with
     | some (.copy cd) => decide (cd.iters = 1) && globlAt s.now (BitVec.ofNat 64 (cd.elem 0).1) cd.size 0x40 &&
         plainBy s.now (s.now.acc 0 true false) (page0 0 0) 0x40 cd.size 0x40 && ownAt s.now (BitVec.ofNat 64 (cd.elem 0).2) cd.size 0x100
     | _ => false) = true) ∧
    (∀ st ∈ [0, 2], let j := cE .gath 0 (.done st 5 Cause.addrAlign 0); cHead (cQ j) j = true ∧ j.bound = none ∧ j.slot = none ∧ j.token ≠ 0) := by decide +kernel

/-- A group of two data members and a parity member in slot 1, its GID 5, its DEVIDs 1 to 3, this module member `self`. -/
def group0 (self st : Nat) : Group :=
  { Group.reset with valid := true, self := self, live := 7, cfg := BitVec.ofNat 64 (5 * 2 ^ 48 + 2 * 2 ^ 44 + 2 ^ 41 + 2 ^ 40 + 0x34 * 2 ^ 32 + 1), state := st,
                     round := 6, glast := 6, gmem := [(0, 0x8000000000000001), (1, 0x8000000000000002), (2, 0x8000000000000003)] }
/-- The machine with that group changed, GID 5 in s1 and a number in s2. -/
def grouped (self st : Nat) (n : Word64) (f : Group → Group) : State := (rs [(1, 5), (2, n)]).on fun m => m.modGroup 1 fun _ => f (group0 self st)
/-- One of them with a round instruction held, on its second evaluation. -/
def roundHeld (self st : Nat) (n : Word64) (h : RoundHold) (f : Group → Group) : State :=
  (grouped self st n f).upd fun t => { t with queue := 60, u := { t.u with roundHold := some h } }
/-- The round instruction's request. -/
def held0 (v : Option Word64) : RoundHold := ⟨.rcmt 3 1, 1, 6, 0, v⟩
/-- A thread of a launch of queue 60. -/
def system60 (s : State) : State := s.upd fun t => { t with queue := 60 }
/-- What the round instructions ask before anything else. -/
def roundReady (s : State) : Bool :=
  decide (s.now.recorded s.now.focus = none ∧ (s.rdS 1).toNat < 2 ^ 16 ∧ s.now.slotOf (s.rdS 1).toNat s.now.th.asid = some 1 ∧
    (s.now.group 1).fenced = false ∧ (s.now.group 1).lost = false)

theorem hyp_RoundInstructions :
    (let s := rs [(1, 0x10000)]; s.now.recorded s.now.focus = none ∧ 2 ^ 16 ≤ (s.rdS 1).toNat) ∧
    (let s := rs [(1, 5)]; s.now.recorded s.now.focus = none ∧ s.now.slotOf (s.rdS 1).toNat s.now.th.asid = none) ∧
    (let s := grouped 0 3 0 fun g => { g with lost := true }
     s.now.recorded s.now.focus = none ∧ s.now.slotOf (s.rdS 1).toNat s.now.th.asid = some 1 ∧ (s.now.group 1).fenced = false ∧ (s.now.group 1).lost = true ∧
       s.back.th.u.roundHold = none) ∧
    (∀ st ∈ [3, 4], let s := grouped 0 st 7 id; roundReady s = true ∧ (s.now.group 1).state = st ∧ (s.now.group 1).degraded = false ∧
      (s.now.group 1).rebuilding = false ∧ (s.rdS 2).toNat = (s.now.group 1).round + 1 ∧ s.back.th.u.roundHold = none) ∧
    (let s := grouped 0 0 6 id; roundReady s = true ∧ (s.now.group 1).state = 0 ∧ (s.rdS 2).toNat = (s.now.group 1).round) ∧
    (let s := grouped 0 3 7 fun g => { g with degraded := true }; roundReady s = true ∧ (s.now.group 1).degraded = true) ∧
    (∀ n ∈ [6, 8], let s := grouped 0 3 (BitVec.ofNat 64 n) id; roundReady s = true ∧ (s.rdS 2).toNat ≠ (s.now.group 1).round + 1) ∧
    (let s := grouped 0 0 7 id; roundReady s = true ∧ (s.rdS 2).toNat ≠ (s.now.group 1).round) ∧
    (let s := grouped 2 0 0 id; roundReady s = true ∧ s.now.th.releasing = false ∧ (s.now.group 1).isData = false ∧ (s.now.group 1).vote = none) ∧
    (let s := grouped 1 0 0 id
     roundReady s = true ∧ (s.now.group 1).isData = true ∧ (s.now.group 1).pmap = [] ∧ (s.now.group 1).chain = [] ∧ (s.now.group 1).deltas = []) ∧
    (∀ st ∈ [1, 2], roundReady (grouped 1 st 0 id) = true) ∧
    (let s := (grouped 1 0 0 id).upd fun t => { t with x := { t.x with sq := [sE (.store 9) 0x40 8] } }; roundReady s = true ∧ s.now.th.releasing = true) ∧
    (∀ b ∈ [true, false], let v := if b then some (5 : Word64) else none; let s := roundHeld 1 3 0 (held0 v) id; roundReady s = true ∧ s.back.th.u.roundHold = some { held0 none with answer := v } ∧
      60 ≤ s.now.th.queue) ∧
    (let s := grouped 1 3 0xFFFFFFFFFFFFFFFF id; roundReady s = true ∧ s.rdS 2 = BitVec.allOnes 64) ∧
    (let s := grouped 1 3 0x1000000000000 id; roundReady s = true ∧ s.rdS 2 ≠ BitVec.allOnes 64 ∧ 2 ^ 48 ≤ (s.rdS 2).toNat) ∧
    (let s := grouped 1 3 0xFFFFFFFFFFFF id; roundReady s = true ∧ (s.rdS 2).toNat < 2 ^ 48 ∧ (s.now.group 1).logs (s.rdS 2).toNat = false) ∧
    (let s := grouped 1 3 6 fun g => g.setLog 6 4 false 9; roundReady s = true ∧ (s.now.group 1).logs (s.rdS 2).toNat = true) ∧
    (rs []).now.th.queue < 60 ∧
    (let s := system60 (grouped 1 3 6 id); 60 ≤ s.now.th.queue ∧ roundReady s = true ∧ (s.now.group 1).mayRevoke ((s.rdS 2).toNat % 2 ^ 48) = false) ∧
    (let s := system60 (grouped 0 3 6 fun g => { g with retained := some (6, []) })
     60 ≤ s.now.th.queue ∧ roundReady s = true ∧ s.back.th.u.roundHold = none ∧ (s.now.group 1).mayRevoke (s.rdS 2).toNat = true ∧ (s.now.group 1).others ≠ []) ∧
    (∀ st ∈ [0, 3], ∀ w0 ∈ [0, 2 ^ 63 + 0x40], let s := ((grouped 1 st 0x20 id).on (words [(0x20, w0)])).on fun m => { m with tr := { m.tr with tlb := [page0 0 0] } }
      roundReady s = true ∧ (s.rdS 2).toNat % 8 = 0 ∧ (s.rdS 2).toNat < 2 ^ 52 ∧
        plainBy (s.now.modGroup 1 fun g => { g with valid := false }) (s.now.acc s.now.focus true false) (page0 0 0) 0x20 16 0x20 = true ∧
        s.now.peekN 0x20 8 = w0 ∧ fld (s.now.peekN 0x28 8) 0 30 = 0) ∧
    (let s := (grouped 1 3 0x20 id).on fun m => tables (leafW 1) (words [(0x20, 2 ^ 63 + 0x40), (0x28, 2)] { m with tr := { m.tr with tlb := [page0 0 0] } })
     roundReady s = true ∧ fld (s.now.peekN 0x28 8) 0 30 = 2 ∧
       (s.now.regionPages (s.now.group 1) (fld (s.now.peekN 0x20 8) 6 46 * 64) 2).map (fun l => s.now.overlaps 1 5 l) = some false ∧
       (s.now.group 1).isData = true) := by 
  refine ⟨?_, ?_, ?_, ?_, ?_, ?_, ?_, ?_, ?_, ?_, ?_, ?_, ?_, ?_, ?_, ?_, ?_, ?_, ?_, ?_, ?_, ?_⟩ <;> decide +kernel

/-- Whether the read of a PROTR descriptor follows no earlier access. -/
def clearAt (s : State) : Bool := s.now.sAhead s.now.focus ⟨.load false 0, 16, s.rdS 2, .none, !s.src.th.system, none, 0⟩ s.now.th.x.sq
/-- The group of slot 1 with a descriptor of PROTR at 0x20 on a machine with translation tables. -/
def described (st : Nat) (lines : Nat) (f : Group → Group) (g : Module → Module) : State :=
  (grouped 1 st 0x20 f).on fun m => g (tables (leafW 1) (words [(0x20, 2 ^ 63 + 0x40), (0x28, lines)] { m with tr := { m.tr with tlb := [page0 0 0] } }))
/-- What regionPages and overlaps say of that descriptor. -/
def regionAt (s : State) : Option Bool :=
  (s.now.regionPages (s.now.group 1) (fld (s.now.peekN 0x20 8) 6 46 * 64) (fld (s.now.peekN 0x28 8) 0 30)).map fun l => s.now.overlaps 1 5 l

theorem hyp_RoundInstructions_protr :
    (∀ st ∈ [0, 3], let s := described st 2 id id
     roundReady s = true ∧ clearAt s = true ∧ (s.rdS 2).toNat % 8 = 0 ∧ (s.rdS 2).toNat < 2 ^ 52 ∧ fld (s.now.peekN 0x28 8) 0 30 ≠ 0 ∧ regionAt s = some false ∧
       plainBy (s.now.modGroup 1 fun g => { g with valid := false }) (s.now.acc s.now.focus true false) (page0 0 0) 0x20 16 0x20 = true) ∧
    (let s := described 3 2 (fun g => { g with greg0 := [(4, 0x8000000000000000)], greg1 := [(4, 1)], pmap := [(0x10000 / 64 + 9, lineName 4 0 + 1)] }) id
     roundReady s = true ∧ clearAt s = true ∧ regionAt s = some true) ∧
    (let s := described 3 1025 id id; roundReady s = true ∧ clearAt s = true ∧ fld (s.now.peekN 0x28 8) 0 30 = 1025 ∧ regionAt s = none) ∧
    (let s := (grouped 1 3 0x20 id).upd fun t => { t with x := { t.x with sq := [sE (.store 9) 0x40 8] } }; roundReady s = true ∧ clearAt s = false) ∧
    (let s := system60 (grouped 0 3 6 fun g => { g with retained := some (6, []) })
     let s1 : State := ⟨s.now, some s.now⟩
     s1.pre = some s1.now ∧ roundReady s1 = true ∧ s1.back.th.u.roundHold = none ∧ (s1.now.group 1).mayRevoke (s1.rdS 2).toNat = true ∧ (s1.now.group 1).round = (s1.rdS 2).toNat ∧
       (s1.rdS 2).toNat < 2 ^ 48 ∧ (s1.now.group 1).others ≠ []) ∧
    (∀ st ∈ [3, 4], let s := grouped 1 st 0 id; roundReady s = true ∧ s.back.th.u.roundHold = none ∧ s.now.th.releasing = false) := by
  refine ⟨?_, ?_, ?_, ?_, ?_, ?_⟩ <;> decide +kernel

/-- The machine with identity 1, keys and a live station 35, its window's first 64 KiB imported for every device with every right, and page 0 mapped for requests of other
modules by a leaf. -/
def linkedTo (p : TlbEntry) (f : Module → Module) : State :=
  rm fun m => f { m with fb := { m.fb with devid := 0x8000000000000001, imports := [(3, (0xF000000100000000, 0x400))],
                                           stations := [(35, { Station.reset with down := false, width := 4, lanes := [0, 1, 2, 3] })] },
                         silo := { m.silo with keys := 1, tstate := .leased },
                         tr := { m.tr with tlb := [p] } }
def linked (f : Module → Module) : State := linkedTo (page0 0 0) f
/-- A message of device 7 with tag 3. -/
def msg (kind : BitVec 8) (aux : BitVec 16) (off : BitVec 48) (p : List Byte) : TunnelMsg := ⟨kind, 0, 3, 7, BitVec.ofNat 16 p.length, off, aux, p, 7, false, Carried.none⟩
/-- A response of device 2 to tag 3. -/
def answer (kind : BitVec 8) (p : List Byte) : TunnelMsg := ⟨kind, 0, 3, 2, BitVec.ofNat 16 p.length, 0, 0, p, 2, true, Carried.none⟩
/-- A thread with a window of one tile of 256 bytes at 0x1000, its counts at 0x2000, ring 0 remote with one entry of 256 bytes at 0x4000. -/
def receiving (n : Nat) : State :=
  linked fun m => m.modTh fun t => { t.setRing 0 { Ring.empty with cfg := BitVec.ofNat 64 (2 * 2 ^ 24 + 0x80 * 2 ^ 7), layout := 0x80 } with
    status := .running, csr := { t.csr with cwin := BitVec.ofNat 64 (2 ^ 63 + 5 * 2 ^ 50 + 0x40 * 2 ^ 33 + 0x20 * 2 ^ 7), cwcnt := BitVec.ofNat 64 (n * 2 ^ 32 + 1) } }
/-- A thread with one C1 request that awaits an answer of another module with tag 3, asked at cycle 0. -/
def awaiting (e : C1Entry) (p : Pending) (now : Nat) : State :=
  linked fun m => { (m.modTh fun t => { t with x := { t.x with c1q := [e] } }) with fb := { m.fb with pending := [(3, p)] }, clk := { m.clk with cycle := now } }

/-- The ways lanes may have failed, with the lanes that are left in use. -/
def lanesLost : List (List Nat × List Nat) := [([], [0, 1, 2, 3]), ([1], [2, 3]), ([0, 1], [2, 3]), ([3], [0, 1]), ([1, 3], [0]), ([0, 1, 2], [3]), ([0, 1, 2, 3], [])]

theorem hyp_StationTraffic :
    (let m := (linked id).now; m.carries = true ∧ (m.station 35).down = false ∧ (m.station 35).refused = false ∧ (m.station 35).retraining = false ∧ (m.station 35).delivered ≠ 1 ∧
      (answer 0x81 []).areaRsp = true ∧ bit (answer 0x81 []).kind.toNat 7 = true ∧ bit (answer 0x01 []).kind.toNat 7 = false) ∧
    (∀ f ∈ [fun x : Station => { x with down := true }, fun x => { x with refused := true }, fun x => { x with retraining := true }],
      let x := (linked fun m => m.modStation 35 f).now.station 35; x.down = true ∨ x.refused = true ∨ x.retraining = true) ∧
    (∀ e ∈ lanesLost, let x := (linked fun m => m.modStation 35 fun x => { x with retraining := true, failed := e.1 }).now.station 35
      x.retraining = true ∧ x.failed = e.1) ∧
    (let m := (linked id).now
     m.carries = true ∧ m.fb.parked = [] ∧ 0x78 + 8 ≤ tunnelBase ∧ m.importAt 0x78 = some (3, 0xF000000100000000, 0x400) ∧
       0x78 + 8 ≤ impBase 0xF000000100000000 + impLen 0xF000000100000000 ∧ bit (0x400 : Word64).toNat 10 = true ∧ bit (0xF000000100000000 : Word64).toNat 62 = true ∧
       bit (0xF000000100000000 : Word64).toNat 61 = true ∧ plainBy m (m.remoteAcc true) (page0 0 0) 0x78 8 0x78 = true ∧
       plainBy m (m.remoteAcc false) (page0 0 0) 0x78 8 0x78 = true ∧ m.importAt 0x10000 = none) ∧
    (let m := (linked fun m => { m with fb := { m.fb with imports := [(3, (0xC000000100000000, 7))] } }).now
     m.importAt 0xFFF8 = some (3, 0xC000000100000000, 7) ∧ 0xFFF8 + 8 ≤ impBase 0xC000000100000000 + impLen 0xC000000100000000 ∧ fld (7 : Word64).toNat 0 10 = 7 ∧
       bit (0xC000000100000000 : Word64).toNat 61 = false) ∧
    ((rm id).now.carries = false ∧ 1023 < 1024 ∧ 2048 ≤ 2048 ∧ 4095 < 4096) ∧
    (let e := { cE (.skamo .dck 0) 0x3000000000000000 (.remote 3) with serial := 6 }
     let s := awaiting e (.tunnel 0 6 0) 5
     s.now.th.x.c1q = [e] ∧ e.armed = false ∧ s.now.carries = true ∧ bit (answer 0x84 []).kind.toNat 7 = true ∧ bit (answer 0x84 []).flags.toNat 0 = false ∧
       fld (answer 0x84 []).src.toNat 0 10 = (answer 0x84 []).areaSrc.toNat ∧ Tab.get .none s.now.fb.pending (fld (answer 0x84 []).tag.toNat 0 15) = .tunnel 0 6 0) ∧
    (∀ now ∈ [0x1FFFF, 0x20000], let e := { cE (.rst 8 9) 0x3000000000000000 (.remote 3) with serial := 6 }
     let s := awaiting e (.access 0 6 0) now
     s.now.th.x.c1q = [e] ∧ Tab.get .none s.now.fb.pending 3 = .access 0 6 0 ∧ Nat.max 1 (fld s.now.th.csr.frlim.toNat 0 32) = 0x20000 ∧
       s.now.coreClock (coreOf 0) = now ∧ ∀ g, g < 8 → (s.now.group g).valid = false) ∧
    (let m := (linked fun m => m.modTh fun t => { t with status := .running }).now
     m.carries = true ∧ m.receiver (fld (winBase - winBase) 28 10) = some 0 ∧ m.th.status ≠ .empty ∧ bit m.th.csr.cwin.toNat 63 = false) ∧
    (∀ n ∈ [1, 2], let m := (receiving n).now
     let off := winBase + 5 * 2 ^ 20 + 0xFC
     m.carries = true ∧ m.receiver (fld (off - winBase) 28 10) = some 0 ∧ m.th.status ≠ .empty ∧ bit m.th.csr.cwin.toNat 63 = true ∧
       fld m.th.csr.cwin.toNat 50 6 = fld off 20 6 ∧ fld (off - winBase) 26 2 = 0 ∧ fld off 0 20 + 4 ≤ m.th.winTiles * m.th.winTile ∧
       m.th.winLo + m.th.winTiles * m.th.winTile ≤ m.th.winFlag ∧
       m.th.winFlag + 8 * m.th.winTiles ≤ 2 ^ 20 ∧ m.th.unfilled (m.th.winLo + fld off 0 20) 4 = none ∧ m.th.unfilled m.th.winFlag (8 * m.th.winTiles) = none ∧
       m.th.winExpect = n) ∧
    (let m := (receiving 1).now
     let off := ringBase + 2 ^ 23
     m.fb.chunks = [] ∧ m.fb.spilled = [] ∧ m.fb.heldChunks = [] ∧ m.carries = true ∧ m.receiver (ringCore off) = some 0 ∧ (m.th.ring (ringIdx off)).remote = true ∧
       (m.th.ring 0).esz = 256 ∧ fld off 0 23 = 0 ∧ bit off 23 = true ∧ (m.th.ring 0).free ≠ 0 ∧ (m.th.ring 1).remote = false ∧ m.pushHeld 0 0 = false ∧
       m.th.unfilled ((m.th.ring 0).entry ((m.th.ring 0).slot (m.th.ring 0).rsv)) 256 = none) ∧
    (let m := ((receiving 1).on fun m => { m with fb := { m.fb with spilled := [(0, 0, 3, [1, 2])] } }).now
     m.receiver 0 = some 0 ∧ m.fb.spilled = [(0, 0, 3, [1, 2])] ∧ m.fb.heldChunks = [] ∧ (m.th.ring 0).free ≠ 0) ∧
    (let m := (linked id).now
     m.importBad 1023 0x8000000100000001 = none ∧ m.importBad 1023 0x8000000100000000 = some 0 ∧ m.importBad 1023 0x800000010000FF00 = none ∧
       m.importBad 1023 0x80000001FF000000 = some 1) ∧
    (let m := (linked id).now; m.mcBusy = false ∧ m.mcInFlight 255 = false) ∧
    (let m := (linked fun m => { m with fb := { m.fb with mcbusy := [(255, 1)] } }).now; m.mcBusy = false ∧ m.mcInFlight 255 = true) ∧
    (let m := (linked fun m => { m with fb := { m.fb with mccmd := BitVec.ofNat 64 (2 ^ 63 + 2 ^ 9 + 255) } }).now
     m.mcBusy = true ∧ fld m.fb.mccmd.toNat 0 8 = 255 ∧ m.mcInFlight 255 = false ∧ bit m.fb.mccmd.toNat 9 = true) := by
  refine ⟨?_, ?_, ?_, ?_, ?_, ?_, ?_, ?_, ?_, ?_, ?_, ?_, ?_, ?_, ?_, ?_⟩ <;> decide +kernel

/-- A VERSIONED page at address 0 whose overflow area starts at 0x20000. -/
def cellPage : TlbEntry := { page0 0 0 with w0 := (page0 0 0).w0 + 0x1000000000000000, w1 := 0x8000000000020000 }
/-- The machine with the host holding half-line 1 as given. -/
def hosted (r : HostHold) (f : Memory → Memory) : State :=
  rm fun m => { (m.setHold 1 r) with mm := f { (m.setHold 1 r).mm with hostDown := false }, silo := { m.silo with hdmWindow := 0x10000000000 } }
/-- Whether an answer is there. -/
def isOk {ε α : Type} : Except ε α → Bool
  | .ok _ => true
  | .error _ => false

theorem hyp_HomesAndPorts :
    (∀ z ∈ [(0x01, []), (0x03, []), (0x02, leBytes 0 72)], let m := (linkedTo cellPage id).now
     let q := msg (BitVec.ofNat 8 z.1) 0 0x40 z.2
     m.carries = true ∧ m.fb.parked = [] ∧ badMessage q = false ∧ (match m.importHome (fld q.src.toNat 0 10) q.offset.toNat 64 with | .ok va => va == 0x40 | .error _ => false) = true) ∧
    (let m := (linkedTo cellPage id).now
     let q := msg 2 0 0x40 (leBytes 0 8 ++ leBytes 1 64)
     let w := q.carried
     isOk (m.homeCellLoad (m.remoteAcc true) 0x40) = true ∧
       isOk (m.homeCellStore (m.remoteAcc true) 0x40 (numOf q.payload 0 8) (q.payload.drop 8) w.wid.toNat w.wctr.toNat) = true ∧
       isOk (m.homeCellReconcile (m.remoteAcc true) 0x40 0 w.wid.toNat w.wctr.toNat) = true) ∧
    (let m := (linked fun m => m.poke 0 [0x53, 0x4B, BitVec.ofNat 8 (skCode .hhk)]).now
     let q := msg 4 2 0 ([0x53, 0x4B, BitVec.ofNat 8 (skCode .hhk)] ++ leBytes 0 1021)
     skOf q.aux.toNat = some .hhk ∧ badMessage q = false ∧ isOk (m.importHome (fld q.src.toNat 0 10) q.offset.toNat 1024) = true ∧
       isOk (m.homeMerge (m.remoteAcc true) 0 .hhk q.payload) = true) ∧
    (let m := (linked fun m => m.poke 8 [1]).now
     let q := msg 5 0 0 (leBytes 0 8 ++ leBytes 1 2 ++ leBytes 0 10)
     q.kind = 5 ∧ badMessage q = false ∧ 16 + 4 * numOf q.payload 8 2 = 20 ∧ isOk (m.importHome (fld q.src.toNat 0 10) q.offset.toNat 20) = true ∧
       isOk (m.homeRsc (m.remoteAcc true) 0 (numOf q.payload 8 2) q.payload) = true) ∧
    (let m := (linked id).now
     let q := msg 1 0 0x10000 []
     m.carries = true ∧ q.kind = 1 ∧ badMessage q = false ∧
       (match m.importHome (fld q.src.toNat 0 10) q.offset.toNat 64 with | .ok _ => false | .error c => c == Cause.remoteUnmapped) = true) ∧
    (∀ r ∈ [HostHold.I, .S, .M], let m := (hosted r id).now
     m.mm.hostDown = false ∧ 0x7F < m.silo.hdmWindow.toNat ∧ 2 ^ 40 - 1 < m.silo.hdmWindow.toNat ∧ isHbm 0x7F = true ∧ isHbm (2 ^ 40 - 1) = true ∧
       m.migratingFrame 0x7F = false ∧ m.fb.parked = [] ∧ m.fb.rdmaHeld = [] ∧ m.mm.late = [] ∧ m.held (0x7F / 64) = r ∧ m.cellOf (0x7F / 64) = none ∧ 0x7F / 64 ∉ m.mm.poison ∧
       ∀ g, g < 8 → (m.group g).valid = false) ∧
    (let m := (hosted .I fun x => { x with hostDown := true }).now; m.mm.hostDown = true ∧ m.fb.parked = [] ∧ m.fb.rdmaHeld = [] ∧ m.mm.late = []) ∧
    (let m := (hosted .I fun x => { x with poison := [1] }).now; 0x7F / 64 ∈ m.mm.poison ∧ m.cellOf 1 = none) ∧
    (∀ r ∈ [HostHold.S, .M], let m := (hosted r fun x => { x with snoops := [1] }).now
     m.cellOf 1 = none ∧ 0x40 / 64 ∈ m.mm.snoops ∧ m.held (0x40 / 64) = r ∧ m.mm.hostDown = false ∧ m.mm.snoops ≠ []) ∧
    (rm id).now.mm.snoops = [] ∧
    (rm fun m => { m with mm := { m.mm with poolDown := false } }).now.mm.poolDown = false ∧
    (let e := cE (.rst 8 9) 0x4000000000000040 .started
     let s := cQ e
     s.now.th.x.c1q = [e] ∧ e.phase = .started ∧ aperture e.addr = 4) ∧
    ((rm id).now.keyed = false ∧ (linked id).now.fb.ethUp = []) ∧
    (let m := (linked fun m => { m with fb := { m.fb with ethUp := [9] } }).now
     m.keyed = true ∧ m.fb.ethUp ≠ [] ∧ m.fb.rdmaHeld = [] ∧ plainBy m (rdmaAcc 0) (page0 0 0) 0x7F 1 0x7F = true) := by
  refine ⟨?_, ?_, ?_, ?_, ?_, ?_, ?_, ?_, ?_, ?_, ?_, ?_, ?_, ?_⟩ <;> decide +kernel

/-- The machine with Silo's state changed. -/
def siloed (f : Silo → Silo) : State := rm fun m => { m with silo := f m.silo }
/-- The same, at a cycle. -/
def siloedAt (n : Nat) (f : Silo → Silo) : State := rm fun m => { m with silo := f m.silo, clk := { m.clk with cycle := n } }
/-- An image of Meadow, signed well or not. -/
def image (b : Bool) : Image := ⟨.meadow, [1], b⟩

theorem hyp_PowerAndTenancy :
    (rm id).now.silo.power = .booting 1 ∧
    (∀ b ∈ [true, false], let x := (siloed fun x => { x with power := .booting 2, flash := [image b] }).now.silo
     x.power = .booting 2 ∧ image b ∈ x.flash ∧ (image b).signed = b ∧ ∀ i ∈ x.flash, i.signed = b) ∧
    (∀ n ∈ [3, 4, 5, 6, 7, 8], (siloed fun x => { x with power := .booting n }).now.silo.power = .booting n) ∧
    (∀ n ∈ [98, 99], (siloed fun x => { x with power := .up, overMs := n }).now.silo.overMs = n) ∧
    (109 ∈ [109].take 6 ∧ 110 ∈ [20, 20, 20, 20, 20, 110].take 6 ∧ (siloed fun x => { x with power := .up }).now.silo.power = .up) ∧
    (∀ t ∈ [TState.ready, .leased, .failed, .scrub, .attest, .health, .release], let x := (siloed fun x => { x with power := .up, tstate := t }).now.silo
     x.power = .up ∧ x.tstate = t ∧ x.suspended = false) ∧
    (rm id).now.silo.power ≠ .up ∧
    (let x := (siloed fun x => { x with power := .up, powerFault := true }).now.silo; x.power = .up ∧ x.powerFault = true) ∧
    (∀ b ∈ [true, false], let x := (siloed fun x => { x with power := .up, tstate := .attest, flash := [image b] }).now.silo
     x.tstate = .attest ∧ image b ∈ x.flash ∧ (image b).kind = .meadow ∧ ∀ i ∈ x.flash, i.kind = .meadow → i.signed = b) ∧
    (((range' 0 36).filter fun n => !bit (0xFFFFFFFF0 : BitVec 36).toNat n).length = 4 ∧ ((range' 0 36).filter fun n => !bit (0xFFFFFFFE0 : BitVec 36).toNat n).length = 5) ∧
    (BitVec.allOnes 128 - 1 ≠ BitVec.allOnes 128 ∧ BitVec.allOnes 16 - 1 ≠ BitVec.allOnes 16) ∧
    (siloed fun x => { x with power := .off }).now.silo.power = .off ∧ (3961 > 3960 ∧ 3400 ≤ 3600 ∧ 3399 < 3400) ∧
    (∀ b ∈ [true, false], let x := (siloed fun x => { x with warm := b }).now.silo; x.power = .booting 1 ∧ x.warm = b) ∧
    (∀ z ∈ [(true, 51000000000), (false, 51000000000), (true, 50999999999), (false, 50999999999)],
      let m := (siloedAt z.2 fun x => { x with power := .shutdown 0 z.1 }).now
     m.silo.power = .shutdown 0 z.1 ∧ m.clk.cycle = z.2) ∧
    (rm id).now.silo.powerFault = false ∧
    (∀ z ∈ [(TState.scrub, 425000001), (.attest, 850000001), (.health, 17000000001)], let m := (siloedAt z.2 fun x => { x with power := .up, tstate := z.1 }).now
     m.silo.power = .up ∧ m.silo.tstate = z.1 ∧ m.silo.suspended = false ∧ m.silo.entered + 425000000 < m.clk.cycle ∧
       (z.1 = .attest → m.silo.entered + 850000000 < m.clk.cycle) ∧ (z.1 = .health → m.silo.entered + 17000000000 < m.clk.cycle)) ∧
    (1024 : Nat) ≤ 1024 := by
  refine ⟨?_, ?_, ?_, ?_, ?_, ?_, ?_, ?_, ?_, ?_, ?_, ?_, ?_, ?_, ?_, ?_, ?_⟩ <;> decide +kernel

/-- A group message of device `src` in GID 5. -/
def gmsg (src : BitVec 16) (kind : BitVec 8) (p : List Byte) : TunnelMsg := ⟨kind, 0, 3, src, BitVec.ofNat 16 p.length, 0, 5, p, src.setWidth 10, false, Carried.none⟩
/-- The machine with that group, whose slot is in focus, at cycle `t`, with DEVID 2. -/
def groupedAt (t : Nat) (self st : Nat) (f : Group → Group) : State :=
  ((grouped self st 0 f).on fun m => { m with gfocus := 1, clk := { m.clk with cycle := t }, fb := { m.fb with devid := 0x8000000000000002 } }).on
    fun m => { m with silo := { m.silo with keys := 1, tstate := .leased } }
/-- One region of two lines from address 0, and half-line 0 protected as its first line. -/
def region0 (g : Group) : Group :=
  { g with greg0 := Tab.set 0 [] 4 0x8000000000000000, greg1 := Tab.set 0 [] 4 2, pmap := Tab.set 0 [] 0 (lineName 4 0 + 1) }
/-- A payload of a round number, a byte, a region, a byte offset and more. -/
def payload (n a r off : Nat) (l : List Byte) : List Byte := leBytes n 6 ++ leBytes a 1 ++ leBytes r 1 ++ leBytes off 8 ++ l
/-- A journal entry for that line. -/
def entry0 : JEntry := ⟨4, 0, false, false, false, 9⟩
/-- A gate that lets a message pass, and its form. -/
def passes (s : State) (q : TunnelMsg) (j : Nat) : Bool :=
  s.now.carries && !badMessage q && (match s.now.groupGate q with | .ok p => p == (1, j) | .error _ => false) && (s.now.group 1).valid

theorem hyp_GroupEvents_messages :
    (∀ z ∈ [(0x10, leBytes 0 80), (0x11, leBytes 0 6), (0x12, leBytes 0 7), (0x13, leBytes 0 6), (0x14, leBytes 0 20), (0x15, leBytes 0 6), (0x16, leBytes 0 6)],
      let q := gmsg 9 (BitVec.ofNat 8 z.1) z.2
      (groupedAt 0 1 0 id).now.carries = true ∧ badMessage q = false ∧ (match (groupedAt 0 1 0 id).now.groupGate q with | .ok _ => false | .error c => c == Cause.groupConfig) = true ∧
        badMessage (gmsg 9 (BitVec.ofNat 8 z.1) (0 :: z.2)) = true) ∧ (rs []).now.carries = false ∧
    (let s := groupedAt 0 2 0 fun g => { region0 g with chain := [entry0] }
     let q := gmsg 1 0x10 (payload 6 0 4 0 (leBytes 5 64))
     let g := s.now.group 1
     passes s q 0 = true ∧ q.kind = 0x10 ∧ leNat ((q.payload.drop 7).take 1) = 4 ∧ leNat ((q.payload.drop 8).take 8) = 0 ∧ g.regionValid 4 = true ∧
       0 + (q.payload.length - 16) ≤ 64 * g.regionLines 4 ∧ g.isData = false ∧ msgRound q = g.round ∧ g.state = 0 ∧ q.payload.length = 80 ∧
       bit q.flags.toNat 1 = false ∧ g.chain = [entry0] ∧ entry0.name = lineName 4 (0 / 64)) ∧
    (let s := groupedAt 0 1 0 id; passes s (gmsg 1 0x10 (payload 6 0 4 0 (leBytes 5 64))) 0 = true ∧ (s.now.group 1).isData = true ∧ (s.now.group 1).state ≠ 2) ∧
    (let s := groupedAt 0 2 2 id
     passes s (gmsg 1 0x10 (payload 7 0 4 0 (leBytes 5 64))) 0 = true ∧ (s.now.group 1).isData = false ∧ msgRound (gmsg 1 0x10 (payload 7 0 4 0 (leBytes 5 64))) = 7) ∧
    (∀ st ∈ [0, 1, 2], ∀ b ∈ [true, false], ∀ self ∈ [1, 2], let s := groupedAt 0 self st fun g => { g with noReason := if b then some 9 else none }
     let q := gmsg 1 0x11 (leBytes 6 6)
     passes s q 0 = true ∧ q.kind = 0x11 ∧ (s.now.group 1).rebuilding = false ∧ (s.now.group 1).admitting = false ∧ msgRound q = (s.now.group 1).round ∧
       (s.now.group 1).state = st ∧ (s.now.group 1).noReason = (if b then some 9 else none) ∧ (s.now.group 1).isData = decide (self = 1) ∧ (s.now.group 1).vote = none) ∧
    (∀ f ∈ [fun g : Group => { g with busy := .rebuilding ⟨2, 6, [0, 1], [], []⟩ }, fun g => { g with valid := false, busy := .admitting 2 0 [] }], let s := groupedAt 0 2 0 f
     (passes (s.on fun m => m.modGroup 1 fun g => { g with valid := true }) (gmsg 1 0x11 (leBytes 6 6)) 0 = true ∧
       isOk (s.now.groupGate (gmsg 1 0x11 (leBytes 6 6))) = true) ∧ ((s.now.group 1).rebuilding = true ∨ (s.now.group 1).admitting = true)) ∧
    (∀ st ∈ [3, 4], let s := groupedAt 0 1 st id
     let q := gmsg 1 0x11 (leBytes 7 6)
     passes s q 0 = true ∧ (s.now.group 1).rebuilding = false ∧ (s.now.group 1).admitting = false ∧ (s.now.group 1).round < msgRound q ∧ (s.now.group 1).isData = true) ∧
    (∀ a ∈ [0, 1], ∀ st ∈ [0, 1, 2, 3, 4], let s := groupedAt 0 2 st id
     let q := gmsg 1 0x12 (leBytes 6 6 ++ leBytes a 1)
     passes s q 0 = true ∧ q.kind = 0x12 ∧ leNat ((q.payload.drop 6).take 1) = a ∧ msgRound q = (s.now.group 1).round ∧ (s.now.group 1).state = st) ∧
    (let s := groupedAt 0 2 0 id; passes s (gmsg 1 0x13 (leBytes 6 6)) 0 = true ∧ 0 ∉ (s.now.group 1).spares) ∧
    (let s := groupedAt 0 2 0 id; passes s (gmsg 1 0x14 (payload 5 4 0 0 (leBytes 64 4))) 0 = true ∧ msgRound (gmsg 1 0x14 (payload 5 4 0 0 (leBytes 64 4))) ≠ (s.now.group 1).glast) ∧
    (∀ l ∈ [[entry0], []], let s := groupedAt 0 1 0 fun g => { region0 g with chain := l }
     let q := gmsg 1 0x14 (payload 6 4 0 0 (leBytes 64 4))
     let g := s.now.group 1
     passes s q 0 = true ∧ msgRound q = g.glast ∧ leNat ((q.payload.drop 6).take 1) = 4 ∧ g.regionValid 4 = true ∧ leNat ((q.payload.drop 8).take 8) = 0 ∧
       leNat ((q.payload.drop 16).take 4) = 64 ∧ 0 + 64 ≤ 64 * g.regionLines 4 ∧ g.isData = true ∧ g.chain = l ∧ g.homeOfLine (lineName 4 0) = some 0 ∧
       0 ∉ s.now.mm.poison ∧ g.cellAt 0 = none) ∧
    (∀ z ∈ [(3, 6), (3, 5), (4, 5), (0, 5), (2, 5)], let s := groupedAt 0 2 z.1 fun g => { g with retained := some (z.2, []) }
     passes s (gmsg 1 0x15 (leBytes z.2 6)) 0 = true ∧ (s.now.group 1).revokedAt z.2 = false ∧ (s.now.group 1).retained = some (z.2, []) ∧ (s.now.group 1).state = z.1) ∧
    (let s := groupedAt 0 2 3 fun g => g.setLog 6 3 true 0; passes s (gmsg 1 0x15 (leBytes 6 6)) 0 = true ∧ (s.now.group 1).revokedAt 6 = true) ∧
    (let s := groupedAt 0 2 3 id; (s.now.group 1).revokedAt 6 = false ∧ (s.now.group 1).retained = none) ∧
    (let s := groupedAt 0 2 0 id; passes s (gmsg 2 0x16 (leBytes 6 6)) 1 = true ∧ (s.now.group 1).coordinates = false) ∧
    (∀ v ∈ [none, some (⟨6, 0, []⟩ : Vote)], ∀ st ∈ [0, 3], let s := groupedAt 0 0 st fun g => { g with vote := v }
     let q := gmsg 2 0x16 (leBytes 6 6)
     let g := s.now.group 1
     passes s q 1 = true ∧ g.coordinates = true ∧ msgRound q = g.round ∧ g.state = st ∧ g.vote = v ∧ g.isData = true ∧ g.noReason = none ∧ g.others ≠ [] ∧
       ∀ k ∈ g.others, g.isLive k = true) := by
  refine ⟨?_, ?_, ?_, ?_, ?_, ?_, ?_, ?_, ?_, ?_, ?_, ?_, ?_, ?_, ?_, ?_, ?_⟩ <;> decide +kernel

/-- The group before it is in force, ready to be created on DEVID 2. -/
def planned (g : Group) : Group :=
  { g with valid := false, jsize := 2, gmem := [(0, 0x8000000000040401), (1, 0x8000000004080002), (2, 0x80000000080C0003)] }

/-- The group with member 2 lost and the word of a spare staged in its place. -/
def spared (g : Group) : Group := { planned g with valid := true, live := 3, gstage := [(2, some 0x80000000080C0004)] }

theorem hyp_GroupEvents_commands :
    (let m := (groupedAt 0 1 3 planned).now; m.gfocus = 1 ∧ (m.group 1).busy = .idle ∧ m.createCheck 1 = none ∧ 1 < (m.group 1).size ∧ (m.group 1).dev 1 = m.devid) ∧
    (groupedAt 0 1 3 id).now.createCheck 1 = some Cause.groupConfig ∧
    (∀ t ∈ [4095, 4096], ∀ b ∈ [GBusy.creating 0 [], .admitting 2 0 []], let m := (groupedAt t 1 3 fun g => { g with busy := b }).now
     m.gfocus = 1 ∧ (m.group 1).busy = b ∧ (m.group 1).busy ≠ .idle ∧ (m.group 1).gtlim = 4096 ∧ m.clk.cycle = t) ∧
    (∀ st ∈ [0, 2, 3, 4], let m := (groupedAt 0 1 st id).now; m.gfocus = 1 ∧ (m.group 1).busy = .idle ∧ (m.group 1).state = st ∧ (m.group 1).lost = false ∧
      (m.group 1).fenced = false ∧ (m.group 1).valid = true) ∧
    (∀ st ∈ [2, 3], ∀ f ∈ [spared, fun g : Group => { spared g with gstage := [] }], let g := (groupedAt 0 1 st f).now.group 1
     let w := (Tab.get none g.gstage 2).getD (Tab.get 0 g.gmem 2)
     g.busy = .idle ∧ g.valid = true ∧ g.lost = false ∧ 2 < g.size ∧ g.isLive 2 = false ∧ (∀ k, k < g.size → k ≠ 2 → g.dev k ≠ fld w.toNat 0 10) ∧
       ({ g with gmem := Tab.set 0 g.gmem 2 w } : Group).crowded = false ∧ g.state = st) ∧
    (let m := (groupedAt 0 1 3 planned).now; (m.group 1).busy = .idle ∧ (m.group 1).valid = false ∧ m.createCheck 1 = none ∧ 1 < (m.group 1).size ∧ (m.group 1).dev 1 = m.devid) ∧
    ((groupedAt 0 1 3 id).now.group 1).isLive 2 = true ∧
    (let g := (groupedAt 0 1 3 fun g => { region0 g with degraded := true }).now.group 1; g.valid = true ∧ g.degraded = true) ∧
    (let g := (groupedAt 0 1 3 region0).now.group 1; g.degraded = false ∧ g.regionValid 4 = true ∧ 1 < g.regionLines 4 ∧ g.sources = some [0, 2]) ∧
    (bit (0 : Word64).toNat 63 = false ∧ ((groupedAt 0 1 3 region0).now.group 1).regionValid 5 = false) ∧
    (let m := (groupedAt 0 1 0 id).now
     let g := m.group 1
     m.gfocus = 1 ∧ g.busy = .idle ∧ g.voteReq = false ∧ g.vote = none ∧ g.takeover = none ∧ g.hbWait = []) ∧
    (let g := (groupedAt 0 1 0 fun g => { g with hbWait := [2] }).now.group 1; g.hbWait = [2] ∧ 2 < g.size ∧ g.isLive 2 = true ∧ 2 ≠ g.self ∧ 2 ≠ g.coord) ∧
    (∀ t ∈ [4095, 4096], ∀ b ∈ [true, false], let m := (groupedAt t 0 1 fun g => { g with vote := some ⟨6, 0, []⟩, noReason := if b then some 9 else none }).now
     let g := m.group 1
     m.gfocus = 1 ∧ g.vote = some ⟨6, 0, []⟩ ∧ g.round = 6 ∧ g.round < 2 ^ 48 ∧ g.state < 3 ∧ g.mayDecide = true ∧ g.gtlim = 4096 ∧ m.clk.cycle = t ∧
       g.noReason = if b then some 9 else none) ∧
    (∀ t ∈ [4095, 4096], ∀ st ∈ [0, 3], let m := ((roundHeld 1 st 0 (held0 none) id).on fun m => { m with gfocus := 1, clk := { m.clk with cycle := t } }).now
     m.gfocus = 1 ∧ (m.ctx 0).u.roundHold = some (held0 none) ∧ (held0 none).slot = 1 ∧ (held0 none).answer = none ∧ (held0 none).op = .rcmt 3 1 ∧ (m.group 1).gtlim = 4096 ∧
       (m.group 1).decidedAt 6 = decide (st = 3)) ∧
    ∀ k, k < 64 → ((roundHeld 1 0 0 (held0 none) id).now.queue k).busy = none := by
  refine ⟨?_, ?_, ?_, ?_, ?_, ?_, ?_, ?_, ?_, ?_, ?_, ?_, ?_, ?_, ?_⟩ <;> decide +kernel

/-- The machine with page 0 mapped and queue `k` changed, in focus. -/
def qd (k : Nat) (f : Queue → Queue) : State := (paged 0 id).on fun m => { m.modQueue k f with qfocus := k }
/-- The same, with the group whose DEVIDs are 1 to 3 in slot 1. -/
def qgroup (k self st : Nat) (f : Group → Group) : State := ((grouped self st 0 f).on fun m => { m with qfocus := k }).on fun m => m.modQueue k id
/-- A header without a completion event. -/
def hdr0 : CmdHdr := ⟨false, 0⟩
/-- A condition word of WAIT on counter 3. -/
def cond (v : Bool) (n : Nat) : WaitCond := ⟨BitVec.ofNat 48 n, v, 3⟩
/-- A started memory command of number 4. -/
def mem0 (mop : Nat) (src dst : Word64) (n : Nat) : MemCmd := ⟨4, hdr0, mop, src, dst, n, 0x0807060504030201, 0, 0, 0, .none⟩
/-- A launch record of NTHR threads at 0x100. -/
def recordOf (nthr : Nat) (m : Module) : Module := m.poke 0x118 (leBytes nthr 2)
/-- Whether the record at 0x100 reads as a launch that a test accepts, with the module once it has been read. -/
def recordIs (m : Module) (f : Module → Option Launch → Bool) : Bool :=
  match m.readV 0 (m.queue 5).asid 0x100 256 with
  | .ok (b, m0) => f m0 (parseLaunch 5 (m.level 5) (m.queue 5).asid (m.queue 5).head hdr0 b)
  | .error _ => false
/-- A queue in service whose ring is at address 0, with one entry. -/
def ringed (b : List Byte) (f : Queue → Queue) : State :=
  (qd 5 fun x => f { x with cfg := 0x61, tail := 1 }).on fun m => m.poke 0 b
/-- Whether an answer is a next state. -/
def goesOn (o : Out) : Bool := match o with | .next _ => true | _ => false
/-- What the queue would take next, where it is a command. -/
def nextIs (s : State) (f : Instr → Module → Bool) : Bool := match s.now.nextCommand 5 with | some (.ok i, m0) => f i m0 | _ => false
/-- An atomic add of 8 bytes to counter 3 of device 2 that has been sent. -/
def added : Outgoing := ⟨8, 2057, 2, 35, some 0, false, 0, [], .request 1 8 (postBase + 24) false (.atomic .add true 1 0)⟩

theorem hyp_CommandQueues :
    (∀ v ∈ [0x61, 0xF1], ((qd 5 id).now.queue 5).enabled = false ∧ bit (BitVec.ofNat 64 v).toNat 0 = true ∧ 6 ≤ fld (BitVec.ofNat 64 v).toNat 4 4) ∧
    (((qd 5 id).now.queue 5).enabled = false ∧ bit (0x51 : Word64).toNat 0 = true ∧ fld (0x51 : Word64).toNat 4 4 < 6) ∧
    ((qd 5 fun x => { x with cfg := 0x61 }).now.queue 5).enabled = true ∧
    (let x := (qd 5 fun x => { x with cfg := 0x61, head := 0xFFFFFFFF }).now.queue 5; ((63 : Word32) - x.head).toNat ≤ x.entries ∧ x.entries < ((64 : Word32) - x.head).toNat) ∧
    (let m := (rm fun m => { m with fe := { m.fe with evcnt := [(3, 5)] } }).now
     m.counter 3 ≤ fld (5 : Word64).toNat 0 48 ∧ fld (4 : Word64).toNat 0 48 < m.counter 3) ∧
    (rs []).now.fe.dropped = 0 ∧
    ((launched (List.replicate 256 launch0)).now.lu.launches.length = 256 ∧ (launched (List.replicate 255 launch0)).now.lu.launches.length = 255) ∧
    ((1 : Word64).toNat % 256 ≠ 0 ∧ 2 ^ 52 ≤ (0x10000000000000 : Word64).toNat) ∧
    (let s := qd 5 id
     s.now.lu.launches.length < 256 ∧ (s.now.queue 5).replaying = false ∧ recordIs s.now (fun _ l => l.isNone) = true) ∧
    (let s := (qd 5 id).on fun m => (recordOf 1024 m).modCore 0 fun c => { c with disabled := true }
     s.now.lu.launches.length < 256 ∧ (s.now.queue 5).replaying = false ∧ recordIs s.now (fun _ l => (l.map fun l => l.cores s.now.enabled) == some none) = true) ∧
    (let s := (qd 5 id).on (recordOf 1)
     s.now.lu.launches.length < 256 ∧ (s.now.queue 5).replaying = false ∧
       recordIs s.now (fun m0 l => isOk (Machine.translate m0 0 none 0 0 .fetch true) && (l.map fun l => (l.cores s.now.enabled).isSome && l.code == 0) == some true) = true) ∧
    (let s := qd 5 id
     (s.now.queue 5).replaying = false ∧ hdr0.cev = false ∧ (∀ w ∈ [cond false 9, cond true 0], w.valid = true → w.thresh.toNat ≤ s.now.counter w.counter.toNat) ∧
       ¬∀ w ∈ [cond true 1], w.valid = true → w.thresh.toNat ≤ s.now.counter w.counter.toNat) ∧
    (∀ n ∈ [0, 1], let s := qd 5 fun x => { x with waiting := some (hdr0, [cond true n]) }
     s.now.qfocus = 5 ∧ (s.now.queue 5).waiting = some (hdr0, [cond true n]) ∧
       (n = 0 → ∀ w ∈ [cond true n], w.valid = true → w.thresh.toNat ≤ s.now.counter w.counter.toNat) ∧
       (n = 1 → ¬∀ w ∈ [cond true n], w.valid = true → w.thresh.toNat ≤ s.now.counter w.counter.toNat)) ∧
    (∀ d ∈ [mem0 1 0 0x40 9, mem0 0 0x80 0x40 64], let s := qd 5 fun x => { x with mems := [d] }
     (s.now.queue 5).replaying = false ∧ (s.now.queue 5).mems = [d] ∧ d.id = 4 ∧ d.pf = .none ∧ d.hdr.cev = false ∧ fld d.src.toNat 62 2 = 0 ∧
       fld d.dst.toNat 62 2 = 0 ∧ plainBy s.now (s.now.frontAcc 5) (page0 0 0) (fld d.dst.toNat 0 52) d.len 0x40 = true) ∧
    (let s := qd 5 fun x => { x with mems := [mem0 0 0x80 0x40 64] }; plainBy s.now (s.now.frontAcc 5) (page0 0 0) 0x80 64 0x80 = true) ∧
    (let s := (qd 5 fun x => { x with mems := [mem0 2 0x80 0x40 64] }).on fun m => { m with silo := { m.silo with keys := 1, tstate := .leased }, fb := { m.fb with ethUp := [9] } }
     (s.now.queue 5).replaying = false ∧ (s.now.queue 5).mems = [mem0 2 0x80 0x40 64] ∧ s.now.keyed = true ∧ s.now.fb.ethUp ≠ [] ∧
       plainBy s.now (s.now.frontAcc 5) (page0 0 0) 0x80 64 0x80 = true) ∧
    (let m := (linked fun m => { m with fb := { m.fb with outbox := [added] } }).now
     (m.queue 5).replaying = false ∧ (2 : Nat) ≠ m.devid ∧ m.fb.outbox = [added] ∧ m.combinesWith 2057 2 (postBase + 24) .add true added = true) ∧
    (let m := (linked id).now; (2 : Nat) ≠ m.devid ∧ ∀ y ∈ m.fb.outbox, y.dev ≠ 2) ∧
    Cause.memPoison ≠ 0 := by
  refine ⟨?_, ?_, ?_, ?_, ?_, ?_, ?_, ?_, ?_, ?_, ?_, ?_, ?_, ?_, ?_, ?_, ?_, ?_, ?_⟩ <;> decide +kernel

/-- What the ROUND commands ask of queue 5 and slot 1 before anything else. -/
def qready (s : State) (k : Nat) : Bool :=
  (s.now.queue k).replaying == false && s.now.slotOf 5 (s.now.queue k).asid == some 1 && !(s.now.group 1).fenced && !(s.now.group 1).lost

theorem hyp_CommandQueues_rounds :
    ((qd 5 id).now.queue 5).replaying = false ∧ (qd 5 id).now.slotOf 5 ((qd 5 id).now.queue 5).asid = none ∧
    (let s := qgroup 5 0 3 fun g => { g with fenced := true }; (s.now.queue 5).replaying = false ∧ s.now.slotOf 5 (s.now.queue 5).asid = some 1 ∧ (s.now.group 1).fenced = true) ∧
    (let s := qgroup 5 0 3 fun g => { g with lost := true }
     (s.now.queue 5).replaying = false ∧ s.now.slotOf 5 (s.now.queue 5).asid = some 1 ∧ (s.now.group 1).fenced = false ∧ (s.now.group 1).lost = true) ∧
    (∀ st ∈ [3, 4], let s := qgroup 5 0 st id
     qready s 5 = true ∧ (s.now.group 1).state = st ∧ (s.now.group 1).degraded = false ∧ (s.now.group 1).rebuilding = false ∧ 7 = (s.now.group 1).round + 1) ∧
    (let s := qgroup 5 0 3 fun g => { g with degraded := true }; qready s 5 = true ∧ (s.now.group 1).state = 3 ∧ (s.now.group 1).degraded = true) ∧
    (let s := qgroup 5 2 0 id; qready s 5 = true ∧ (s.now.group 1).state = 0 ∧ (s.now.group 1).isData = false ∧ (s.now.group 1).vote = none) ∧
    (let s := qgroup 5 2 2 id; qready s 5 = true ∧ (s.now.group 1).state = 2 ∧ (s.now.group 1).coordinates = false) ∧
    (let s := qgroup 60 1 3 id; qready s 60 = true ∧ (s.now.group 1).mayRevoke 6 = false) ∧
    (let s := qgroup 60 0 3 fun g => { g with retained := some (6, []) }
     qready s 60 = true ∧ (s.now.group 1).mayRevoke 6 = true ∧ (s.now.group 1).round = 6 ∧ (s.now.group 1).others ≠ []) ∧
    (let s := qgroup 60 1 3 fun g => g.setLog 6 3 false 0
     (s.now.queue 60).replaying = false ∧ firstWhere (fun j => (s.now.group j).valid && (s.now.group j).gid == 5) (range' 0 8) = some 1 ∧
       (s.now.group 1).logs 6 = true ∧ fld ((s.now.group 1).log 6).toNat 61 3 = 3) ∧
    ((qd 5 id).now.devid ≠ 9 ∧ ((qd 5 id).now.queue 5).replaying = false) := by
  refine ⟨?_, ?_, ?_, ?_, ?_, ?_, ?_, ?_, ?_, ?_, ?_, ?_⟩ <;> decide +kernel

theorem hyp_CommandQueues_control :
    (let x := (qd 5 fun x => { x with clusters := [127], noreplay := true }).now.queue 5; 127 ∈ x.clusters ∧ x.noreplay = true) ∧
    (let x := (qd 5 fun x => { x with clusters := [127], replays := 1, rpl := 0x0100000000000000 }).now.queue 5
     127 ∈ x.clusters ∧ x.noreplay = false ∧ x.replays < 2 ∧ fld x.rpl.toNat 56 8 ≠ 0 ∧ x.record.groups = [] ∧ x.mems = [] ∧ x.busy = none ∧
       (0 : Cause) ≠ Cause.katMismatch ∧ (0 : Cause) ≠ Cause.tmrDiverge) ∧
    (∀ n ∈ [0, 1], let s := qd 5 fun x => { x with replaying := true, pos := n, record := { x.record with entries := [.queueStop] } }
     s.now.qfocus = 5 ∧ (s.now.queue 5).replaying = true ∧ (n = 1 → (s.now.queue 5).record.entries.length ≤ (s.now.queue 5).pos) ∧
       (n = 0 → (s.now.queue 5).pos < (s.now.queue 5).record.entries.length)) ∧
    ((qd 5 id).now.qfocus = 5 ∧ ((qd 5 id).now.queue 5).stopped = false ∧ (qd 5 id).now.nextCommand 5 = none) ∧
    (let s := qd 5 fun x => { x with stopped := true, tail := 4 }; s.now.qfocus = 5 ∧ (s.now.queue 5).stopped = true ∧ (s.now.queue 5).mems = []) ∧
    (match (ringed [7] id).now.nextCommand 5 with | some (.error c, _) => c == .cause Cause.cmdFormat | _ => false) = true ∧
    (match ((ringed [7] id).on fun m => m.setHold 0 .M).now.nextCommand 5 with | some (.error c, _) => c == .snoop 0 | _ => false) = true ∧
    (let s := ringed ([5] ++ leBytes 0 7) id
     s.now.qfocus = 5 ∧ (s.now.queue 5).replaying = false ∧ nextIs s (fun i m0 => startsAlone i && m0.queueIdle 5 && goesOn (exec i ⟨m0, none⟩)) = true) ∧
    (let s := ringed ([2] ++ leBytes 0 7) fun x => { x with mems := [mem0 1 0 0x40 9] }
     nextIs s (fun i m0 => !m0.queueIdle 5 && !startsAlone i && goesOn (exec i ⟨m0, none⟩)) = true) ∧
    (let s := ringed ([5] ++ leBytes 0 7) fun x => { x with mems := [mem0 1 0 0x40 9] }
     s.now.qfocus = 5 ∧ nextIs s (fun i m0 => startsAlone i && !m0.queueIdle 5) = true) := by
  refine ⟨?_, ?_, ?_, ?_, ?_, ?_, ?_, ?_, ?_, ?_⟩ <;> decide +kernel

/-- A launch of `n` threads on any cores, in a state. -/
def ready0 (n : Nat) (st : LState) : Launch := { launch0 with nthr := n, tpc := 0, state := st, shadowOk := true, arg := 9 }
/-- The machine with launches and its contexts changed. -/
def lm (l : List Launch) (f : Contexts → Contexts) : State := rm fun m => { m with lu := { m.lu with launches := l, next := 9 }, cx := f m.cx }
/-- A thread of launch 0. -/
def thread0 (st : ThStatus) : Thread := { Thread.idle with status := st, asid := 1, queue := 1 }
/-- Contexts with threads in them. -/
def threads (l : List (Nat × Thread)) (x : Contexts) : Contexts := { x with ctxs := l }
/-- Core 0 alone can take a thread, and its primary is taken: the other cores of its cluster are disabled, the other clusters fused. -/
def crowded0 (x : Contexts) : Contexts :=
  { x with cores := (range' 1 7).map (fun k => (k, { Core.idle with disabled := true })), ctxs := [(0, { thread0 .running with launch := 3 })],
           fused := range' 1 127 }
/-- The machine with core 0 changed. -/
def banks (f : Core → Core) : State := rm fun m => m.modCore 0 f


/-- A leaf that maps the first 2^35 bytes of address space 1 for writes. -/
def wide : TlbEntry := { page0 0 0 with asid := 1, size := 2 ^ 35 }

theorem pieces_within (fuel : Nat) : ∀ (off va n : Nat) (p : Nat × Nat × Nat), p ∈ pieces fuel off va n → p.2.1 < va + n := by
  induction fuel with
  | zero => intro off va n p h; simp [pieces] at h
  | succ k ih =>
    intro off va n p h
    simp only [pieces] at h
    split at h
    · cases h
    · rcases List.mem_cons.mp h with rfl | h
      · simp; omega
      · have := ih _ _ _ p h
        have : Nat.min n (65536 - va % 65536) ≤ n := Nat.min_le_left _ _
        omega

/-- Nothing that a write of the module's own units would wait for, and that leaf alone. -/
def Calm (m : Module) : Prop := m.tr.tlb = [wide] ∧ m.mm.hostHold = [] ∧ m.mm.poison = [] ∧ m.tr.migctl = 0

/-- A fold of parts, each of which succeeds and keeps an invariant. -/
theorem fold_calm {α : Type} (f : Except Miss Module → α → Except Miss Module) (l : List α) :
    ∀ m, Calm m → (∀ a ∈ l, ∀ m, Calm m → ∃ m', f (.ok m) a = .ok m' ∧ Calm m') → ∃ m', l.foldl f (.ok m) = .ok m' ∧ Calm m' := by
  induction l with
  | nil => exact fun m h _ => ⟨m, rfl, h⟩
  | cons a l ih =>
    intro m h step
    obtain ⟨m', e, h'⟩ := step a (by simp) m h
    simp only [List.foldl_cons, e]
    exact ih m' h' fun a ha => step a (by simp [ha])

theorem fold_calm_pair {α : Type} (f : Module × Option Miss → α → Module × Option Miss) (l : List α) :
    ∀ m, Calm m → (∀ a ∈ l, ∀ m, Calm m → ∃ m', f (m, none) a = (m', none) ∧ Calm m') → ∃ m', l.foldl f (m, none) = (m', none) ∧ Calm m' := by
  induction l with
  | nil => exact fun m h _ => ⟨m, rfl, h⟩
  | cons a l ih =>
    intro m h step
    obtain ⟨m', e, h'⟩ := step a (by simp) m h
    simp only [List.foldl_cons, e]
    exact ih m' h' fun a ha => step a (by simp [ha])

theorem register_calm {m : Module} (n r : Nat) (h : Calm m) : Calm (m.register n r) := by
  unfold Module.register; dsimp only; split <;> exact h

theorem translate_wide {m : Module} {x : Nat} (h : Calm m) (hx : x < 2 ^ 35) : ∃ ph, Machine.translate m 0 none 1 x .write false = .ok (ph, m) := by
  have e : m.leafHeld 0 none 1 x = some wide := by simp [Module.leafHeld, h.1, tlbFind, TlbEntry.holds, firstWhere, wide, page0]; omega
  have p : permits wide.w0.toNat .write false = true := by decide
  have d : bit wide.w0.toNat 7 = true := by decide
  exact ⟨_, by simp only [Machine.translate, e, Module.translateHit, p, d, Bool.not_true, Bool.and_false, Option.isNone_none, Bool.true_or, if_true]; rfl⟩

theorem writeV_wide {m : Module} {va : Nat} {bs : List Byte} (h : Calm m) (hv : va + bs.length ≤ 2 ^ 35) : ∃ m', m.writeV 0 1 va bs = .ok m' ∧ Calm m' := by
  refine fold_calm _ _ m h fun p hp m hm => ?_
  obtain ⟨ph, e⟩ := translate_wide hm (x := p.2.1) (by have := pieces_within _ _ _ _ p hp; omega)
  have g : m.migrating 1 p.2.1 = false := by rw [Module.migrating, hm.2.2.2]; rfl
  simp only [g, e]
  refine fold_calm _ _ m hm fun q _ m hm => ?_
  have a : m.held (q.2.1 / 64) = .I := by rw [Module.held, hm.2.1]; rfl
  have b : m.mm.poison.contains (q.2.1 / 64) = false := by rw [hm.2.2.1]; rfl
  simp only [a, b, ne_eq, not_true_eq_false, Bool.false_and]
  refine ⟨_, rfl, register_calm _ _ ⟨hm.1, hm.2.1, ?_, hm.2.2.2⟩⟩
  show List.filter _ m.mm.poison = []
  rw [hm.2.2.1]; rfl

theorem writeUpTo_wide {m : Module} {va : Nat} {bs : List Byte} (h : Calm m) (hv : va + bs.length ≤ 2 ^ 34) :
    ∃ m', m.writeUpTo 0 1 va bs = (m', none) ∧ Calm m' := by
  refine fold_calm_pair _ _ m h fun p hp m hm => ?_
  have hl : ((bs.drop p.1).take p.2.2).length ≤ bs.length := by rw [List.length_take, List.length_drop]; omega
  have := pieces_within _ _ _ _ p hp
  obtain ⟨m', e, h'⟩ := writeV_wide (va := p.2.1) (bs := (bs.drop p.1).take p.2.2) hm (by omega)
  exact ⟨m', by simp only [e], h'⟩

theorem length_range' (n : Nat) : ∀ a, (range' a n).length = n := by
  induction n with
  | zero => intro a; rfl
  | succ k ih => intro a; simp [range', ih]

theorem length_leBytes (n : Nat) : ∀ x, (leBytes x n).length = n := by
  induction n with
  | zero => intro x; rfl
  | succ k ih => intro x; simp [leBytes, ih]

/-- A part of an image is no longer than an image of the scratchpad. -/
theorem saveImage_length (t : Thread) (free : List Byte) (p : Nat × List Byte) (h : p ∈ t.saveImage free) : p.1 ≤ 2 ^ 21 ∧ p.2.length ≤ 2 ^ 21 := by
  simp only [Thread.saveImage, List.mem_cons, List.mem_nil_iff, or_false] at h
  rcases h with rfl | rfl | rfl | rfl | rfl | rfl | rfl | rfl | rfl | rfl | rfl | rfl | rfl | rfl | rfl | rfl | rfl <;>
    refine ⟨by dsimp only; decide, ?_⟩ <;>
    simp only [Thread.spBytes, List.length_flatMap, length_leBytes, length_range', Tab.length_bytes, padBytes, blockBits, Ring.image, List.length_append,
      List.length_map, List.length_take, List.length_replicate, List.map_const', List.sum_replicate_nat] <;> omega

theorem writeImage_wide {m : Module} {c : Nat} {l : Launch} (h : Calm m) (ha : l.asid = 1) (hc : dieOfCore (coreOf c) = 0)
    (hb : l.ctxbase + (m.ctx c).tidN * ctxImageBytes ≤ 2 ^ 33) : ∃ m', m.writeImage c l = (m', none) := by
  have key : ∀ ps : List (Nat × List Byte), (∀ p ∈ ps, p.1 ≤ 2 ^ 21 ∧ p.2.length ≤ 2 ^ 21) → ∀ m1, Calm m1 → ∃ m', ps.foldl (fun (acc : Module × Option Miss) p =>
      match acc.2 with
      | some _ => acc
      | none => acc.1.writeUpTo (dieOfCore (coreOf c)) l.asid (l.ctxbase + (m.ctx c).tidN * ctxImageBytes + p.1) p.2) (m1, none) = (m', none) ∧ Calm m' := by
    intro ps hp m1 h1
    refine fold_calm_pair _ _ m1 h1 fun p hq m2 h2 => ?_
    obtain ⟨a, b⟩ := hp p hq
    rw [ha, hc]
    exact writeUpTo_wide h2 (by omega)
  obtain ⟨m', e, _⟩ := key _ (fun p hp => saveImage_length (m.ctx c) (m.freeBytes 8448).1 p hp) (m.freeBytes 8448).2 h
  exact ⟨m', e⟩

/-- The machine without a page, at any number of free bytes taken. -/
def blank (n : Nat) : Module :=
  let m := (lm [ready0 1 .saving] (threads [(0, thread0 .running)])).now
  { m with clk := { m.clk with free := n } }
/-- The blank machine with that leaf, and with the host holding half-line 0. -/
def leafed : Module := { blank 0 with tr := { (rm id).now.tr with tlb := [wide] } }
def heldOut (n : Nat) : Module := ({ blank n with tr := { (rm id).now.tr with tlb := [wide] } } : Module).setHold 0 .M

/-- A fold that has failed stays failed. -/
theorem fold_failed {α ε β : Type} (f : Except ε α → β → Except ε α) (hf : ∀ e b, f (.error e) b = .error e) (e : ε) (l : List β) : l.foldl f (.error e) = .error e := by
  induction l with
  | nil => rfl
  | cons a l ih => simp only [List.foldl_cons, hf, ih]

theorem fold_stopped {α : Type} (f : Module × Option Miss → α → Module × Option Miss) (hf : ∀ m e a, f (m, some e) a = (m, some e)) (m : Module) (e : Miss) (l : List α) :
    l.foldl f (m, some e) = (m, some e) := by
  induction l with
  | nil => rfl
  | cons a l ih => simp only [List.foldl_cons, hf, ih]

/-- A module whose first write at address 0 of address space 1 meets a miss. -/
def Stuck (m : Module) (e : Miss) : Prop := ∀ bs : List Byte, bs.length = 65536 → m.writeV 0 1 0 bs = .error e

theorem unmigrated {m : Module} {a v : Nat} (h : bit m.tr.migctl.toNat 63 = false) : m.migrating a v = false := by simp [Module.migrating, h]

theorem blank_stuck (n : Nat) : Stuck (blank n) (.cause Cause.pageNotPresent) := by
  intro bs h
  have e : pagePieces 0 65536 = [(0, 0, 65536)] := by decide
  have k : (match walk (blank 0) 1 0 with | .error c => decide (c = .cause Cause.pageNotPresent) | .ok _ => false) = true := by decide +kernel
  have k' : walk (blank n) 1 0 = .error (.cause Cause.pageNotPresent) := by
    show walk (blank 0) 1 0 = _
    split at k
    · rename_i c hc; rw [hc, of_decide_eq_true k]
    · cases k
  have tl : (blank n).leafHeld 0 none 1 0 = none := rfl
  have g : (blank n).migrating 1 0 = false := unmigrated (show bit (blank 0).tr.migctl.toNat 63 = false by decide +kernel)
  have w : Machine.translate (blank n) 0 none 1 0 .write false = .error (.cause Cause.pageNotPresent) := by simp only [Machine.translate, tl, k']
  simp only [Module.writeV, h, e, List.foldl_cons, List.foldl_nil, g, w, Bool.false_eq_true, if_false]

theorem heldOut_stuck (n : Nat) : Stuck (heldOut n) (.snoop 0) := by
  intro bs h
  have e : pagePieces 0 65536 = [(0, 0, 65536)] := by decide
  have g : (heldOut n).migrating 1 0 = false := unmigrated (show bit (heldOut 0).tr.migctl.toNat 63 = false by decide +kernel)
  have p : permits wide.w0.toNat .write false = true := by decide
  have d : bit wide.w0.toNat 7 = true := by decide
  have t : (heldOut n).leafHeld 0 none 1 0 = some wide := rfl
  have w : ∃ l b, Machine.translate (heldOut n) 0 none 1 0 .write false = .ok (⟨0, l, b⟩, heldOut n) :=
    ⟨_, _, by simp only [Machine.translate, t, Module.translateHit, p, d, Bool.not_true, Bool.and_false, Option.isNone_none, Bool.true_or, if_true]; rfl⟩
  obtain ⟨l, b, w⟩ := w
  have hp : halfPieces 0 65536 = (0, 0, 64) :: (halfPieces 0 65536).tail := by decide +kernel
  have hh : (heldOut n).held 0 = .M := rfl
  simp only [Module.writeV, h, e, List.foldl_cons, List.foldl_nil, g, w, Bool.false_eq_true, if_false]
  rw [hp, List.foldl_cons]
  simp only [Nat.zero_div, hh]
  exact fold_failed _ (fun _ _ => rfl) _ _

theorem writeUpTo_stuck {m : Module} {e : Miss} (w : Stuck m e) {bs : List Byte} (h : bs.length = 1048576) : m.writeUpTo 0 1 0 bs = (m, some e) := by
  have f : pagePieces 0 1048576 = (0, 0, 65536) :: (pagePieces 0 1048576).tail := by decide +kernel
  have w := w ((bs.drop 0).take 65536) (by simp [h])
  rw [Module.writeUpTo, h, f]
  simp only [List.foldl_cons, w]
  exact fold_stopped _ (fun _ _ _ => rfl) _ _ _

theorem spBytes_all (t : Thread) : (t.spBytes 0 1048576).length = 1048576 := by unfold Thread.spBytes; exact Tab.length_bytes _ _ _

/-- An image whose first part meets a miss. -/
theorem writeImage_stops {m m' : Module} {c : Nat} {l : Launch} {e : Miss}
    (w : (m.freeBytes 8448).2.writeUpTo (dieOfCore (coreOf c)) l.asid (l.ctxbase + (m.ctx c).tidN * ctxImageBytes + 0) ((m.ctx c).spBytes 0 1048576) = (m', some e)) :
    (m.writeImage c l).2 = some e := by
  have key : ∀ (ps : List (Nat × List Byte)) (m1 : Module), m1.writeUpTo (dieOfCore (coreOf c)) l.asid (l.ctxbase + (m.ctx c).tidN * ctxImageBytes + 0)
        ((m.ctx c).spBytes 0 1048576) = (m', some e) → (∃ r, ps = (0, (m.ctx c).spBytes 0 1048576) :: r) →
      (ps.foldl (fun (acc : Module × Option Miss) p => match acc.2 with
        | some _ => acc
        | none => acc.1.writeUpTo (dieOfCore (coreOf c)) l.asid (l.ctxbase + (m.ctx c).tidN * ctxImageBytes + p.1) p.2) (m1, none)).2 = some e := by
    rintro ps m1 h ⟨r, rfl⟩
    simp only [List.foldl_cons, h]
    rw [fold_stopped _ (fun _ _ _ => rfl)]
  exact key _ _ w ⟨_, rfl⟩

theorem first_stops {m : Module} {e : Miss} (s : Stuck m e) (die asid va : Nat) (hd : die = 0) (ha : asid = 1) (z : va + 0 = 0) (t : Thread) :
    m.writeUpTo die asid (va + 0) (t.spBytes 0 1048576) = (m, some e) := by
  rw [z, ha, hd]; exact writeUpTo_stuck s (spBytes_all _)

theorem writeImage_stuck {m : Module} {e : Miss} {l : Launch} (s : Stuck (m.freeBytes 8448).2 e) (ht : (m.ctx 0).tidN = 0) (ha : l.asid = 1) (hb : l.ctxbase = 0) :
    (m.writeImage 0 l).2 = some e := by
  have z : l.ctxbase + (m.ctx 0).tidN * ctxImageBytes + 0 = 0 := by rw [hb, ht]; rfl
  exact writeImage_stops (first_stops s _ l.asid _ rfl ha z (m.ctx 0))

theorem hyp_Launches :
    (let l := ready0 2 .waiting
     let m := (lm [l] id).now
     (∀ x ∈ m.readyLaunches, m.fits x m.enabled = true) ∧ m.candidate = some l ∧ l.state = .waiting ∧ m.handlesFor l = true ∧ l.cores (m.coreFree []) = some [0, 1] ∧
       ([0, 1] : List Nat).Nodup ∧ nth? 0 [0, 1] = some 0 ∧ nth? 1 [0, 1] = some 1) ∧
    (let m := (rm id).now; m.readyLaunches = [] ∧ m.candidate = none) ∧
    (let l := ready0 1 .waiting
     let m := (lm [l] crowded0).now
     m.readyLaunches = [l] ∧ l.shadowOk = true ∧ l.fuse = false ∧ m.lu.claim = none ∧ m.handlesFor l = true ∧ l.cores (m.coreFree []) = none ∧
       l.cores m.coreShadow = some [0] ∧ nth? 0 [0] = some 0) ∧
    (∀ z ∈ [(false, LState.running), (true, .running), (false, .waiting)],
     let l := { ready0 1 z.2 with tevt := some 3, trigComplete := z.1 }
     let m := (rm fun m => { m with lu := { m.lu with launches := [l] }, fe := { m.fe with evcnt := [(3, 0xFFFFFFFFFFFE)] } }).now
     m.launchOf 0 = some l ∧ m.allTriggered l = decide (z.2 = .running) ∧ (m.queue l.queue).replaying = false ∧ m.counter 3 < 2 ^ 48 - 1) ∧
    (∀ st ∈ [ThStatus.running, .ended], let m := (lm [ready0 1 .saving] (threads [(0, thread0 st)])).now
     m.launchOf (m.ctx m.focus).launch = some (ready0 1 .saving) ∧ m.focus < 2048 ∧ (m.core (coreOf m.focus)).exchange = false ∧ (m.ctx m.focus).status = st ∧
       m.atRest m.focus = true ∧ m.clockHeld m.focus = false ∧ m.dieHalted 0 = false) ∧
    (let m := ((lm [ready0 1 .saving] (threads [(0, thread0 .running)])).on fun m => m.modCore 0 fun c => { c with frozen := true }).now
     m.launchOf (m.ctx m.focus).launch = some (ready0 1 .saving) ∧ m.clockHeld m.focus = true) ∧
    (let m := ((lm [ready0 1 .saving] (threads [(0, thread0 .running)])).on fun m => { m with silo := { m.silo with powerFault := true } }).now
     m.launchOf (m.ctx m.focus).launch = some (ready0 1 .saving) ∧ m.dieHalted 0 = true) ∧
    (let m := (lm [ready0 1 .saving] (threads [(0, { thread0 .running with x := { (thread0 .running).x with sq := [{ sE (.store 9) 0x40 8 with remote := some 1 }] } })])).now
     m.launchOf (m.ctx m.focus).launch = some (ready0 1 .saving) ∧ (m.ctx m.focus).status = .running ∧ m.atRest m.focus = false) ∧
    (let l := ready0 1 .saved
     let m := (lm [l] (threads [(2048, thread0 .running)])).now
     m.candidate = some l ∧ m.cx.gangs = [] ∧ l.fuse = false ∧ (m.ctx 2048).status = .running ∧ (m.ctx 2048).launch = l.id ∧
       (∀ e ∈ m.savedOf l.id, e.2.settled = true) ∧ m.restoreCores l (m.coreFree []) = some [(2048, 0)]) ∧
    (let m := (banks fun c => { c with active := true }).now
     m.wantedBank 0 ≠ (m.core 0).active ∧ (m.core 0).exchange = false ∧ (m.core 0).frozen = false ∧ (m.ctx (m.active 0)).c1Touches = false ∧ coreOf m.focus = 0) ∧
    (let m := (rm id).now; m.wantedBank 0 = (m.core 0).active) ∧
    ((banks fun c => { c with exchange := true }).now.core 0).exchange = true ∧
    (∀ l ∈ [[(0, thread0 .halting)], [(0, thread0 .halting), (2, thread0 .running)]], let m := (lm [ready0 1 .running] (threads l)).now
     m.focus = 0 ∧ m.clockHeld 0 = false ∧ (m.ctx 0).status = .halting ∧ (m.ctx 0).drained = true ∧ m.cx.crews = [] ∧ m.cx.gangs = [] ∧ m.launchOf 0 = some (ready0 1 .running) ∧
       (m.ctx 0).launch = 0 ∧ m.ctxsOf 0 = l.map Prod.fst) ∧
    ((rm id).now.th.status ≠ .halting ∧ { thread0 .halting with x := { (thread0 .halting).x with sq := [sE (.store 9) 0x40 8] } }.drained = false) := by
  refine ⟨?_, ?_, ?_, ?_, ?_, ?_, ?_, ?_, ?_, ?_, ?_, ?_, ?_, ?_⟩ <;> decide +kernel

theorem pair_of_snd {α β : Type} (q : α × β) {b : β} (h : q.2 = b) : ∃ a, q = (a, b) := ⟨q.1, Prod.ext rfl h⟩

/-- The image of a thread that rests finds its pages, or meets a fault or a half-line of the host in the first. -/
theorem hyp_Launches_images :
    (∀ m ∈ [leafed, blank 0, heldOut 0], m.focus = 0 ∧ m.launchOf (m.ctx 0).launch = some (ready0 1 .saving) ∧ (m.core 0).exchange = false ∧ (m.ctx 0).status = .running ∧
      m.atRest 0 = true ∧ m.clockHeld 0 = false ∧ m.dieHalted 0 = false) ∧
    (∃ m', leafed.writeImage 0 (ready0 1 .saving) = (m', none)) ∧ (∃ m', (blank 0).writeImage 0 (ready0 1 .saving) = (m', some (.cause Cause.pageNotPresent))) ∧
    ∃ m', (heldOut 0).writeImage 0 (ready0 1 .saving) = (m', some (.snoop 0)) :=
  ⟨by decide +kernel, writeImage_wide ⟨rfl, rfl, rfl, rfl⟩ rfl rfl (by decide +kernel), pair_of_snd _ (writeImage_stuck (blank_stuck 8448) rfl rfl rfl),
    pair_of_snd _ (writeImage_stuck (heldOut_stuck 8448) rfl rfl rfl)⟩

/-- The machine with tables whose leaf for the page at 0 is given, and its translation control block changed. -/
def xlated (leaf : Nat) (f : Xlate → Xlate) : State := rm fun m => let m := tables leaf m; { m with tr := f m.tr }
/-- The machine with its translation control block changed. -/
def trd (f : Xlate → Xlate) : State := rm fun m => { m with tr := f m.tr }
/-- A page-fault record in the ring. -/
def rec0 : PfRec := ⟨65535, 0, Cause.pageNotPresent, 0, 0, 0, 0, true⟩
/-- Whether a walk gives a cause, or a leaf that a test accepts. -/
def walkIs (m : Module) (va : Nat) (f : Except Miss Leaf → Bool) : Bool := f (walk m 0 va)

theorem hyp_Translation :
    (∀ va ∈ [0, 0xFFFF], let m := (xlated (leafW 1) id).now
     tlbFind 3 0 va m.tr.tlb = none ∧ walkIs m va (fun r => match r with | .ok l => l.size == 65536 && l.ptr == 0x5000 && m.held (l.ptr / 64) == .I | .error _ => false) = true) ∧
    ((tlbFind 0 0 0xFFFF (paged 0 id).now.tr.tlb).isSome = true ∧ (tlbFind 0 0 0x10000 (paged 0 id).now.tr.tlb).isSome = false) ∧
    (let m := (xlated (leafW 1 + 256) id).now
     tlbFind 3 0 0 m.tr.tlb = none ∧ walkIs m 0 (fun r => match r with | .ok _ => false | .error c => c == .cause Cause.tableFormat && c != .cause Cause.pageNotPresent) = true) ∧
    (let m := ((xlated (leafW 1) id).on fun m => m.setHold (0x5000 / 64) .M).now
     tlbFind 3 0 0 m.tr.tlb = none ∧ walkIs m 0 (fun r => match r with | .ok _ => false | .error c => c == .snoop (0x5000 / 64)) = true) ∧
    (let s := (sQ { sE (.store 9) 0x40 8 with pf := .waiting 65535 }).on fun m => { m with tr := { m.tr with pfrecs := [rec0] } }
     s.now.tr.pfrecs = [rec0] ∧ rec0.id = 65535 ∧ rec0.inRing = true ∧ rec0.kind = pfKindCode .read ∧ s.now.fb.parked = [] ∧ s.now.fb.rdmaHeld = [] ∧
       (s.now.ctx 0).x.sq = [{ sE (.store 9) 0x40 8 with pf := .waiting 65535 }]) ∧
    (rm id).now.tr.pfrecs = [] ∧
    (bit (rm id).now.tr.invcmd.toNat 63 = false ∧ bit (0x4000000000000000 : Word64).toNat 59 = false) ∧
    (let m := (trd fun x => { x with invcmd := 0x8000000000000000, tlb := [page0 0 0] }).now
     bit m.tr.invcmd.toNat 63 = true ∧ m.dropping = false ∧ m.cx.ctxs = []) ∧
    (let m := (rm fun m => { m with tr := { m.tr with invcmd := 0x8000000000000000 }, fb := { m.fb with pending := [(0, .drop 3 0)] } }).now
     bit m.tr.invcmd.toNat 63 = true ∧ m.dropping = true) ∧
    (let m := (rm id).now; bit m.tr.pincmd.toNat 63 = false ∧ m.pinRefused 0 (pinBytes 1) = none ∧ m.pinRefused 0 (pinBytes 2) = some Cause.pinLimit ∧
      m.pinRefused 65536 (pinBytes 1) = some Cause.tableFormat) ∧
    (∀ b ∈ [true, false], let x := (trd fun x => { x with pincmd := BitVec.ofNat 64 (2 ^ 63), pinRun := BitVec.ofNat 64 (b2n b * 2 ^ 61) }).now.tr
     bit x.pincmd.toNat 63 = true ∧ bit x.pinRun.toNat 61 = b) ∧
    (bit (rm id).now.tr.migctl.toNat 63 = false ∧ bit (trd fun x => { x with migctl := 0x8000000000000000 }).now.tr.migctl.toNat 63 = true) ∧
    (let m := (trd fun x => { x with migctl := 0x8000000000000000 }).now
     bit m.tr.migctl.toNat 63 = true ∧ fld m.tr.migctl.toNat 0 16 = 0 ∧ m.fb.parked = [] ∧ m.fb.rdmaHeld = [] ∧ m.mm.late = [] ∧
       walkIs m m.migPage (fun r => match r with | .ok _ => false | .error c => c == .cause Cause.pageNotPresent) = true) ∧
    (∀ f ∈ [0, 2], let s := xlated (leafW 1) fun x => { x with migctl := 0x8000000000000000, migRun := (0, BitVec.ofNat 64 (f * 65536 + 0x100000 * (1 - f))) }
     let m := s.now
     let dst := fld m.tr.migRun.2.toNat 16 36 * 65536
     bit m.tr.migctl.toNat 63 = true ∧ fld m.tr.migctl.toNat 0 16 = 0 ∧ bit m.tr.migRun.2.toNat 63 = false ∧ m.migFault dst 65536 false = none ∧ m.groups = [] ∧
       m.mm.hostHold = [] ∧ m.cx.ctxs = [] ∧ m.fb.parked = [] ∧ m.fb.rdmaHeld = [] ∧ m.mm.late = [] ∧ 65536 + 65536 ≤ dst ∧ 0x5000 + 16 ≤ dst ∧
       walkIs m m.migPage (fun r => match r with
         | .ok l => l.size == 65536 && l.ptr == 0x5000 && fld l.w0 16 36 * 65536 == 65536 && !bit l.w0 60
         | .error _ => false) = true ∧ s.pre = none ∧ m.mm.wf) := by
  refine ⟨?_, ?_, ?_, ?_, ?_, ?_, ?_, ?_, ?_, ?_, ?_, ?_, ?_, ?_⟩ <;> decide +kernel

/-- A completion that has been sent, and a request, under numbers 3 and 4 of station 35. -/
def acked0 (n : Nat) (p : Packet) : Outgoing := ⟨n, 2057, 2, 35, some n, false, 0, [], p⟩

theorem hyp_ModuleInputs :
    (∀ x ∈ [Input.memError 1 true, .memError 1 false, .poolError (2 ^ 36 - 1), .peerRefuses 35 true, .linkAck 35 4, .ethernet 9 true, .ethernet 0 false, .l1Evict 1023 1,
        .regRead .devid, .siloOnly .fuses true, .siloOnly .fuses false, .blockAccess .meadow true 0x30 (some 1), .blockAccess .silo false 0xFC0 none, .upset 1023 2 true],
      (rm fun m => { m with agenda := [.input x] }).now.agenda = [.input x]) ∧
    (rm fun m => { m with agenda := [.tick 5] }).now.agenda = [.tick 5] ∧
    isHbm (64 * 1) = true ∧ regExists .devid = true ∧
    (∀ p ∈ [Packet.completion 2 1 8 [] false, .request 1 4 0 false (.read 8)], let m := (rm fun m => { m with fb := { m.fb with outbox := [acked0 3 p, acked0 4 p] } }).now
     (∀ z ∈ m.fb.outbox, z.seq.isSome = true) ∧ acked0 3 p ∈ m.fb.outbox ∧ acked0 4 p ∈ m.fb.outbox ∧ (packetAsks (.completion 2 1 8 [] false) = false ∧
       packetAsks (.request 1 4 0 false (.read 8)) = true)) ∧
    (∀ z ∈ [(0x30, ModReg.grepair 0), (0xE000, .gctl 7), (0xF078, .glog 7 15)], groupReg z.1 = some z.2) ∧
    (∀ z ∈ [(0xFC0, ModReg.cqcfg 63), (0x10, .cqstat 0), (0x8FF8, .evcnt 4095)], frontReg z.1 = some z.2) := by
  refine ⟨?_, ?_, ?_, ?_, ?_, ?_, ?_⟩ <;> decide +kernel

end Sys2Proof.Tests
end

/-! # Distinct-count registers: their bytes, and the algebra of insertion and merging (R298) -/

namespace Sys2Proof.Summaries

open Sys2Proof.Machine

/-! ## Shared operations of the model -/

theorem modifyAt_eq_modify {α : Type} (f : α → α) (i : Nat) (l : List α) : modifyAt f i l = l.modify i f := by
  induction l generalizing i with
  | nil => cases i <;> rfl
  | cons a l ih => cases i with
    | zero => rfl
    | succ i => simp [modifyAt, ih]

theorem padBytes_length (l : List Byte) (n : Nat) : (padBytes l n).length = n := by
  simp only [padBytes, List.length_take, List.length_append, List.length_replicate]
  omega

theorem padBytes_of_length_eq {l : List Byte} {n : Nat} (h : l.length = n) : padBytes l n = l := by
  simp [padBytes, ← h]

theorem padBytes_nil (n : Nat) : padBytes [] n = List.replicate n 0 := by
  simp [padBytes]

/-- The leading zeros of an `n`-bit field bound it from both sides: its highest one bit, if it has any, is bit `n - 1 - clzNat x n`. -/
theorem clzNat_spec (x n : Nat) :
    clzNat x n ≤ n ∧ x % 2 ^ n < 2 ^ (n - clzNat x n) ∧ (clzNat x n < n → 2 ^ (n - 1 - clzNat x n) ≤ x % 2 ^ n) := by
  induction n with
  | zero => simp [clzNat, Nat.mod_one]
  | succ n ih =>
    obtain ⟨hle, hlt, hge⟩ := ih
    have split_top : x % 2 ^ (n + 1) = x % 2 ^ n + 2 ^ n * (x / 2 ^ n % 2) := Nat.mod_pow_succ
    cases hb : bit x n with
    | true =>
      have top_set : x / 2 ^ n % 2 = 1 := by simpa [bit] using hb
      have clz : clzNat x (n + 1) = 0 := by simp [clzNat, hb]
      refine ⟨by omega, ?_, fun _ => ?_⟩
      · simpa [clz] using Nat.mod_lt x (Nat.two_pow_pos (n + 1))
      · simp [clz, split_top, top_set]
    | false =>
      have top_clear : x / 2 ^ n % 2 = 0 := by simp only [bit, beq_eq_false_iff_ne] at hb; omega
      have clz : clzNat x (n + 1) = 1 + clzNat x n := by simp [clzNat, hb]
      have low : x % 2 ^ (n + 1) = x % 2 ^ n := by simp [split_top, top_clear]
      rw [clz, low, show n + 1 - (1 + clzNat x n) = n - clzNat x n by omega,
        show n + 1 - 1 - (1 + clzNat x n) = n - 1 - clzNat x n by omega]
      exact ⟨by omega, hlt, fun h => hge (by omega)⟩

theorem clamp_fst (h : SkHead) (x k : Nat) : (h.clamp x k).1 = min (2 ^ k - 1) x := by
  have := Nat.two_pow_pos k
  unfold SkHead.clamp
  split
  · exact (Nat.min_eq_right (by omega)).symm
  · exact (Nat.min_eq_left (by omega)).symm

/-! ## Raising one register commutes with raising another and with a registerwise maximum -/

/-- Raises register `i` to at least `v`. -/
def raise (i v : Nat) (l : List Nat) : List Nat := l.modify i fun u => max u v

theorem getElem?_raise (i v : Nat) (l : List Nat) (j : Nat) :
    (raise i v l)[j]? = l[j]?.map fun u => if j = i then max u v else u := by
  simp [raise, List.getElem?_modify, eq_comm]

theorem raise_comm (i v k w : Nat) (l : List Nat) : raise i v (raise k w l) = raise k w (raise i v l) := by
  refine List.ext_getElem? fun j => ?_
  simp only [getElem?_raise, Option.map_map]
  congr 1
  funext u
  simp only [Function.comp_apply]
  by_cases hi : j = i
  · by_cases hk : j = k
    · simp only [if_pos hi, if_pos hk, Nat.max_right_comm u w v]
    · simp only [if_pos hi, if_neg hk]
  · simp only [if_neg hi]

theorem zipWith_max_raise (i v : Nat) (l l' : List Nat) :
    List.zipWith max (raise i v l) l' = raise i v (List.zipWith max l l') := by
  refine List.ext_getElem? fun j => ?_
  simp only [getElem?_raise, List.getElem?_zipWith]
  cases l[j]? with
  | none => rfl
  | some u => cases l'[j]? with
    | none => rfl
    | some w =>
      simp only [Option.map_some]
      split
      · rw [Nat.max_right_comm]
      · rfl

theorem zipWith_max_assoc : ∀ l l' l'' : List Nat,
    List.zipWith max (List.zipWith max l l') l'' = List.zipWith max l (List.zipWith max l' l'')
  | [], _, _ => rfl
  | _ :: _, [], _ => rfl
  | _ :: _, _ :: _, [] => rfl
  | u :: l, v :: l', w :: l'' => by
    simp only [List.zipWith_cons_cons, Nat.max_assoc u v w, zipWith_max_assoc l l' l'']

/-! ## What an insertion and a merge leave in the registers and in N -/

/-- The register that the hash of a key names. -/
def slot (x : Nat) : Nat := (skhash (BitVec.ofNat 64 x)).toNat / 2 ^ 53

/-- One more than the leading zeros of the other 53 bits of the hash. -/
def rank (x : Nat) : Nat := clzNat (skhash (BitVec.ofNat 64 x)).toNat 53 + 1

theorem insert_m (r : Dck) (x : Nat) : (r.insert x).m = raise (slot x) (rank x) r.m :=
  modifyAt_eq_modify _ _ _

theorem insert_n (r : Dck) (x : Nat) : (r.insert x).h.n = min (2 ^ 64 - 1) (r.h.n + 1) :=
  clamp_fst _ _ _

theorem merge_m (a b : Dck) : (a.merge b).m = List.zipWith max a.m b.m :=
  List.map_zip_eq_zipWith

theorem merge_n (a b : Dck) : (a.merge b).h.n = min (2 ^ 64 - 1) (a.h.n + b.h.n) :=
  clamp_fst _ _ _

theorem getElem?_insert_m {r : Dck} {j v : Nat} (x : Nat) (h : r.m[j]? = some v) :
    (r.insert x).m[j]? = some (if j = slot x then max v (rank x) else v) := by
  rw [insert_m, getElem?_raise, h, Option.map_some]

theorem getElem?_merge_m {a b : Dck} {j u v : Nat} (ha : a.m[j]? = some u) (hb : b.m[j]? = some v) :
    (a.merge b).m[j]? = some (max u v) := by
  rw [merge_m, List.getElem?_zipWith, ha, hb]

/-! ## The laws of insertion and merging -/

/-- Two records agree in the registers and in N. -/
def Same (u v : Dck) : Prop := u.m = v.m ∧ u.h.n = v.h.n

theorem merge_comm (a b : Dck) : Same (a.merge b) (b.merge a) := by
  refine ⟨?_, by rw [merge_n, merge_n, Nat.add_comm]⟩
  rw [merge_m, merge_m, List.zipWith_comm_of_comm Nat.max_comm]

theorem merge_assoc (a b c : Dck) : Same ((a.merge b).merge c) (a.merge (b.merge c)) := by
  constructor
  · simp only [merge_m, zipWith_max_assoc]
  · simp only [merge_n]; omega

theorem insert_insert_comm (r : Dck) (x y : Nat) : Same ((r.insert x).insert y) ((r.insert y).insert x) := by
  refine ⟨?_, by simp only [insert_n]⟩
  simp only [insert_m]
  exact raise_comm _ _ _ _ _

theorem insert_merge_comm (a b : Dck) (x : Nat) : Same ((a.insert x).merge b) ((a.merge b).insert x) := by
  constructor
  · simp only [insert_m, merge_m, zipWith_max_raise]
  · simp only [insert_n, merge_n]; omega

theorem merge_self_m (a : Dck) : (a.merge a).m = a.m := by
  simp [merge_m, List.zipWith_self]

/-! ## The bytes of a record -/

theorem headBytes_length (k : SkKind) (h : SkHead) (own : List Byte) : (headBytes k h own).length = 64 := by
  simp only [headBytes, List.length_append, Laws.leBytes_length, padBytes_length]

/-- The kind's own bytes follow the 32 bytes that all kinds share. -/
theorem getElem?_headBytes (k : SkKind) (h : SkHead) (own : List Byte) {j : Nat} (hj : 32 ≤ j) :
    (headBytes k h own)[j]? = (padBytes own 32)[j - 32]? := by
  rw [headBytes, List.getElem?_append_right] <;>
    simp only [List.length_append, Laws.leBytes_length, Nat.reduceAdd, hj]

/-- R298: the registers stand from byte 64 up, a byte each. -/
theorem getElem?_skBytes_register {r : Dck} (hm : r.m.length = 2048) {j v : Nat} (hv : r.m[j]? = some v) :
    (skBytes (.dck r))[64 + j]? = some (BitVec.ofNat 8 v) := by
  rw [skBytes, List.getElem?_append_right (by rw [headBytes_length]; omega), headBytes_length, Nat.add_sub_cancel_left,
    padBytes_of_length_eq (by simpa using hm), List.getElem?_map, hv, Option.map_some]

/-- Reserved bytes are written 0 (log entry 36). -/
theorem getElem?_skBytes_reserved (r : Dck) {j : Nat} (h32 : 32 ≤ j) (h64 : j < 64) : (skBytes (.dck r))[j]? = some 0 := by
  rw [skBytes, List.getElem?_append_left (by rwa [headBytes_length]), getElem?_headBytes _ _ _ h32, padBytes_nil,
    List.getElem?_replicate_of_lt (by omega)]

/-- Settles O39: registers are raised by maxima, which commute and associate, and N is a saturated sum of naturals. -/
theorem distinctCountRegisters : Obligations.DistinctCountRegisters := by
  intro a b c x y same top hash ha _ _ _ _ _
  obtain ⟨z_le, below, above⟩ := clzNat_spec hash 53
  exact ⟨fun _ _ => getElem?_skBytes_register ha, fun _ => getElem?_skBytes_reserved a, insert_n a x,
    ⟨clzNat hash 53, z_le, below, above, fun _ _ => getElem?_insert_m x⟩, merge_n a b, fun _ _ _ => getElem?_merge_m,
    merge_comm a b, merge_assoc a b c, insert_insert_comm a x y, insert_merge_comm a b x, merge_self_m a⟩

end Sys2Proof.Summaries

/-! # The field product and the mixer: the remainder of a carry-less product (R329), and a bijection on 64 bits (R330) -/

namespace Sys2Proof.FieldAndMixer

open Sys2Proof.Machine

theorem bit_eq_testBit (x i : Nat) : bit x i = x.testBit i := by
  rw [bit, Nat.testBit_eq_decide_div_mod_eq, Bool.beq_eq_decide_eq]

/-! ## Carry-less products -/

/-- What bit `i` of `y` adds to the carry-less product of `x` and `y`. -/
def partialProduct (x y i : Nat) : Nat := if y.testBit i then x <<< i else 0

theorem partialProduct_xor (x y y' i : Nat) : partialProduct x (y ^^^ y') i = partialProduct x y i ^^^ partialProduct x y' i := by
  simp only [partialProduct, Nat.testBit_xor]
  cases y.testBit i with
  | false => simp only [Bool.false_xor, Bool.false_eq_true, if_false, Nat.zero_xor]
  | true =>
    cases y'.testBit i with
    | false => simp only [Bool.xor_false, Bool.false_eq_true, if_true, if_false, Nat.xor_zero]
    | true => simp only [Bool.xor_self, Bool.false_eq_true, if_true, if_false, Nat.xor_self]

theorem partialProduct_lt {x i : Nat} (y : Nat) (hx : x < 2 ^ 8) (hi : i < 8) : partialProduct x y i < 2 ^ 16 := by
  rw [partialProduct]
  split
  · rw [Nat.shiftLeft_eq]
    have hpow : 2 ^ i < 2 ^ 8 := Nat.pow_lt_pow_right (by decide) hi
    calc x * 2 ^ i < 2 ^ 8 * 2 ^ 8 := Nat.mul_lt_mul'' hx hpow
      _ = 2 ^ 16 := by decide
  · decide

/-- The partial products at the positions `l`, added without carries to `z`. -/
def addProducts (x y : Nat) (l : List Nat) (z : Nat) : Nat := l.foldl (fun z i => if y.testBit i then z ^^^ (x <<< i) else z) z

theorem addProducts_cons (x y i : Nat) (l : List Nat) (z : Nat) :
    addProducts x y (i :: l) z = addProducts x y l (z ^^^ partialProduct x y i) := by
  simp only [addProducts, List.foldl_cons, partialProduct]
  cases y.testBit i with
  | false => simp only [Bool.false_eq_true, if_false, Nat.xor_zero]
  | true => simp only [if_true]

theorem addProducts_append (x y : Nat) (l l' : List Nat) (z : Nat) :
    addProducts x y (l ++ l') z = addProducts x y l' (addProducts x y l z) :=
  List.foldl_append

theorem addProducts_xor (x y y' : Nat) (l : List Nat) (z z' : Nat) :
    addProducts x (y ^^^ y') l (z ^^^ z') = addProducts x y l z ^^^ addProducts x y' l z' := by
  induction l generalizing z z' with
  | nil => rfl
  | cons i l ih =>
    simp only [addProducts_cons, partialProduct_xor, ← ih]
    congr 1
    ac_rfl

theorem addProducts_lt {x z : Nat} (y : Nat) {l : List Nat} (hx : x < 2 ^ 8) (hl : ∀ i ∈ l, i < 8) (hz : z < 2 ^ 16) :
    addProducts x y l z < 2 ^ 16 := by
  induction l generalizing z with
  | nil => exact hz
  | cons i l ih =>
    rw [addProducts_cons]
    obtain ⟨hi, hl⟩ := List.forall_mem_cons.mp hl
    exact ih hl (Nat.xor_lt_two_pow hz (partialProduct_lt y hx hi))

/-- The carry-less product of `x` and the low byte of `y`. -/
def carryless (x y : Nat) : Nat := addProducts x y (List.range 8) 0

theorem addProducts_two_pow (x n m : Nat) : addProducts x (2 ^ n) (List.range m) 0 = if n < m then x * 2 ^ n else 0 := by
  induction m with
  | zero => rfl
  | succ m ih =>
    rw [List.range_succ, addProducts_append, ih, addProducts_cons, partialProduct, Nat.testBit_two_pow, Nat.shiftLeft_eq]
    change (if n < m then x * 2 ^ n else 0) ^^^ (if decide (n = m) then x * 2 ^ m else 0) = _
    obtain hlt | rfl | hgt := Nat.lt_trichotomy n m
    · rw [if_pos hlt, decide_eq_false (Nat.ne_of_lt hlt), if_neg Bool.false_ne_true, Nat.xor_zero, if_pos (Nat.lt_succ_of_lt hlt)]
    · rw [if_neg (Nat.lt_irrefl n), decide_eq_true rfl, if_pos rfl, Nat.zero_xor, if_pos n.lt_succ_self]
    · rw [if_neg (Nat.lt_asymm hgt), decide_eq_false (Nat.ne_of_gt hgt), if_neg Bool.false_ne_true, Nat.xor_zero, if_neg (by omega)]

theorem carryless_two_pow (x : Nat) {n : Nat} (hn : n < 8) : carryless x (2 ^ n) = x * 2 ^ n :=
  (addProducts_two_pow x n 8).trans (if_pos hn)

/-- Carry-less multiplication distributes over the carry-less sum. -/
theorem carryless_xor (x y y' : Nat) : carryless x (y ^^^ y') = carryless x y ^^^ carryless x y' :=
  addProducts_xor x y y' _ 0 0

theorem carryless_zero (x : Nat) : carryless x 0 = 0 := by
  have h := carryless_xor x 0 0
  rwa [Nat.xor_self, Nat.xor_self] at h

theorem carryless_lt {x : Nat} (y : Nat) (hx : x < 256) : carryless x y < 2 ^ 16 :=
  addProducts_lt y hx (fun _ => List.mem_range.mp) (by decide)

/-! ## The reduction modulo 0x11D -/

/-- One step of the reduction: bit `15 - j` is cleared by a multiple of the field polynomial. -/
def clearBit (x j : Nat) : Nat := if x.testBit (15 - j) then x ^^^ (0x11D * 2 ^ (7 - j)) else x

theorem gfMul_eq (a b : Nat) : gfMul a b = (range' 0 8).foldl clearBit (carryless a b) % 256 := by
  simp only [gfMul, bit_eq_testBit, carryless, addProducts, Nat.shiftLeft_eq]
  rfl

theorem xor_xor_self_left (x y : Nat) : x ^^^ (x ^^^ y) = y := by
  rw [← Nat.xor_assoc, Nat.xor_self, Nat.zero_xor]

theorem lt_two_pow_of_testBit_eq_false {x n : Nat} (hx : x < 2 ^ (n + 1)) (hb : x.testBit n = false) : x < 2 ^ n := by
  refine Nat.lt_pow_two_of_testBit x fun i hi => ?_
  obtain rfl | hlt := Nat.eq_or_lt_of_le hi
  · exact hb
  · exact Nat.testBit_lt_two_pow (Nat.lt_of_lt_of_le hx (Nat.pow_le_pow_right (by decide) hlt))

/-- The step that clears bit `n + 8` takes away the multiple of the field polynomial by 0 or by `2 ^ n`. -/
theorem clearBit_spec {x n : Nat} (hn : n < 8) (hx : x < 2 ^ (n + 9)) :
    clearBit x (7 - n) < 2 ^ (n + 8) ∧ ∃ c < 2 ^ (n + 1), carryless 0x11D c = x ^^^ clearBit x (7 - n) := by
  have hpos : 15 - (7 - n) = n + 8 := by omega
  have hshift : 7 - (7 - n) = n := by omega
  rw [clearBit, hpos, hshift]
  cases hb : x.testBit (n + 8) with
  | false =>
    rw [if_neg Bool.false_ne_true]
    exact ⟨lt_two_pow_of_testBit_eq_false hx hb, 0, Nat.two_pow_pos _, by rw [carryless_zero, Nat.xor_self]⟩
  | true =>
    have hlt : 0x11D * 2 ^ n < 2 ^ (n + 9) := by
      have hpos := Nat.two_pow_pos n
      rw [Nat.pow_add]
      omega
    have htop : (0x11D * 2 ^ n).testBit (n + 8) = true := by
      rw [Nat.testBit_mul_two_pow, Nat.add_sub_cancel_left, decide_eq_true (Nat.le_add_right n 8)]
      decide
    rw [if_pos rfl]
    exact ⟨lt_two_pow_of_testBit_eq_false (Nat.xor_lt_two_pow hx hlt) (by rw [Nat.testBit_xor, hb, htop, Bool.xor_self]), 2 ^ n,
      Nat.pow_lt_pow_right (by decide) n.lt_succ_self, by rw [carryless_two_pow _ hn, xor_xor_self_left]⟩

/-- The last `n` steps of the reduction leave a byte, and take away a carry-less multiple of the field polynomial. -/
theorem foldl_clearBit_spec (n : Nat) (hn : n ≤ 8) (x : Nat) (hx : x < 2 ^ (n + 8)) :
    (range' (8 - n) n).foldl clearBit x < 256 ∧ ∃ q < 2 ^ n, carryless 0x11D q = x ^^^ (range' (8 - n) n).foldl clearBit x := by
  induction n generalizing x with
  | zero => exact ⟨hx, 0, by decide, (Nat.xor_self x).symm⟩
  | succ n ih =>
    obtain ⟨hlt, c, hc, hcx⟩ := clearBit_spec hn (by rwa [Nat.add_right_comm] at hx)
    obtain ⟨hbyte, q, hq, hqx⟩ := ih (by omega) _ hlt
    have hfirst : 8 - (n + 1) = 7 - n := by omega
    have hrest : 7 - n + 1 = 8 - n := by omega
    rw [hfirst, range', hrest, List.foldl_cons]
    refine ⟨hbyte, c ^^^ q, Nat.xor_lt_two_pow hc (Nat.lt_trans hq (Nat.pow_lt_pow_right (by decide) n.lt_succ_self)), ?_⟩
    rw [carryless_xor, hcx, hqx, Nat.xor_assoc, xor_xor_self_left]

/-- R329: `gfMul` is a byte that differs from the carry-less product by a carry-less multiple of 0x11D. -/
theorem gfMul_spec {a : Nat} (b : Nat) (ha : a < 256) :
    gfMul a b < 256 ∧ ∃ q, q < 256 ∧ carryless a b = gfMul a b ^^^ carryless 0x11D q := by
  obtain ⟨hbyte, q, hq, hqx⟩ := foldl_clearBit_spec 8 (Nat.le_refl 8) _ (carryless_lt b ha)
  have hgf : gfMul a b = (range' 0 8).foldl clearBit (carryless a b) := by rw [gfMul_eq, Nat.mod_eq_of_lt hbyte]
  rw [hgf]
  exact ⟨hbyte, q, hq, by rw [hqx, Nat.xor_comm (carryless a b), xor_xor_self_left]⟩

/-! ## The mixer -/

/-- The step of `mix64` that xors a word with itself shifted right. -/
def xorShift (k : Nat) (x : Word64) : Word64 := x ^^^ (x >>> k)

/-- The inverse of `xorShift k`, where three shifts by `k` leave nothing of a word. -/
def undoXorShift (k : Nat) (y : Word64) : Word64 := y ^^^ (y >>> k) ^^^ (y >>> k >>> k)

theorem ushiftRight_thrice {k : Nat} (hk : 64 ≤ 3 * k) (x : Word64) : x >>> k >>> k >>> k = 0#64 := by
  rw [← BitVec.shiftRight_add, ← BitVec.shiftRight_add]
  exact BitVec.ushiftRight_eq_zero (by omega)

theorem undoXorShift_xorShift {k : Nat} (hk : 64 ≤ 3 * k) (x : Word64) : undoXorShift k (xorShift k x) = x := by
  simp only [undoXorShift, xorShift, BitVec.ushiftRight_xor_distrib, ushiftRight_thrice hk, BitVec.xor_zero]
  generalize x >>> k = y
  generalize y >>> k = z
  calc x ^^^ y ^^^ (y ^^^ z) ^^^ z = x ^^^ (y ^^^ y) ^^^ (z ^^^ z) := by ac_rfl
    _ = x := by rw [BitVec.xor_self, BitVec.xor_self, BitVec.xor_zero, BitVec.xor_zero]

theorem xorShift_undoXorShift {k : Nat} (hk : 64 ≤ 3 * k) (y : Word64) : xorShift k (undoXorShift k y) = y := by
  have hcomm : xorShift k (undoXorShift k y) = undoXorShift k (xorShift k y) := by
    simp only [undoXorShift, xorShift, BitVec.ushiftRight_xor_distrib]
    ac_rfl
  rw [hcomm, undoXorShift_xorShift hk]

theorem mul_mul_of_mul_eq_one {c d : Word64} (h : c * d = 1#64) (x : Word64) : x * c * d = x := by
  rw [BitVec.mul_assoc, h, BitVec.mul_one]

/-- The inverse of `mix64`: its five steps undone, the last first, the products by the multipliers' inverses modulo 2^64. -/
def unmix64 (y : Word64) : Word64 :=
  undoXorShift 31 (undoXorShift 27 (undoXorShift 33 y * 0x4D6DFF26C61D8485) * 0x4C5FF4596F4A2F4D)

theorem mix64_eq (x : Word64) : mix64 x = xorShift 33 (xorShift 27 (xorShift 31 x * 0x7FB5D329728EA185) * 0x81DADEF4BC2DD44D) := rfl

theorem unmix64_mix64 (x : Word64) : unmix64 (mix64 x) = x := by
  rw [mix64_eq, unmix64, undoXorShift_xorShift (by decide), mul_mul_of_mul_eq_one (by decide), undoXorShift_xorShift (by decide),
    mul_mul_of_mul_eq_one (by decide), undoXorShift_xorShift (by decide)]

theorem mix64_unmix64 (y : Word64) : mix64 (unmix64 y) = y := by
  rw [mix64_eq, unmix64, xorShift_undoXorShift (by decide), mul_mul_of_mul_eq_one (by decide), xorShift_undoXorShift (by decide),
    mul_mul_of_mul_eq_one (by decide), xorShift_undoXorShift (by decide)]

theorem mix64_injective {x y : Word64} (h : mix64 x = mix64 y) : x = y := by
  rw [← unmix64_mix64 x, h, unmix64_mix64]

theorem mix64_surjective (y : Word64) : ∃ x, mix64 x = y := ⟨unmix64 y, mix64_unmix64 y⟩

/-- Settles O37: the reduction takes carry-less multiples of 0x11D from the product until a byte is left, and each step of `mix64` can be undone. -/
theorem mixAndFieldProduct : Obligations.MixAndFieldProduct :=
  ⟨fun _ b ha _ => gfMul_spec b ha, by decide, by decide, fun _ => rfl, fun _ _ => mix64_injective, mix64_surjective, by decide⟩

end Sys2Proof.FieldAndMixer

/-! # Lane results: the lanes of the word that a lane operation writes (R381, R382) -/

namespace Sys2Proof.LaneResults

open Sys2Proof.Machine Sys2Proof.FieldAndMixer

/-! ## Lanes of a joined word -/

theorem range'_eq (n lo : Nat) : range' lo n = List.range' lo n := by
  induction n generalizing lo with
  | zero => rfl
  | succ n ih => rw [range', ih, List.range'_succ]

theorem joinLanes_lt (e : Nat) (l : List Nat) : joinLanes e l < 2 ^ (l.length * e) := by
  induction l with
  | nil => exact Nat.two_pow_pos _
  | cons x l ih =>
    have hx : x % 2 ^ e < 2 ^ e := Nat.mod_lt _ (Nat.two_pow_pos e)
    calc joinLanes e (x :: l) < 2 ^ e * (joinLanes e l + 1) := by rw [joinLanes, Nat.mul_succ]; omega
      _ ≤ 2 ^ e * 2 ^ (l.length * e) := Nat.mul_le_mul_left _ ih
      _ = 2 ^ ((x :: l).length * e) := by rw [List.length_cons, Nat.succ_mul, Nat.add_comm, Nat.pow_add]

theorem joinLanes_lane (e : Nat) {l : List Nat} {j : Nat} (hj : j < l.length) : joinLanes e l / 2 ^ (j * e) % 2 ^ e = l[j] % 2 ^ e := by
  induction l generalizing j with
  | nil => contradiction
  | cons x l ih =>
    rw [joinLanes]
    cases j with
    | zero => rw [Nat.zero_mul, Nat.pow_zero, Nat.div_one, Nat.add_mul_mod_self_left, Nat.mod_mod, List.getElem_cons_zero]
    | succ j =>
      have hrest : (x % 2 ^ e + 2 ^ e * joinLanes e l) / 2 ^ e = joinLanes e l := by
        rw [Nat.add_mul_div_left _ _ (Nat.two_pow_pos e), Nat.mod_div_self, Nat.zero_add]
      rw [Nat.succ_mul, Nat.add_comm (j * e), Nat.pow_add, ← Nat.div_div_eq_div_mul, hrest, List.getElem_cons_succ]
      exact ih (Nat.lt_of_succ_lt_succ hj)

theorem laneOf_eq_lane (v : VWord) (e j : Nat) : laneOf v.toNat e j = lane v e j := by
  rw [laneOf, fld, lane, Nat.mul_comm]

theorem lane_lt (v : VWord) (e j : Nat) : lane v e j < 2 ^ e := Nat.mod_lt _ (Nat.two_pow_pos e)

theorem laneActive_iff (p : PWord) (e j : Nat) : laneActive p e j = true ↔ activeLane p e j := by
  rw [laneActive, bit_eq_testBit, activeLane]

theorem laneWord_toNat {e : Nat} {l : List Nat} (h : l.length * e ≤ 1024) : (laneWord e l).toNat = joinLanes e l := by
  rw [laneWord, BitVec.toNat_ofNat]
  generalize 1024 = n at h ⊢
  exact Nat.mod_eq_of_lt (Nat.lt_of_lt_of_le (joinLanes_lt e l) (Nat.pow_le_pow_right (by decide) h))

/-! ## The result of a lane operation -/

theorem lane_mapLanes {w e : Nat} (p : PWord) (old : VWord) (f : Nat → Nat) {j : Nat} (hw : w / e * e ≤ 1024) (hj : j < w / e) :
    lane (mapLanes w e p old f) e j = (if laneActive p e j then f j else lane old e j) % 2 ^ e := by
  rw [lane, mapLanes, laneWord_toNat (by simpa [range'_eq] using hw), joinLanes_lane e (by simpa [range'_eq] using hj)]
  simp only [range'_eq, List.getElem_map, List.getElem_range', Nat.zero_add, Nat.one_mul, laneOf_eq_lane]

theorem mapLanes_lt {w e : Nat} (p : PWord) (old : VWord) (f : Nat → Nat) (hw : w / e * e ≤ 1024) :
    (mapLanes w e p old f).toNat < 2 ^ (w / e * e) := by
  rw [mapLanes, laneWord_toNat (by simpa [range'_eq] using hw)]
  refine Nat.lt_of_lt_of_eq (joinLanes_lt e _) ?_
  simp only [range'_eq, List.length_map, List.length_range']

theorem mapLanes_lanesAre {w : Nat} (e : Nat) (p : PWord) (old : VWord) (f : Nat → Nat) (hw : w ≤ 1024) :
    LanesAre (w / e) e p old f (mapLanes w e p old f) := by
  have hfit : w / e * e ≤ 1024 := Nat.le_trans (Nat.div_mul_le_self w e) hw
  refine ⟨fun j hj ha => ?_, fun j hj ha => ?_, mapLanes_lt p old f hfit⟩
  · rw [lane_mapLanes p old f hfit hj, if_pos ((laneActive_iff p e j).2 ha)]
  · rw [lane_mapLanes p old f hfit hj, if_neg (mt (laneActive_iff p e j).1 ha), Nat.mod_eq_of_lt (lane_lt old e j)]

theorem widBits_le (w : Wid) : widBits w ≤ 1024 := by cases w <;> decide

/-- What an operation that writes lanes by a function of the two source lanes writes. -/
theorem writesV_bLanes {i : Instr} {s : State} {w : Wid} {t : ITy} {d a b : RegNo} {p : BitVec 4} {f : Nat → Nat → Nat}
    (h : exec i s = .next (s.bLanes w t d a b p f)) :
    WritesV i s d (LanesAre (widBits w / ityBits t) (ityBits t) (s.rdP p) (s.rdV d)
      fun j => f (lane (s.rdV a) (ityBits t) j) (lane (s.rdV b) (ityBits t) j)) := by
  refine writesV_of h ?_
  simp only [laneOf_eq_lane]
  exact mapLanes_lanesAre _ _ _ _ (widBits_le w)

end Sys2Proof.LaneResults

/-! # Lane shifts, bit by bit (R391) -/

namespace Sys2Proof.LaneShifts

open Sys2Proof.Machine Sys2Proof.LaneResults

theorem testBit_laneShl {e i : Nat} (x c : Nat) (hi : i < e) : (laneShl e x c).testBit i = (decide (c ≤ i) && x.testBit (i - c)) := by
  rw [laneShl]
  split
  case isTrue hc => rw [Nat.zero_testBit, decide_eq_false (by omega), Bool.false_and]
  case isFalse => rw [Nat.testBit_mod_two_pow, decide_eq_true hi, Bool.true_and, Nat.testBit_mul_two_pow]

theorem testBit_laneShr {e x i : Nat} (c : Nat) (hx : x < 2 ^ e) :
    (laneShr e x c).testBit i = (decide (i + c < e) && x.testBit (i + c)) := by
  rw [laneShr]
  split
  case isTrue hc => rw [Nat.zero_testBit, decide_eq_false (by omega), Bool.false_and]
  case isFalse =>
    rw [Nat.testBit_div_two_pow]
    by_cases hi : i + c < e
    · rw [decide_eq_true hi, Bool.true_and]
    · rw [decide_eq_false hi, Bool.false_and]
      exact Nat.testBit_lt_two_pow (Nat.lt_of_lt_of_le hx (Nat.pow_le_pow_right (by decide) (Nat.le_of_not_lt hi)))

theorem toSigned_eq_toInt {e : Nat} (x : Nat) (he : 0 < e) : toSigned x e = (BitVec.ofNat e x).toInt := by
  obtain ⟨n, rfl⟩ := Nat.exists_eq_succ_of_ne_zero (Nat.ne_of_gt he)
  have htop : x % 2 ^ n.succ < 2 ^ n ↔ 2 * (x % 2 ^ n.succ) < 2 ^ n.succ := by rw [Nat.pow_succ 2 n]; omega
  simp only [toSigned, BitVec.toInt_eq_toNat_cond, BitVec.toNat_ofNat, Nat.succ_sub_one, htop]

/-- The arithmetic shift of a lane is the arithmetic shift of the bit vector, by no more than the lane's width. -/
theorem laneSha_eq_sshiftRight {e : Nat} (x c : Nat) (he : 0 < e) : laneSha e x c = ((BitVec.ofNat e x).sshiftRight (min c e)).toNat := by
  have hmin : (if c ≥ e then e else c) = min c e := by split <;> omega
  rw [laneSha, hmin, toSigned_eq_toInt x he, ofInt, BitVec.sshiftRight, BitVec.toNat_ofInt, Int.shiftRight_eq_div_pow]

theorem testBit_laneSha {e i : Nat} (x c : Nat) (hi : i < e) :
    (laneSha e x c).testBit i = if i + c < e then x.testBit (i + c) else x.testBit (e - 1) := by
  rw [laneSha_eq_sshiftRight x c (Nat.zero_lt_of_lt hi), BitVec.testBit_toNat, BitVec.getLsbD_sshiftRight, decide_eq_false (Nat.not_le_of_lt hi),
    Bool.not_false, Bool.true_and]
  by_cases hc : i + c < e
  · have hmin : min c e + i = i + c := by omega
    rw [hmin, if_pos hc, if_pos hc, BitVec.getLsbD_ofNat, decide_eq_true hc, Bool.true_and]
  · rw [if_neg (by omega), if_neg hc, BitVec.msb_eq_getLsbD_last, BitVec.getLsbD_ofNat, decide_eq_true (by omega), Bool.true_and]

/-- What an operation that writes lanes by a function of the two source lanes writes, given by the bits of each lane. -/
theorem writesV_bLanes_bits {i : Instr} {s : State} {w : Wid} {t : ITy} {d a b : RegNo} {p : BitVec 4} {f : Nat → Nat → Nat}
    {g : Nat → Nat → Bool} (h : exec i s = .next (s.bLanes w t d a b p f))
    (hbits : ∀ j k, k < ityBits t → (f (lane (s.rdV a) (ityBits t) j) (lane (s.rdV b) (ityBits t) j)).testBit k = g j k) :
    WritesV i s d fun v => ∃ r, LanesAre (widBits w / ityBits t) (ityBits t) (s.rdP p) (s.rdV d) r v ∧
      ∀ j k, k < ityBits t → (r j).testBit k = g j k := by
  obtain ⟨u, hexec, hlanes, hkeeps⟩ := writesV_bLanes h
  exact ⟨u, hexec, ⟨_, hlanes, hbits⟩, hkeeps⟩

/-- Settles O30: a count of the width or more moves every bit of the lane out, so one rule for each bit covers every count. -/
theorem shiftLanes : Obligations.ShiftLanes := by
  intro s w t d a b p e x c writes
  have hx (j : Nat) : x j < 2 ^ e := lane_lt (s.rdV a) e j
  exact ⟨writesV_bLanes_bits rfl fun j _ => testBit_laneShl (x j) (c j), writesV_bLanes_bits rfl fun j _ _ => testBit_laneShr (c j) (hx j),
    writesV_bLanes_bits rfl fun j _ => testBit_laneSha (x j) (c j)⟩

end Sys2Proof.LaneShifts
